-- ==== Sys2Proof/Word.lean ====
section
/-! DEFINITION. The word types of the P40 model (00 R6: words are 64 bits and little-endian; a byte is 8 bits). -/

namespace Sys2Proof

/-- A 64-bit word: scalar registers, control registers, instruction words. -/
abbrev Word := BitVec 64

/-- A byte of a store. -/
abbrev Byte := BitVec 8

end Sys2Proof
end

