-- ==== Sys2Proof/Syntax.lean ====
section
/-! DEFINITION. The commands of the P40 and what they carry. A command is one row of the opcode table: an
instruction that a stream of a cluster issues, an access by a management core, the control node, SMBus or the TAP, or
an event of a unit, a link, a pin or a clock. What only the outside world knows (the words of a flit, a sample, the
level of a pin) is an operand; everything else comes from the state. -/

namespace Sys2Proof

/-- Cluster number c, 0 to 31 (R15). -/
abbrev ClusterIx := Fin 32
/-- Partition number p, 0 to 7 (R31). -/
abbrev PartIx := Fin 8
/-- Matrix engine number e of a cluster, 0 to 3 (R18). -/
abbrev EngineIx := Fin 4
/-- DMA channel number of a cluster, 0 to 3 (R249). -/
abbrev ChanIx := Fin 4
/-- Management core number, HC0 to HC3 (R19). -/
abbrev CoreIx := Fin 4
/-- Port number, P0 to P23 (R286). -/
abbrev PortIx := Fin 24
/-- Lane number of a port (R286). -/
abbrev LaneIx := Fin 4
/-- Virtual channel code, 0 to 5 (R294). -/
abbrev VcIx := Fin 6
/-- Meridian session number (R412). -/
abbrev SessIx := Fin 16
/-- Mailbox number (R421). -/
abbrev MbxIx := Fin 64
/-- i of mailbox 48 + i to the control node (R424). -/
abbrev RecordBoxIx := Fin 8
/-- Power domain number, PD0 to PD49 (R380). -/
abbrev DomainIx := Fin 50

/-- The two instruction streams of a sequencer (R163). -/
inductive Stream where
  | F
  | B
  deriving DecidableEq, Repr

/-- Who makes a register access: a management core, a Meridian WRITE or READ, or SMBus (R227, R416, R495). Stores of a
program are instructions. -/
inductive Source where
  | core (n : CoreIx)
  | meridian
  | smbus
  deriving DecidableEq, Repr

/-- One instruction at the head of a stream: bits 55:0 of its word (R194); the opcode is the command's constructor. -/
structure Issue where
  /-- The cluster whose sequencer issues it. -/
  cl : ClusterIx
  /-- The stream. -/
  st : Stream
  /-- Bit 55. -/
  pn : Bool
  /-- Bits 54:52. -/
  pr : Fin 8
  /-- Bits 51:0, the operand fields of the format. -/
  f : BitVec 52
  deriving DecidableEq, Repr

/-- A 64-bit word with its check byte, as stores and links carry it (R253). -/
structure CodeWord where
  data : Word
  chk : Byte
  deriving DecidableEq, Repr

/-- A packet: two header words and 0 to 64 payload words (R296). trunc: ended by ABORT (R300). -/
structure Packet where
  h0 : CodeWord
  h1 : CodeWord
  payload : List CodeWord
  trunc : Bool
  deriving DecidableEq, Repr

/-- A flit as it arrives (R293): the 72-bit header, the payload slots that packets fill (at most 27), the CRC field,
the lanes whose FEC decoder flagged a codeword that the flit overlaps, and the FEC symbols corrected. -/
structure Flit where
  hdr : BitVec 72
  words : List CodeWord
  crc : BitVec 32
  fecLanes : BitVec 4
  fecCorrected : Nat
  deriving DecidableEq, Repr

/-- What the peer's INIT flits carry (R289, R290, R292), its MAXW, and the one-way latency measured (R307). -/
structure PeerInit where
  station : BitVec 16
  port : BitVec 5
  good : BitVec 4
  maxw : BitVec 2
  vmin : Nat
  vmax : Nat
  lat : BitVec 24
  deriving DecidableEq, Repr

/-- Where a packet enters the switch: a port, or a local unit (R299). -/
inductive SwitchInput where
  | port (n : PortIx)
  | unit
  deriving DecidableEq, Repr

/-- A barrier of the network: a program barrier, or the instance of barrier 63 of a partition (R305). -/
inductive BarrierId where
  | prog (b : Fin 63)
  | verdict (p : PartIx)
  deriving DecidableEq, Repr

/-- The buddy registers of R354. -/
inductive BuddyReg where
  | buddy
  | buddyAddr
  deriving DecidableEq, Repr

/-- Tagged activity of a shared counter in one sample: partition, category (0 CORE, 1 DMA, 2 LINK, 3 RED, 4 UPD) and
amount (R386). -/
structure Activity where
  p : PartIx
  cat : Fin 5
  amount : Nat
  deriving DecidableEq, Repr

/-- One measured supply: mV, mA, and the activity that splits it, with the untagged amount (R382, R386, R387). -/
structure Sampled where
  mv : Nat
  ma : Nat
  acts : List Activity
  untagged : Nat
  deriving DecidableEq, Repr

/-- The samples of one µs: the 50 domains, the 8 memory rails and the 48 V input (R382). -/
structure EnergySample where
  doms : List Sampled
  mems : List Sampled
  input : Sampled
  deriving DecidableEq, Repr

/-- One junction temperature sensor: the SOURCE code of its die and Tj in units of 0.25 °C, never below 0 (R401, R407). -/
structure Sensor where
  source : BitVec 16
  tj : BitVec 10
  deriving DecidableEq, Repr

/-- One failing encoder or checker of the self-test (R260, R261): its SOURCE, the instance, the failing pattern, and the LPDDR5X channels or
the ports that it guards. -/
structure SelfTestFail where
  source : BitVec 16
  inst : BitVec 32
  pattern : Word
  guards : List Nat
  deriving DecidableEq, Repr

/-- A Meridian frame as it arrives: 16 header bytes, payload, CRC (R412). -/
structure Frame where
  hdr : List Byte
  payload : List Byte
  crc : BitVec 32
  deriving DecidableEq, Repr


/-- The commands of the P40: one constructor for each row of the opcode table, with the rule the row cites.
The commands without operands stand last. -/
inductive Instr where
  /-- R206. The nop instruction (opc 0x00) issues and has no effect. A word whose opcode R197 does not list has no row of its own; it comes
  here with that opcode, and is ILLEGAL (R195; assumption log 70). -/
  | nop (i : Issue) (opc : BitVec 8)
  /-- R190. The end instruction marks its stream to stop once its issued tensor operations complete. -/
  | end_ (i : Issue)
  /-- R206. The trap instruction raises a precise SOFT trap with its immediate as trap information. -/
  | trap (i : Issue)
  /-- R176. fence.s blocks the stream until every tensor operation it issued has completed. -/
  | fenceS (i : Issue)
  /-- R176. fence.c blocks the stream until every tensor operation of the cluster has completed. -/
  | fenceC (i : Issue)
  /-- R176. fence.g blocks as fence.c, then makes writes visible station-wide and waits for remote writes to be acknowledged. -/
  | fenceG (i : Issue)
  /-- R202. Adds two scalar registers. -/
  | add (i : Issue)
  /-- R202. Subtracts two scalar registers. -/
  | sub (i : Issue)
  /-- R202. Multiplies two scalar registers, keeping the low 64 bits, with A3 latency. -/
  | mul (i : Issue)
  /-- R202. Bitwise AND of two scalar registers. -/
  | and (i : Issue)
  /-- R202. Bitwise OR of two scalar registers. -/
  | or (i : Issue)
  /-- R202. Bitwise XOR of two scalar registers. -/
  | xor (i : Issue)
  /-- R202. Shifts a scalar left by a register amount mod 64. -/
  | shl (i : Issue)
  /-- R202. Shifts a scalar right, filling with zeros. -/
  | shr (i : Issue)
  /-- R202. Shifts a scalar right, filling with the sign bit. -/
  | sra (i : Issue)
  /-- R202. Signed minimum of two scalar registers. -/
  | min (i : Issue)
  /-- R202. Signed maximum of two scalar registers. -/
  | max (i : Issue)
  /-- R202. Unsigned minimum of two scalar registers. -/
  | minu (i : Issue)
  /-- R202. Unsigned maximum of two scalar registers. -/
  | maxu (i : Issue)
  /-- R202. Adds a sign-extended immediate to a scalar register. -/
  | addi (i : Issue)
  /-- R202. Bitwise AND with a sign-extended immediate. -/
  | andi (i : Issue)
  /-- R202. Bitwise OR with a sign-extended immediate. -/
  | ori (i : Issue)
  /-- R202. Bitwise XOR with a sign-extended immediate. -/
  | xori (i : Issue)
  /-- R202. Shifts a scalar left by an immediate amount. -/
  | shli (i : Issue)
  /-- R202. Shifts a scalar right logically by an immediate amount. -/
  | shri (i : Issue)
  /-- R202. Shifts a scalar right arithmetically by an immediate amount. -/
  | srai (i : Issue)
  /-- R202. Loads a sign-extended immediate into a scalar register. -/
  | li (i : Issue)
  /-- R202. Replaces the high 32 bits of a scalar register with the immediate. -/
  | lih (i : Issue)
  /-- R202. Compares two scalar registers into a predicate by condition code. -/
  | cmp (i : Issue)
  /-- R202. Compares a scalar register with an immediate into a predicate. -/
  | cmpi (i : Issue)
  /-- R202. Combines two predicates by a logic code into a predicate. -/
  | pop (i : Issue)
  /-- R202. Copies a scalar register into an address register. -/
  | movA (i : Issue)
  /-- R202. Copies an address register into a scalar register. -/
  | movS (i : Issue)
  /-- R202. Adds a scalar register to an address register. -/
  | adda (i : Issue)
  /-- R202. Adds a sign-extended immediate to an address register. -/
  | addai (i : Issue)
  /-- R203. Loads 8 bytes into a scalar register, stalling the stream until data returns. -/
  | ldD (i : Issue)
  /-- R203. Loads 4 bytes zero-extended into a scalar register. -/
  | ldW (i : Issue)
  /-- R203. Stores 8 bytes of a scalar register. -/
  | stD (i : Issue)
  /-- R203. Stores the low 32 bits of a scalar register. -/
  | stW (i : Issue)
  /-- R204. Copies 64 bytes of memory into a descriptor register. -/
  | tdLd (i : Issue)
  /-- R204. Copies a descriptor register to 64 bytes of memory. -/
  | tdSt (i : Issue)
  /-- R204. Writes one descriptor field from a scalar register. -/
  | tdSet (i : Issue)
  /-- R205. Branches relative to the program counter. -/
  | b (i : Issue)
  /-- R205. Branches relative and writes the return address to a scalar register. -/
  | bl (i : Issue)
  /-- R205. Branches to the address held in an address register. -/
  | bi (i : Issue)
  /-- R172. Adds a value to a completion token's COUNT, trapping TOKEN_RANGE on overflow. -/
  | sig (i : Issue)
  /-- R173. Blocks the stream until a token's COUNT reaches the value, then subtracts it. -/
  | wait (i : Issue)
  /-- R182. Arrives at a barrier and then waits for its generation to complete. -/
  | bar (i : Issue)
  /-- R182. Arrives at a barrier once per generation, including fence.g. -/
  | barArr (i : Issue)
  /-- R182. Waits until the barrier generation of the cluster's last arrival completes. -/
  | barWt (i : Issue)
  /-- R207. Sends a 64-bit notice to the cluster's private mailbox or its partition's open mailbox. -/
  | mbxPut (i : Issue)
  /-- R208. Copies a window of a source tensor into a local or stashed destination on a DMA channel. -/
  | ldt (i : Issue)
  /-- R134. Loads a window through the transpose loader, exactly or through the requantiser. -/
  | ldtTr (i : Issue)
  /-- R208. Copies a whole local or stashed source into a window of a destination. -/
  | stt (i : Issue)
  /-- R208. Copies a whole tensor to an equal-shaped destination, locally or on a remote station. -/
  | dma (i : Issue)
  /-- R212. Issues one matrix-engine pass with FP8 tile and row operands. -/
  | mmaF8F8 (i : Issue)
  /-- R212. Issues one pass with an expanded FP4 tile and FP8 rows. -/
  | mmaF4xF8 (i : Issue)
  /-- R212. Issues one pass with an FP8 tile and expanded FP4 rows. -/
  | mmaF8F4x (i : Issue)
  /-- R212. Issues one pass with expanded FP4 tile and rows. -/
  | mmaF4xF4x (i : Issue)
  /-- R212. Issues one pass with INT8 tile and rows. -/
  | mmaI8I8 (i : Issue)
  /-- R212. Issues one pass with an expanded INT4 tile and INT8 rows. -/
  | mmaI4xI8 (i : Issue)
  /-- R212. Issues one pass with an INT8 tile and expanded INT4 rows. -/
  | mmaI8I4x (i : Issue)
  /-- R212. Issues one pass with expanded INT4 tile and rows. -/
  | mmaI4xI4x (i : Issue)
  /-- R212. Issues one quarter-rate pass with BF16 operands. -/
  | mmaBf16Bf16 (i : Issue)
  /-- R212. Issues one quarter-rate pass with FP16 operands. -/
  | mmaF16F16 (i : Issue)
  /-- R215. Drains a slot bit for bit, or its parallel-split combination, to FP32. -/
  | drainRaw (i : Issue)
  /-- R92. Drains a slot through scale, bias, activation function and output encoding. -/
  | drainAct (i : Issue)
  /-- R92. Drains an up slot multiplied by the activation of its gate slot. -/
  | drainGate (i : Issue)
  /-- R149. Drains a slot multiplied by the derivative of the stashed pre-activation. -/
  | drainDact (i : Issue)
  /-- R150. Drains the derivative of a gated product into du and dw. -/
  | drainDgate (i : Issue)
  /-- R101. Quantises a tensor to vector-block scales with optional outlier nomination. -/
  | qzBlk (i : Issue)
  /-- R101. Quantises a tensor to sheet scales with optional outlier nomination. -/
  | qzSheet (i : Issue)
  /-- R144. Normalises rows (LN or RMS) and records statistics. -/
  | rowfwdNorm (i : Issue)
  /-- R145. Computes a row soft-maximum, normalised or partial, and records statistics. -/
  | rowfwdSmax (i : Issue)
  /-- R157. Merges two soft-maximum row sets and their statistics. -/
  | rowfwdSmerge (i : Issue)
  /-- R144. Computes normalisation gradients and accumulates dgamma and dbeta. -/
  | rowbwdNorm (i : Issue)
  /-- R145. Computes soft-maximum gradients from recorded statistics. -/
  | rowbwdSmax (i : Issue)
  /-- R221. Applies an element-wise function in the vector unit. -/
  | vEw (i : Issue)
  /-- R221. Reduces along dimension 0 by sum, maximum or largest magnitude. -/
  | vRed (i : Issue)
  /-- R222. Gathers rows by index into a destination. -/
  | vGather (i : Issue)
  /-- R222. Scatters or scatter-adds rows by index into a destination. -/
  | vScatter (i : Issue)
  /-- R223. Enters the station's contribution into a bucket with E4M3 on the wire. -/
  | rsendB8 (i : Issue)
  /-- R223. Enters the station's contribution into a bucket with BF16 on the wire. -/
  | rsendBf16 (i : Issue)
  /-- R223. Completes at bucket close and writes the station's owned FP32 shard. -/
  | rrecv (i : Issue)
  /-- R165. A stream stalled at the in-flight limit issues its tensor operation once room frees. -/
  | issueStallRelease (cl : ClusterIx) (st : Stream)
  /-- R173. A blocked wait unblocks when the token's COUNT reaches the value and subtracts it. -/
  | waitSatisfied (cl : ClusterIx) (st : Stream)
  /-- R176. A blocked fence releases its stream once the operations it covers have completed. -/
  | fenceRelease (cl : ClusterIx) (st : Stream)
  /-- R207. A stream blocked on a full private mailbox posts its notice when space frees. -/
  | putUnblock (cl : ClusterIx) (st : Stream)
  /-- R180. A stream blocked beyond SEQ_WAIT_LIMIT ticks traps with WAIT_TIMEOUT. -/
  | waitTimeout (cl : ClusterIx) (st : Stream)
  /-- R190. A stream that executed end stops once its operations complete; the second stream's stop posts the step-end notice. -/
  | streamEnd (cl : ClusterIx) (st : Stream)
  /-- R140. An issued operation begins on its unit once the unit is free and the slot grants its stream. -/
  | opBegin (cl : ClusterIx) (op : Nat)
  /-- R68. A matrix-engine pass writes its last row and raises its completion token. -/
  | passComplete (cl : ClusterIx) (e : EngineIx)
  /-- R94. A drain writes its last output row and raises its token. -/
  | drainComplete (cl : ClusterIx) (e : EngineIx)
  /-- R105. A quantiser operation finishes writing its output and raises its token. -/
  | quantiserComplete (cl : ClusterIx)
  /-- R147. A row-engine operation finishes and raises its token. -/
  | rowOpComplete (cl : ClusterIx)
  /-- R198. A vector-unit operation finishes and raises its token. -/
  | vectorOpComplete (cl : ClusterIx)
  /-- R249. A local DMA-channel operation completes in issue order and raises its token. -/
  | dmaComplete (cl : ClusterIx) (ch : ChanIx)
  /-- R138. The slot counter completes 4096 cycles and advances to the next interleave entry. -/
  | slotBoundary (cl : ClusterIx)
  /-- R241. The weight-broadcast engines send the next tile once every receiver has a free queue place. -/
  | tileBroadcast (p : PartIx)
  /-- R189. The hub rings run-start doorbell 0 of every cluster once all holds clear, resetting cluster state. -/
  | runStart (p : PartIx)
  /-- R122. When all step-end notices are in and operations complete, HC1 closes the trouble table, classifies the loss and arrives at the verdict barrier. -/
  | runEnd (p : PartIx)
  /-- R185. HC1 handles a trap notice, logs it, abandons the partition's run and arrives at the verdict barrier with TRAPPED. -/
  | runAbandon (cl : ClusterIx)
  /-- R265. A faulted step is logged, the run abandoned without verdict arrival and a notice posted to the control node. -/
  | stepFault (p : PartIx)
  /-- R123. On completion of the verdict barrier every station derives HOLD, REPLAY, SKIP or CLEAN from the combined payload. -/
  | verdict (p : PartIx)
  /-- R125. A COMMIT answer to a hold discards recompute changes and proceeds to the commit barrier. -/
  | answerCommit (src : Source) (p : PartIx)
  /-- R125. A REPLAY answer to a hold recomputes, applies staged entries and reruns the step. -/
  | answerReplay (src : Source) (p : PartIx)
  /-- R125. A SKIP answer to a hold recomputes, applies staged entries and skips the batch. -/
  | answerSkip (src : Source) (p : PartIx)
  /-- R119. A write of APPLY arms staged recipe entries for the next boundary. -/
  | apply (src : Source) (p : PartIx)
  /-- R130. A write of HOLD_NEXT sets HOLDREQ in the next verdict payload. -/
  | holdNext (src : Source) (p : PartIx)
  /-- R114. A write of HUB_LOSS_REPORTp records the run's loss. -/
  | lossReport (src : Source) (p : PartIx) (v : BitVec 32)
  /-- R24. A write of 0x4B4A by core n reloads its watchdog. -/
  | wdtKick (src : Source) (n : CoreIx) (v : BitVec 32)
  /-- R26. A core's watchdog reaches zero; the hub sequencer resets the core and clears its mailboxes. -/
  | coreWdt (n : CoreIx) (pc : Word)
  /-- R26. After the firmware image re-check a reset core is released at its entry point. -/
  | coreRestart (n : CoreIx)
  /-- R25. A write of HUB_CORE_RELEASE restarts held-failed cores. -/
  | coreRelease (src : Source) (v : BitVec 32)
  /-- R32. A write of HUB_PARTp assigns clusters to a partition or is rejected. -/
  | partWrite (src : Source) (p : PartIx) (v : Word)
  /-- R230. A write of HUB_WINp sets a partition's LPDDR5X window or is rejected. -/
  | winWrite (src : Source) (p : PartIx) (v : Word)
  /-- R10. A write to a register with no behaviour of its own sets its fields by access code. -/
  | registerWrite (src : Source) (addr : BitVec 48) (width : Nat) (v : Word)
  /-- R244. An update descriptor completes its shadow writes and copies. -/
  | updateComplete (p : PartIx)
  /-- R246. The update units re-encode a changed layer's copies from the current masters at a boundary. -/
  | emit (p : PartIx)
  /-- R332. An owner sends its shard's new copies around the ring once the flip or emits are done. -/
  | gatherStart (p : PartIx) (tag : BitVec 12)
  /-- R333. A gather not completed within LNK_RED_TMO writes GATHER_FAIL and keeps the doorbell held. -/
  | gatherTimeout (p : PartIx) (tag : BitVec 12)
  /-- R289. A DOWN port enters DETECT after 125,000 ticks or fails after 8 attempts. -/
  | portDetect (port : PortIx)
  /-- R289. Signal on a lane in DETECT starts PHY training. -/
  | laneSignal (port : PortIx) (lane : LaneIx)
  /-- R289. Lane training and FEC lock complete and the port enters INIT. -/
  | phyTrainDone (port : PortIx) (locked : BitVec 4)
  /-- R289. The PHY_TRAIN limit expires and the port proceeds without unlocked lanes. -/
  | phyTrainTimeout (port : PortIx) (locked : BitVec 4)
  /-- R290. An INIT flit exchange agrees width and version and brings the port ACTIVE or DOWN. -/
  | initFlit (port : PortIx) (peer : PeerInit)
  /-- R289. The INIT limit expires without completion. -/
  | initTimeout (port : PortIx)
  /-- R289. A retrain exceeding its limit takes the port DOWN. -/
  | retrainTimeout (port : PortIx)
  /-- R291. A lane loses FEC lock, sending an ACTIVE port to RETRAIN. -/
  | fecLockLoss (port : PortIx) (lane : LaneIx)
  /-- R291. A write of RETRAIN retrains an ACTIVE port or restarts a FAILED one. -/
  | portRetrain (src : Source) (port : PortIx)
  /-- R289. A write of ENABLE = 0 sends the port to DISABLED. -/
  | portDisable (src : Source) (port : PortIx)
  /-- R289. A write of ENABLE = 1 moves a DISABLED port to DETECT. -/
  | portEnable (src : Source) (port : PortIx)
  /-- R293. A flit is checked, acknowledged or NAKed, and its credits and packets taken in. -/
  | flitReceive (port : PortIx) (flit : Flit)
  /-- R300. The switch forwards a packet by cut-through once the output VC holds credits. -/
  | packetForward (input : SwitchInput) (vc : VcIx)
  /-- R298. A WRITE unacknowledged within LNK_E2E_TMO is refused by the source's link die. -/
  | e2eTimeout (tid : BitVec 17)
  /-- R304. At Tr plus offset the station releases the barrier generation. -/
  | barrierRelease (bar : BarrierId)
  /-- R302. A write of LNK_STATION assigns the station number. -/
  | stationAssign (src : Source) (v : BitVec 32)
  /-- R307. A follower steps or slews TCK_NOW from its parent's stamp. -/
  | tsyncReceive (sub : Nat)
  /-- R335. A wire block is encoded and forwarded once its incoming data and contribution have arrived. -/
  | wireBlockForward (p : PartIx) (tag : BitVec 12) (block : Nat)
  /-- R328. A station's closure part becomes final and it compares digests and enters the closure lap. -/
  | closureFinal (p : PartIx) (tag : BitVec 12)
  /-- R334. A bucket not closed within LNK_RED_TMO faults the step. -/
  | bucketTimeout (p : PartIx) (tag : BitVec 12)
  /-- R341. HC2 prepares the mirror record and arrives at the commit barrier once its conditions hold. -/
  | commitArrive (p : PartIx)
  /-- R361. Staging copy, hash and seal complete and the image is STAGED. -/
  | ckptStaged (p : PartIx)
  /-- R344. A commit barrier unreleased within CRN_COMMIT_TMOp is reported while waiting continues. -/
  | commitTimeout (p : PartIx)
  /-- R354. An unacknowledged mirror send fails and holds the doorbell. -/
  | mirrorSendTimeout (p : PartIx)
  /-- R354. A write of the buddy registers restarts a failed mirror send to the new buddy. -/
  | buddyWrite (src : Source) (p : PartIx) (which : BuddyReg) (v : Word)
  /-- R345. The HALT command abandons the run, discards buckets and leaves barrier 63. -/
  | halt (src : Source) (p : PartIx)
  /-- R346. The FLIP command sets EPOCH to ARRIVED and installs the record. -/
  | flip (src : Source) (p : PartIx)
  /-- R367. The RESUME command checks and installs the record, emits, regathers and resumes the step. -/
  | resume (src : Source) (p : PartIx)
  /-- R355. The MIRROR_LOAD command checks a record and copies it into the out slot. -/
  | mirrorLoad (src : Source) (p : PartIx)
  /-- R369. The RESTORE command starts checking a checkpoint image for the expected epoch. -/
  | restore (src : Source) (p : PartIx)
  /-- R369. A restore's checks end, either writing the image and setting RESTORED or reporting RESTORE_BAD. -/
  | restoreDone (p : PartIx)
  /-- R360. The CKPT_AT command names an epoch for a checkpoint. -/
  | ckptAt (src : Source) (p : PartIx)
  /-- R366. The DRAINED command releases the staged image area. -/
  | drained (src : Source) (p : PartIx)
  /-- R378. The SET_EPOCH command sets the initial epoch, streams and record. -/
  | setEpoch (src : Source) (p : PartIx)
  /-- R383. Every µs the domains, rails and input are sampled and energy counters and accounts settled. -/
  | energySample (sample : EnergySample)
  /-- R391. At each period boundary the governor computes a new target setting. -/
  | governorPeriod (sensors : List Sensor)
  /-- R394. A droop detector trips and the cluster's CORECLK is stretched. -/
  | droopTrip (cl : ClusterIx)
  /-- R394. HOLD ticks pass without a trip and the stretch ends. -/
  | droopHoldEnd (cl : ClusterIx)
  /-- R380. A woken domain becomes usable after its wake time. -/
  | domainWakeDone (d : DomainIx)
  /-- R381. PWR_DOM_CMD retain puts idle cluster domains in RETAIN or is rejected. -/
  | domRetain (src : Source) (clusters : BitVec 32)
  /-- R381. PWR_DOM_CMD wake requests cluster domains to wake through the bucket. -/
  | domWake (src : Source) (clusters : BitVec 32)
  /-- R389. A write of PWR_CAP sets cap, window and peak and logs CAP_SET. -/
  | pwrCapWrite (src : Source) (v : BitVec 32)
  /-- R404. A write of 0x434C to PWR_RESTART restarts a stopped P40 or is rejected. -/
  | restart (src : Source) (v : BitVec 32)
  /-- R271. A write of GO starts a scrubber pass or is rejected. -/
  | scrubGo (src : Source) (v : BitVec 32)
  /-- R266. A location-table entry idle for 2^40 ticks is dropped. -/
  | locationDrop (i : Nat)
  /-- R270. A write of ACCEPT_EMPTY lets start-up continue with no retirement record. -/
  | acceptEmpty (src : Source) (v : BitVec 32)
  /-- R278. A write of THAW unfreezes the Field Book. -/
  | thaw (src : Source) (v : BitVec 32)
  /-- R415. A received HELLO agrees a version and brings the port UP, resetting sessions. -/
  | helloReceive (frame : Frame)
  /-- R413. A CMD frame is accepted in sequence or discarded with NAK or ACK. -/
  | cmdFrameReceive (frame : Frame)
  /-- R413. A CTRL frame advances ACKs and credits or triggers a resend on NAK. -/
  | ctrlFrameReceive (frame : Frame)
  /-- R413. No ACK advance within ACK_TMO resends from the oldest unacknowledged frame. -/
  | ackTimeout (s : SessIx)
  /-- R414. A waiting RSP or EVENT frame is sent once a credit is held. -/
  | frameSend (s : SessIx)
  /-- R417. The LOAD command places an image in a partition's window and checks it. -/
  | load (s : SessIx)
  /-- R417. LOAD with length 0 unloads the partition's image. -/
  | unload (s : SessIx)
  /-- R417. The RUN command requests the first run of a partition. -/
  | run (s : SessIx)
  /-- R417. The READ command returns data of an address range. -/
  | read (s : SessIx)
  /-- R417. The WRITE command writes data to an address range. -/
  | write (s : SessIx)
  /-- R423. The MBX PUT sub-op posts a notice to the session's or an open mailbox. -/
  | meridianMbxPut (s : SessIx)
  /-- R423. The MBX GET sub-op reads and acknowledges a hub-to-control-node notice. -/
  | mbxGet (s : SessIx)
  /-- R423. The MBX STAT sub-op returns a mailbox's status. -/
  | mbxStat (s : SessIx)
  /-- R423. The MBX RING sub-op rings a cluster doorbell 2–63. -/
  | mbxRing (s : SessIx)
  /-- R423. A PUT to a full mailbox unresolved within MBXTMO is answered NAK_FULL. -/
  | mbxPutTimeout (s : SessIx)
  /-- R420. The TELEM command returns a one-tick telemetry record. -/
  | telem (s : SessIx)
  /-- R449. The ATTEST command returns a signed attestation report. -/
  | attest (s : SessIx)
  /-- R472. The FREEZE command stops every root-derived clock for read-out. -/
  | freeze (s : SessIx)
  /-- R475. The READOUT command returns read-out data of a segment from a frozen P40. -/
  | readout (s : SessIx)
  /-- R422. A write of MBX_PUTn posts a notice, waits, or is refused. -/
  | mbxPost (src : Source) (n : MbxIx) (v : Word)
  /-- R422. The receiver's read of MBX_DATAn takes the notice and acknowledges the sender. -/
  | mbxDataRead (src : Source) (n : MbxIx)
  /-- R424. The oldest queued control-node record is posted when its mailbox empties. -/
  | recordPost (i : RecordBoxIx)
  /-- R426. A write of MBX_DB_RINGc rings doorbells, raising tokens or holding the rings. -/
  | doorbellRing (src : Source) (c : ClusterIx) (v : Word)
  /-- R432. A write of HUB_RESET with KIND warm requests a warm reset or is rejected. -/
  | hubResetWarm (src : Source) (v : BitVec 32)
  /-- R432. A write of HUB_RESET with KIND cold requests a cold reset. -/
  | hubResetCold (src : Source) (v : BitVec 32)
  /-- R484. Two samples below 38 V open the input switch. -/
  | inputUndervoltage (mv : Nat)
  /-- R484. Two samples above 62 V open the input switch. -/
  | inputOvervoltage (mv : Nat)
  /-- R484. Input held within 40–60 V for 100 ms starts the cold reset. -/
  | inputPowerGood (mv : Nat)
  /-- R485. The rail sequence brings up intermediate, memory and hub rails. -/
  | rails (tray : BitVec 4) (slot : BitVec 4)
  /-- R260. Every encoder and checker runs its patterns and failures are acted on. -/
  | selftest (fails : List SelfTestFail)
  /-- R440. LPDDR5X channels are initialised, repaired, trained and filled. -/
  | dram (failed : List Nat)
  /-- R451. The PROGRAM firmware command verifies and writes an image to the inactive slot. -/
  | program (src : Source)
  /-- R452. The FLOOR firmware command accepts or rejects a new rollback floor record. -/
  | floor (src : Source)
  /-- R451. The ABANDON firmware command clears the pending slot. -/
  | abandon (src : Source)
  /-- R437. The BOOT firmware command verifies and starts an image from the boot buffer. -/
  | boot (src : Source)
  /-- R477. The TAP SAMPLE/PRELOAD instruction samples or preloads the boundary scan. -/
  | samplePreload (pins : List Bool)
  /-- R477. The TAP EXTEST instruction drives boundary-scan test values. -/
  | extest (pins : List Bool)
  /-- R477. The TAP RO_ADDR instruction sets the read-out segment and offset. -/
  | roAddr (v : Word)
  /-- R495. SMBus command 0x01 sets the register address. -/
  | smbSetAddress (addr : BitVec 48) (pecOk : Bool)
  /-- R495. SMBus command 0x02 reads the addressed register. -/
  | smbReadRegister (pecOk : Bool)
  /-- R495. SMBus command 0x03 writes the addressed register if permitted. -/
  | smbWriteRegister (width : Nat) (v : Word) (pecOk : Bool)
  /-- R198. The data of a scalar or descriptor load returns from its store and the stalled stream resumes, or stops on an uncorrectable word. -/
  | loadDataReturn (cl : ClusterIx) (st : Stream)
  /-- R264. A management core meets an uncorrectable or poisoned word and the hub sequencer resets it as on a watchdog expiry. -/
  | coreUe (n : CoreIx) (addr : BitVec 48) (syndrome : BitVec 8)
  /-- R297. A WRITE packet at its destination is checked and written, acknowledged, NAKed or refused. -/
  | writeReceive
  /-- R210. A WACK acknowledges remote WRITE packets, completing remote operations. -/
  | wackReceive
  /-- R297. A REFUSE halts the sending DMA channel or faults a bucket. -/
  | refuseReceive
  /-- R297. An E_NAK makes the source resend the packet once from its source. -/
  | eNakReceive
  /-- R304. A BAR_UP from a child is counted and combined, possibly completing the station. -/
  | barUpReceive
  /-- R304. A BAR_DOWN carries the release tick down the barrier tree. -/
  | barDownReceive
  /-- R307. A master or locked follower sends TSYNC to each child every TCK_PERIOD. -/
  | tsyncSend
  /-- R318. A scatter RED packet's elements are decoded and added to this station's contribution. -/
  | redScatterReceive
  /-- R332. Gather bytes are written to copy buffers and forwarded. -/
  | redGatherReceive
  /-- R326. A HOP trailer delivers the predecessor's SENT digest. -/
  | hopReceive
  /-- R328. An up-lap status word is combined and forwarded. -/
  | upStatusReceive
  /-- R322. Up-lap m[b] bytes are combined by maximum and forwarded. -/
  | upMaxReceive
  /-- R329. The final status word decides re-run, fault or close of the bucket. -/
  | downStatusReceive
  /-- R322. Combined m[b] bytes arrive for the next scale table. -/
  | downMaxReceive
  /-- R323. Pre-agreement m[b] bytes are combined on the up lap. -/
  | preUpReceive
  /-- R323. Agreed pre-scale bytes become the working bytes. -/
  | preDownReceive
  /-- R332. A gather hop trailer is compared and the gather completes or fails. -/
  | gatherHopReceive
  /-- R392. A pending change of divisor or skip takes effect at a permitted aligned boundary, with voltage ramp. -/
  | settingChange
  /-- R397. Each tick the wake-token bucket gains a token if below 64. -/
  | tokenRefill
  /-- R397. The head of the wake queue is granted its tokens, starting a domain wake or engine start. -/
  | wakeGrant
  /-- R403. COOL_OK low for 125 ticks declares coolant loss and stops the P40. -/
  | coolLoss
  /-- R272. A scrub pass ends, writes its summary record and clears BUSY. -/
  | scrubDone
  /-- R270. HC3 writes and reads back a new retirement record, after which retirements take effect. -/
  | retirementRecordWrite
  /-- R277. Queued Field Book entries are written in order, up to four per tick, freezing on a fatal entry. -/
  | fieldBookWrite
  /-- R471. HC3 checks conservation identities at flips and every second, failing fatally on a mismatch. -/
  | conserveCheck
  /-- R411. Light detected moves the Meridian port from DOWN to LOCK. -/
  | meridianLight
  /-- R411. FEC lock moves the Meridian port to HELLO. -/
  | meridianLock
  /-- R411. Lock not reached within 6,250,000 ticks returns the port to DOWN. -/
  | meridianLockTimeout
  /-- R411. Loss of lock takes the Meridian port DOWN and resets sessions. -/
  | meridianLockLoss
  /-- R415. In HELLO state the port sends a HELLO frame every 125,000 ticks. -/
  | helloSend
  /-- R431. RESET_n low for 125 ticks starts a cold reset. -/
  | resetPin
  /-- R436. Mask ROM reads the PUF, clears hub SRAM, checks the root key and brings up the port. -/
  | rom
  /-- R437. ROM chooses, verifies and starts the firmware image. -/
  | fwLoad
  /-- R446. The configuration and retirement records are loaded and SRAM repairs applied. -/
  | records
  /-- R448. The identity key is derived from the PUF. -/
  | identity
  /-- R438. Uncore, edge, link and cluster domains are woken through the bucket. -/
  | domains
  /-- R433. On-package stores are filled with zeros and valid check bytes. -/
  | stores
  /-- R441. Every enabled port is started in DETECT. -/
  | links
  /-- R442. Start-up ends: measurement frozen, READY set and BOOT_READY posted. -/
  | ready
  /-- R434. A start-up phase exceeding its limit stops start-up. -/
  | bootTimeout
  /-- R472. FREEZE_n seen low starts a freeze. -/
  | freezePin
  /-- R460. Loss of REFCLK or root PLL lock freezes the P40 with cause 3. -/
  | rootUnlock
  /-- R477. The TAP IDCODE instruction returns 0x0004_074B. -/
  | idcode
  /-- R477. The TAP BYPASS instruction selects the bypass register. -/
  | bypass
  /-- R477. The TAP RO_DATA instruction shifts out read-out words and advances the offset. -/
  | roData
  /-- R495. SMBus command 0x04 returns the status of the last command. -/
  | smbReadStatus
  /-- R473. While frozen, a junction sensor reaching 125 °C makes the regulator hardware remove power from every domain and the frozen state is lost. -/
  | junction125cPowerOff
  /-- R489. TRST_n driven low holds the 1149.1 TAP in reset. -/
  | tapReset
  deriving DecidableEq, Repr

end Sys2Proof
end

