-- ==== Sys2Proof/Decode.lean ====
section
/-! DEFINITION. From words to commands. The opcode table gives its rows no bits, so no table word spells a command (assumption log 7); the word
of a program's instruction spells one by its own format (R194, R196, R197). -/

namespace Sys2Proof

/-- The command that a word spells by the table's bits: none, since no row gives bits. -/
def decodeTableWord (_nbits _w : Nat) : Option Instr := none

/-- What a stream of a cluster issues with a word: predicate and operand fields (R194). -/
def wordIssue (cl : ClusterIx) (st : Stream) (w : BitVec 64) : Issue :=
  ⟨cl, st, w.getLsbD 55, ⟨(w.extractLsb' 52 3).toNat, (w.extractLsb' 52 3).isLt⟩, w.extractLsb' 0 52⟩

/-- fence.s, fence.c, fence.g by KIND; a reserved KIND is ILLEGAL and comes as fence.s (R176). -/
def fenceOf (i : Issue) : Instr :=
  match (i.f.extractLsb' 38 2).toNat with
  | 1 => .fenceC i
  | 2 => .fenceG i
  | _ => .fenceS i

/-- The command of a stream's instruction word: bits 63:56 are its opcode (R194, R197); a word whose opcode R197 does not list comes as nop
with that opcode (assumption log 70). -/
def instrOf (cl : ClusterIx) (st : Stream) (w : BitVec 64) : Instr :=
  let i := wordIssue cl st w
  match (w.extractLsb' 56 8).toNat with
  | 0x03 => fenceOf i
  | 0x01 => .end_ i
  | 0x02 => .trap i
  | 0x10 => .add i
  | 0x11 => .sub i
  | 0x12 => .mul i
  | 0x13 => .and i
  | 0x14 => .or i
  | 0x15 => .xor i
  | 0x16 => .shl i
  | 0x17 => .shr i
  | 0x18 => .sra i
  | 0x19 => .min i
  | 0x1A => .max i
  | 0x1B => .minu i
  | 0x1C => .maxu i
  | 0x20 => .addi i
  | 0x21 => .andi i
  | 0x22 => .ori i
  | 0x23 => .xori i
  | 0x24 => .shli i
  | 0x25 => .shri i
  | 0x26 => .srai i
  | 0x27 => .li i
  | 0x28 => .lih i
  | 0x30 => .cmp i
  | 0x31 => .cmpi i
  | 0x32 => .pop i
  | 0x33 => .movA i
  | 0x34 => .movS i
  | 0x35 => .adda i
  | 0x36 => .addai i
  | 0x40 => .ldD i
  | 0x41 => .ldW i
  | 0x42 => .stD i
  | 0x43 => .stW i
  | 0x44 => .tdLd i
  | 0x45 => .tdSt i
  | 0x46 => .tdSet i
  | 0x50 => .b i
  | 0x51 => .bl i
  | 0x52 => .bi i
  | 0x60 => .sig i
  | 0x61 => .wait i
  | 0x62 => .bar i
  | 0x63 => .barArr i
  | 0x64 => .barWt i
  | 0x65 => .mbxPut i
  | 0x70 => .ldt i
  | 0x71 => .ldtTr i
  | 0x72 => .stt i
  | 0x73 => .dma i
  | 0x80 => .mmaF8F8 i
  | 0x81 => .mmaF4xF8 i
  | 0x82 => .mmaF8F4x i
  | 0x83 => .mmaF4xF4x i
  | 0x84 => .mmaI8I8 i
  | 0x85 => .mmaI4xI8 i
  | 0x86 => .mmaI8I4x i
  | 0x87 => .mmaI4xI4x i
  | 0x88 => .mmaBf16Bf16 i
  | 0x89 => .mmaF16F16 i
  | 0x90 => .drainRaw i
  | 0x91 => .drainAct i
  | 0x92 => .drainGate i
  | 0x93 => .drainDact i
  | 0x94 => .drainDgate i
  | 0xA0 => .qzBlk i
  | 0xA1 => .qzSheet i
  | 0xB0 => .rowfwdNorm i
  | 0xB1 => .rowfwdSmax i
  | 0xB2 => .rowfwdSmerge i
  | 0xB3 => .rowbwdNorm i
  | 0xB4 => .rowbwdSmax i
  | 0xC0 => .vEw i
  | 0xC1 => .vRed i
  | 0xC2 => .vGather i
  | 0xC3 => .vScatter i
  | 0xD0 => .rsendB8 i
  | 0xD1 => .rsendBf16 i
  | 0xD2 => .rrecv i
  | o => .nop i (BitVec.ofNat 8 o)

end Sys2Proof
end

