-- ==== Sys2Proof/Config.lean ====
section
/-! DEFINITION. What an implementation fixes and what the spec leaves open. Every constant here is opaque: it has no
body, so no proof can see a value of it, and a statement that mentions it holds for every value (assumption log 3).
Where the spec bounds a value (an error of half a BF16 ulp, say), the operation that uses the constant keeps the bound. -/

namespace Sys2Proof.Config

/-- exp of an FP32 value (05 R146: a fixed method that the spec does not give; used where it lies within the rule's 1 ulp). -/
opaque exp32 : BitVec 32 → BitVec 32

/-- rsqrt of an FP32 value (05 R146: likewise). -/
opaque rsqrt32 : BitVec 32 → BitVec 32

/-- The activation functions of FN 3 to 7 on a finite FP32 value (03 R93: used where it lies within the error bound, which is all the rule gives). -/
opaque actFn : BitVec 3 → BitVec 32 → BitVec 32

/-- The derivatives of FN 3 to 7 on a finite FP32 value (05 R149: likewise). -/
opaque dactFn : BitVec 3 → BitVec 32 → BitVec 32

/-- What the retry of an uncorrectable word reads: the syndrome found, from the word's address, the syndrome read
first and the n-th free value of the run (09 R263 leaves the outcome of a retry open). -/
opaque retrySyndrome : Nat → Nat → BitVec 8 → BitVec 8

/-- The level of COOL_OK in a tick (13 R403, 17 R489: an input of the module). -/
opaque coolPin : Nat → Bool

/-- A free value of 64 bits, the n-th drawn. -/
opaque freeWord : Nat → Word

/-- The value sampled at a boundary-scan cell or read from a read-out word whose layout is the implementation's own (16 R476), by
segment and word number and the n-th free value. -/
opaque readoutWord : Nat → Nat → Nat → Word

/-- The length in bytes of a STATE segment that a scan map defines (16 R475, R476), by segment; the toolchain supplies the maps. -/
opaque scanLength : Nat → Nat

/-- The 256-bit key that the PUF engine reconstructs from the array's contents (their number among all) and the helper data, 32 bytes;
none when the helper data does not decode (15 R448). -/
opaque pufKey : Nat → List Byte → Option (List Byte)

/-- D_ROM, the digest held in ROM, and the 64-byte hash of the vendor root key in ROM (15 R436, R447): constants of the mask. -/
opaque romDigest : List Byte
opaque rootHash : List Byte

/-- The certificate chain of a signer, by the KEYID that an image names, as the station that restores it has it: device certificate and
issuing certificate (12 R369, R371 give it no place). -/
opaque signerCerts : List Byte → List Byte × List Byte

/-- Rows of a bank that soft PPR can repair, by channel and bank (09 R267: a resource of the LPDDR5X device, without a number). -/
opaque pprRows : Nat → Nat → Nat

/-- The set of an edge cache that a segment, by its number, falls into (08 R237 gives the sets but not their choice); taken modulo their number. -/
opaque cacheSet : Nat → Nat

/-- A byte of LPDDR5X whose contents a channel retirement left undefined: the number of the retirement, the address (08 R234). -/
opaque lostByte : Nat → Nat → BitVec 8

/-- Whether the re-issued bursts of a segment bring its own tag, by the n-th free value of the run and the segment (09 R263). -/
opaque retryTag : Nat → Nat → Bool

/-- Whether a cluster that is not ordered after another cluster's write sees it already, by the n-th free value and the byte's address (06 R179). -/
opaque seesNew : Nat → Nat → Bool

/-- The address by which a report names a word of a memory that has no device address (03 R80, 05 R148): 0 accumulators, 1 side memory; the cluster;
the word. The spec gives such a word none; taken modulo 2^48. -/
opaque cellAddress : Nat → Nat → Nat → Nat

/-- The n-th idle word of the Meridian lane after the words of a frame (14 R410: idle words fill the gaps; their value is nowhere stated). -/
opaque idleWord : Nat → BitVec 64

/-- What reading back a record or an image written to flash returns, by the n-th free value and the bytes written (09 R270, 15 R443, R451). -/
opaque flashRead : Nat → List Byte → List Byte

/-- The two code bits, one in each of two words, that the placement of an encoder or checker makes neighbours, by the instance and the pattern of
the self-test (09 R258, R260); taken modulo 72. -/
opaque neighbours : Nat → Nat → Nat × Nat

end Sys2Proof.Config
end

