-- ==== Sys2Proof/Machine/Bits.lean ====
section
/-! DEFINITION. Bit fields, byte order and the sorted maps in which the state keeps sparse data. -/

namespace Sys2Proof.Machine

/-- Bits hi down to lo of a number. -/
def natBits (x hi lo : Nat) : Nat := x / 2 ^ lo % 2 ^ (hi + 1 - lo)

/-- A number with bits hi down to lo replaced by the low bits of v. -/
def natPut (x hi lo v : Nat) : Nat :=
  x / 2 ^ (hi + 1) * 2 ^ (hi + 1) + v % 2 ^ (hi + 1 - lo) * 2 ^ lo + x % 2 ^ lo

/-- Bit i of a number. -/
def natBit (x i : Nat) : Bool := x / 2 ^ i % 2 == 1

/-- Bits hi down to lo of x, as a number. -/
def bitsOf {w : Nat} (x : BitVec w) (hi lo : Nat) : Nat := natBits x.toNat hi lo

/-- Bit i of x. -/
def bitOf {w : Nat} (x : BitVec w) (i : Nat) : Bool := natBit x.toNat i

/-- x with bits hi down to lo replaced by the low bits of v. -/
def putBits {w : Nat} (x : BitVec w) (hi lo : Nat) (v : Nat) : BitVec w := BitVec.ofNat w (natPut x.toNat hi lo v)

/-- 1 for true. -/
def b2n (b : Bool) : Nat := if b then 1 else 0

/-- Sign extension of a 32-bit value to 64 bits. -/
def sext32 (x : BitVec 32) : Word := x.signExtend 64

/-- The n least significant bytes of v, least significant first (R6: little-endian). -/
def leBytes : Nat → Nat → List Byte
  | 0, _ => []
  | n + 1, v => BitVec.ofNat 8 v :: leBytes n (v / 256)

/-- The number whose bytes, least significant first, are given (R6). -/
def leNat : List Byte → Nat
  | [] => 0
  | b :: bs => b.toNat + 256 * leNat bs

/-- Ceiling division; x when the divisor is 0. -/
def cdiv (x y : Nat) : Nat := if y = 0 then x else (x + y - 1) / y

/-- x with n added, not beyond 2^w - 1 (a saturating count). -/
def satAdd (w x n : Nat) : Nat := min (x + n) (2 ^ w - 1)

/-- The numbers 0 to n - 1 for which p holds, ascending. -/
def indicesWhere (n : Nat) (p : Nat → Bool) : List Nat := (List.range n).filter p

/-- Apply f for every number 0 to n - 1 in ascending order. -/
def foldRange {α : Type} (n : Nat) (f : α → Nat → α) (a : α) : α := (List.range n).foldl f a

/-- Apply f to every element in order. -/
def foldOver {α β : Type} (l : List β) (a : α) (f : α → β → α) : α := l.foldl f a

/-- The element at a place of a list, or a default. -/
def nth {α : Type} (l : List α) (i : Nat) (d : α) : α := l.getD i d

/-- Split a list into pieces of n elements (the last may be shorter); fuel bounds the number of pieces. -/
def chunksAux {α : Type} (n : Nat) : Nat → List α → List (List α)
  | 0, _ => []
  | _ + 1, [] => []
  | k + 1, l => l.take n :: chunksAux n k (l.drop n)

/-- Split a list into pieces of n elements. -/
def chunks {α : Type} (n : Nat) (l : List α) : List (List α) := chunksAux n l.length l

/-! ### Maps from numbers, kept as lists with rising keys -/

/-- The value at a key. -/
def nget {α : Type} : List (Nat × α) → Nat → Option α
  | [], _ => none
  | (k, v) :: t, a => if k = a then some v else nget t a

/-- The value at a key, or a default. -/
def ngetD {α : Type} (d : α) (m : List (Nat × α)) (a : Nat) : α := (nget m a).getD d

/-- Put a value at a key. -/
def nset {α : Type} : List (Nat × α) → Nat → α → List (Nat × α)
  | [], a, v => [(a, v)]
  | (k, w) :: t, a, v =>
    if a < k then (a, v) :: (k, w) :: t
    else if a = k then (a, v) :: t
    else (k, w) :: nset t a v

/-- Remove a key. -/
def ndel {α : Type} (m : List (Nat × α)) (a : Nat) : List (Nat × α) := m.filter (fun c => c.1 != a)

/-- Put a value at a key, or remove the key when the value is the one an unlisted key reads as. -/
def nput {α : Type} [DecidableEq α] (d : α) (m : List (Nat × α)) (a : Nat) (v : α) : List (Nat × α) :=
  if v = d then ndel m a else nset m a v

/-- Remove every key in a range [lo, hi). -/
def ndelRange {α : Type} (m : List (Nat × α)) (lo hi : Nat) : List (Nat × α) :=
  m.filter (fun c => c.1 < lo || hi ≤ c.1)

/-- The keys rise strictly. -/
def nsorted {α : Type} : List (Nat × α) → Bool
  | [] => true
  | [_] => true
  | (a, _) :: (b, v) :: t => a < b && nsorted ((b, v) :: t)

end Sys2Proof.Machine
end

