-- ==== Sys2Proof/Machine/Float.lean ====
section
/-! DEFINITION. Number formats and their arithmetic (chapter 02). A value is an exact dyadic number, a signed infinity
or NaN; every conversion rounds to nearest, ties to even (R51). -/

namespace Sys2Proof.Machine

/-- A value: (-1)^neg · m · 2^e, an infinity, or NaN. m = 0 is the zero of that sign. NaN payloads do not exist (R63 item 3). -/
inductive Num where
  | nan
  | inf (neg : Bool)
  | fin (neg : Bool) (m : Nat) (e : Int)
  deriving DecidableEq, Repr

/-- The element formats of R36. -/
inductive Fmt where
  | none | fp32 | bf16 | fp16 | e4m3 | e5m2 | e2m1 | int8 | int4 | uint8
  deriving DecidableEq, Repr

/-- The 6-bit format codes of R36; codes 0x0A to 0x3F are reserved (R37). -/
def fmtOfCode : Nat → Option Fmt
  | 0 => some .none | 1 => some .fp32 | 2 => some .bf16 | 3 => some .fp16 | 4 => some .e4m3
  | 5 => some .e5m2 | 6 => some .e2m1 | 7 => some .int8 | 8 => some .int4 | 9 => some .uint8
  | _ => Option.none

/-- Bits per element (R36). -/
def fmtBits : Fmt → Nat
  | .none => 0 | .fp32 => 32 | .bf16 => 16 | .fp16 => 16 | .e4m3 => 8 | .e5m2 => 8 | .e2m1 => 4
  | .int8 => 8 | .int4 => 4 | .uint8 => 8

/-- emax of R36. -/
def fmtEmax : Fmt → Int
  | .e4m3 => 8 | .e5m2 => 15 | .e2m1 => 2 | _ => 0

/-- Whether a scale layout is allowed for a format (R36); layout 3 is reserved (R44). -/
def layoutAllowed (f : Fmt) (layout : Nat) : Bool :=
  match f with
  | .e4m3 | .e5m2 | .e2m1 | .int8 | .int4 => layout < 3
  | _ => layout == 0

/-- Whether the format has a NaN code (R39, R40, R53). -/
def fmtHasNan : Fmt → Bool
  | .e4m3 | .e5m2 | .fp32 | .bf16 | .fp16 => true
  | _ => false

def numZero : Num := .fin false 0 0

/-- Sign of a value; NaN has none. -/
def numNeg : Num → Bool
  | .nan => false
  | .inf n => n
  | .fin n _ _ => n

def numIsFinite : Num → Bool
  | .fin _ _ _ => true
  | _ => false

def numIsZero : Num → Bool
  | .fin _ 0 _ => true
  | _ => false

def numNegate : Num → Num
  | .nan => .nan
  | .inf n => .inf (!n)
  | .fin n m e => .fin (!n) m e

def numAbs : Num → Num
  | .nan => .nan
  | .inf _ => .inf false
  | .fin _ m e => .fin false m e

/-- floor(log2 |v|) of a finite non-zero value m · 2^e. -/
def magLog2 (m : Nat) (e : Int) : Int := (Nat.log2 m : Int) + e

/-- m1 · 2^e1 < m2 · 2^e2 for magnitudes. -/
def magLt (m1 : Nat) (e1 : Int) (m2 : Nat) (e2 : Int) : Bool :=
  let lo := min e1 e2
  m1 * 2 ^ (e1 - lo).toNat < m2 * 2 ^ (e2 - lo).toNat

/-- Exact a < b on finite values and infinities; false when a NaN is present; both zeros are equal. -/
def numLt (a b : Num) : Bool :=
  match a, b with
  | .nan, _ => false
  | _, .nan => false
  | .inf x, .inf y => x && !y
  | .inf x, .fin _ _ _ => x
  | .fin _ _ _, .inf y => !y
  | .fin na ma ea, .fin nb mb eb =>
    if ma = 0 && mb = 0 then false
    else if ma = 0 then !nb
    else if mb = 0 then na
    else match na, nb with
      | false, true => false
      | true, false => true
      | false, false => magLt ma ea mb eb
      | true, true => magLt mb eb ma ea

/-- The larger of two magnitudes, for finite values. -/
def numMaxAbs (a b : Num) : Num := if numLt (numAbs a) (numAbs b) then numAbs b else numAbs a

/-- The exact product; 0 × ∞ and NaN operands give NaN. -/
def numMul (a b : Num) : Num :=
  match a, b with
  | .nan, _ => .nan
  | _, .nan => .nan
  | .inf x, .inf y => .inf (x != y)
  | .inf x, .fin y m _ => if m = 0 then .nan else .inf (x != y)
  | .fin x m _, .inf y => if m = 0 then .nan else .inf (x != y)
  | .fin x m1 e1, .fin y m2 e2 => .fin (x != y) (m1 * m2) (e1 + e2)

/-- The exact signed integer of a finite value in units of 2^lo, where lo is at most its exponent. -/
def numUnits (neg : Bool) (m : Nat) (e lo : Int) : Int :=
  let x : Int := (m * 2 ^ (e - lo).toNat : Nat)
  if neg then -x else x

/-- The exact sum. An exact zero sum is +0 unless both operands are negative zeros or negative (R64, IEEE 754-2019
roundTiesToEven). -/
def numAdd (a b : Num) : Num :=
  match a, b with
  | .nan, _ => .nan
  | _, .nan => .nan
  | .inf x, .inf y => if x = y then .inf x else .nan
  | .inf x, .fin _ _ _ => .inf x
  | .fin _ _ _, .inf y => .inf y
  | .fin na ma ea, .fin nb mb eb =>
    let lo := min ea eb
    let s := numUnits na ma ea lo + numUnits nb mb eb lo
    if s = 0 then .fin (na && nb) 0 0
    else .fin (decide (s < 0)) s.natAbs lo

def numSub (a b : Num) : Num := numAdd a (numNegate b)

/-- v · 2^k exactly. -/
def numScale (v : Num) (k : Int) : Num :=
  match v with
  | .fin n m e => .fin n m (e + k)
  | x => x

/-- A quotient of finite non-zero magnitudes with at least 70 significant bits and a sticky last bit, enough for
correct rounding to any of the formats. -/
def magDiv (m1 : Nat) (e1 : Int) (m2 : Nat) (e2 : Int) : Nat × Int :=
  let k := 70 + Nat.log2 m2 - min (Nat.log2 m1) (Nat.log2 m2)
  let n := m1 * 2 ^ k
  let q := n / m2
  (2 * q + (if n % m2 = 0 then 0 else 1), e1 - e2 - k - 1)

/-- The quotient, exact up to the sticky bit of magDiv. -/
def numDiv (a b : Num) : Num :=
  match a, b with
  | .nan, _ => .nan
  | _, .nan => .nan
  | .inf _, .inf _ => .nan
  | .inf x, .fin y _ _ => .inf (x != y)
  | .fin x _ _, .inf y => .fin (x != y) 0 0
  | .fin x m1 e1, .fin y m2 e2 =>
    if m2 = 0 then (if m1 = 0 then .nan else .inf (x != y))
    else if m1 = 0 then .fin (x != y) 0 0
    else let (q, e) := magDiv m1 e1 m2 e2; .fin (x != y) q e

/-- Integer square root of n, given a number of bits that is enough: the largest r with r² ≤ n, found bit by bit. -/
def isqrtAux (n : Nat) : Nat → Nat → Nat
  | 0, r => r
  | k + 1, r => if (r + 2 ^ k) * (r + 2 ^ k) ≤ n then isqrtAux n k (r + 2 ^ k) else isqrtAux n k r

/-- The square root, exact up to a sticky last bit. -/
def numSqrt (a : Num) : Num :=
  match a with
  | .nan => .nan
  | .inf x => if x then .nan else .inf false
  | .fin x m e =>
    if m = 0 then .fin x 0 0
    else if x then .nan
    else
      -- make the exponent even and the significand long enough
      let k : Nat := 140 + (if (e % 2 = 0) then 0 else 1)
      let n := m * 2 ^ k
      let r := isqrtAux n (Nat.log2 n / 2 + 1) 0
      .fin false (2 * r + (if r * r = n then 0 else 1)) ((e - k) / 2 - 1)

/-! ### Rounding -/

/-- m · 2^e rounded to a multiple of 2^q, nearest with ties to even: the multiple. -/
def roundMag (m : Nat) (e q : Int) : Nat :=
  if q ≤ e then m * 2 ^ (e - q).toNat
  else
    let s := (q - e).toNat
    let d := 2 ^ s
    let t := m / d
    let r := m % d
    if 2 * r < d then t
    else if d < 2 * r then t + 1
    else if t % 2 = 0 then t else t + 1

/-- A value rounded to p significant bits with no place below 2^qmin, exponent unbounded above (R51). -/
def roundTo (p : Nat) (qmin : Int) (v : Num) : Num :=
  match v with
  | .fin n m e =>
    if m = 0 then .fin n 0 0
    else
      let q := max qmin (magLog2 m e - (p - 1 : Nat))
      .fin n (roundMag m e q) q
  | x => x

/-- Significant bits of a floating format. -/
def fmtPrec : Fmt → Nat
  | .fp32 => 24 | .bf16 => 8 | .fp16 => 11 | .e4m3 => 4 | .e5m2 => 3 | .e2m1 => 2 | _ => 1

/-- log2 of the smallest subnormal of a floating format (R38 to R40). -/
def fmtQmin : Fmt → Int
  | .fp32 => -149 | .bf16 => -133 | .fp16 => -24 | .e4m3 => -9 | .e5m2 => -16 | .e2m1 => -1 | _ => 0

/-- The largest finite value of a floating format (R38 to R40). -/
def fmtMax : Fmt → Num
  | .fp32 => .fin false (2 ^ 24 - 1) 104
  | .bf16 => .fin false (2 ^ 8 - 1) 120
  | .fp16 => .fin false (2 ^ 11 - 1) 5
  | .e4m3 => .fin false 14 5
  | .e5m2 => .fin false 7 13
  | .e2m1 => .fin false 3 1
  | _ => numZero

/-- Fraction bits, and exponent bias, of a floating format (R38 to R40). -/
def fmtFrac : Fmt → Nat
  | .fp32 => 23 | .bf16 => 7 | .fp16 => 10 | .e4m3 => 3 | .e5m2 => 2 | .e2m1 => 1 | _ => 0

def fmtBias : Fmt → Int
  | .fp32 => 127 | .bf16 => 127 | .fp16 => 15 | .e4m3 => 7 | .e5m2 => 15 | .e2m1 => 1 | _ => 0

/-- The value of a code of a floating format: subnormals at exponent field 0; the largest exponent field holds infinity
and NaN in FP32, BF16, FP16 and E5M2, only the fraction 0b111 is NaN in E4M3, and E2M1 has neither (R38 to R40). -/
def floatValue (f : Fmt) (code : Nat) : Num :=
  let fb := fmtFrac f
  let w := fmtBits f
  let frac := code % 2 ^ fb
  let emaxField := 2 ^ (w - 1 - fb) - 1
  let ef := (code / 2 ^ fb) % 2 ^ (w - 1 - fb)
  let neg := (code / 2 ^ (w - 1)) % 2 = 1
  let ieee := f = .fp32 || f = .bf16 || f = .fp16 || f = .e5m2
  if ieee && ef = emaxField then (if frac = 0 then .inf neg else .nan)
  else if f = .e4m3 && ef = emaxField && frac = 7 then .nan
  else if ef = 0 then .fin neg frac (1 - fmtBias f - fb)
  else .fin neg (2 ^ fb + frac) ((ef : Int) - fmtBias f - fb)

/-- The canonical NaN code (R38, R39). -/
def fmtNanCode : Fmt → Nat
  | .fp32 => 0x7FC00000 | .bf16 => 0x7FC0 | .fp16 => 0x7E00 | .e4m3 => 0x7F | .e5m2 => 0x7E | _ => 0

/-- The code of infinity where the format has one. -/
def fmtInfCode : Fmt → Nat
  | .fp32 => 0x7F800000 | .bf16 => 0x7F80 | .fp16 => 0x7C00 | .e5m2 => 0x7C | _ => 0

/-- The code of a value that the format holds exactly (as roundTo leaves it, at most fmtMax). -/
def floatCode (f : Fmt) (v : Num) : Nat :=
  let w := fmtBits f
  let fb := fmtFrac f
  let sgn := fun (n : Bool) => b2n n * 2 ^ (w - 1)
  match v with
  | .nan => fmtNanCode f
  | .inf n => sgn n + fmtInfCode f
  | .fin n m e =>
    if m = 0 then sgn n
    else
      let l := magLog2 m e
      if l < 1 - fmtBias f then sgn n + roundMag m e (fmtQmin f)
      else sgn n + ((l + fmtBias f).toNat) * 2 ^ fb + (roundMag m e (l - fb) - 2 ^ fb)

/-! ### FP32 operations (R64): correctly rounded, subnormals kept, overflow to infinity -/

/-- Round to a wide format with overflow to infinity (R62). -/
def toWide (f : Fmt) (v : Num) : Num :=
  let r := roundTo (fmtPrec f) (fmtQmin f) v
  if numIsFinite r && numLt (fmtMax f) (numAbs r) then .inf (numNeg r) else r

def toF32 (v : Num) : Num := toWide .fp32 v

def f32Add (a b : Num) : Num := toF32 (numAdd a b)
def f32Sub (a b : Num) : Num := toF32 (numSub a b)
def f32Mul (a b : Num) : Num := toF32 (numMul a b)
def f32Div (a b : Num) : Num := toF32 (numDiv a b)
def f32Sqrt (a : Num) : Num := toF32 (numSqrt a)

/-- The FP32 value of a 32-bit pattern and back. -/
def f32Of (x : BitVec 32) : Num := floatValue .fp32 x.toNat
def f32Bits (v : Num) : BitVec 32 := BitVec.ofNat 32 (floatCode .fp32 v)

def bf16Of (x : Nat) : Num := floatValue .bf16 (x % 65536)

/-- A finite non-zero value below the FP32 normal range. -/
def isSubnormal32 (v : Num) : Bool :=
  match v with
  | .fin _ m e => m ≠ 0 && decide (magLog2 m e < -126)
  | _ => false

/-- R63 item 2: a subnormal FP32 result becomes zero of the same sign. -/
def flush32 (v : Num) : Num :=
  if isSubnormal32 v then .fin (numNeg v) 0 0 else v

/-- FP32 operations of the accumulator and the drains, with the flush of R63. -/
def f32AddF (a b : Num) : Num := flush32 (f32Add a b)
def f32MulF (a b : Num) : Num := flush32 (f32Mul a b)

/-- max and min of R221: a NaN operand gives NaN; +0 is larger than -0. -/
def f32Max (a b : Num) : Num :=
  match a, b with
  | .nan, _ => .nan
  | _, .nan => .nan
  | x, y => if numIsZero x && numIsZero y then .fin (numNeg x && numNeg y) 0 0
            else if numLt x y then y else x

def f32Min (a b : Num) : Num :=
  match a, b with
  | .nan, _ => .nan
  | _, .nan => .nan
  | x, y => if numIsZero x && numIsZero y then .fin (numNeg x || numNeg y) 0 0
            else if numLt x y then x else y

/-! ### Elements -/

/-- The signed integer of a two's-complement code of w bits. -/
def signedOf (w code : Nat) : Int :=
  let c := code % 2 ^ w
  if 2 * c < 2 ^ w then c else (c : Int) - 2 ^ w

/-- A finite value of an integer times 2^e. -/
def intNum (i : Int) (e : Int) : Num := .fin (decide (i < 0)) i.natAbs e

/-- The element value of a code (R36, R41): integers are i under layout 0, i × 2⁻⁶ or i × 2⁻² under a block scale. -/
def elemValue (f : Fmt) (block : Bool) (code : Nat) : Num :=
  match f with
  | .none => numZero
  | .int8 => intNum (signedOf 8 code) (if block then -6 else 0)
  | .int4 => intNum (signedOf 4 code) (if block then -2 else 0)
  | .uint8 => intNum (code % 256 : Nat) 0
  | f => floatValue f code

/-- Range of an integer format. -/
def intRange : Fmt → Int × Int
  | .int8 => (-128, 127) | .int4 => (-8, 7) | .uint8 => (0, 255) | _ => (0, 0)

/-- A signed integer in the code of an integer format. -/
def intCode (f : Fmt) (i : Int) : Nat := (i % (2 ^ fmtBits f : Nat)).toNat

/-- Result of converting one value: the code, whether the conversion itself made a non-finite value from a finite one
(R61, R62). -/
structure Conv where
  code : Nat
  made : Bool
  deriving DecidableEq, Repr

/-- Conversion into an integer format (R60); unit is the number of the format's units in one. -/
def convInt (f : Fmt) (unitLog : Int) (wrap : Bool) (v : Num) : Conv :=
  let (lo, hi) := intRange f
  match v with
  | .nan => ⟨0, false⟩
  | .inf n => ⟨intCode f (if n then lo else hi), false⟩
  | .fin n m e =>
    let t := roundMag m (e + unitLog) 0
    let i : Int := if n then -(t : Int) else t
    if wrap && t < 2 ^ 63 then ⟨intCode f i, false⟩
    else ⟨intCode f (max lo (min hi i)), false⟩

/-- Conversion into FP8 or FP4 (R51, R53, R61). -/
def convNarrow (f : Fmt) (inf : Bool) (v : Num) : Conv :=
  let sat := fun n => floatCode f (if n then numNegate (fmtMax f) else fmtMax f)
  let ovf := fun (n : Bool) (made : Bool) =>
    if inf then
      match f with
      | .e4m3 => Conv.mk (fmtNanCode f) made
      | .e5m2 => ⟨floatCode f (.inf n), made⟩
      | _ => ⟨sat n, false⟩
    else ⟨sat n, false⟩
  match v with
  | .nan => ⟨fmtNanCode f, false⟩
  | .inf n => ovf n false
  | x =>
    let r := roundTo (fmtPrec f) (fmtQmin f) x
    if numLt (fmtMax f) (numAbs r) then ovf (numNeg x) true else ⟨floatCode f r, false⟩

/-- Conversion of a value (already divided by its scale) into an element of a format; block is true inside block
encoding, where an integer element always saturates (R52). -/
def convElem (f : Fmt) (block wrap inf : Bool) (v : Num) : Conv :=
  match f with
  | .none => ⟨0, false⟩
  | .fp32 | .bf16 | .fp16 =>
    let r := toWide f v
    ⟨floatCode f r, numIsFinite v && !numIsFinite r⟩
  | .int8 => convInt .int8 (if block then 6 else 0) (wrap && !block) v
  | .int4 => convInt .int4 (if block then 2 else 0) (wrap && !block) v
  | .uint8 => convInt .uint8 0 wrap v
  | f => convNarrow f inf v

/-- Result of encoding one block: scale byte, element codes, the events of R56, whether the block is crushed and at which element, and the
largest finite magnitude. -/
structure BlockEnc where
  scale : Nat
  codes : List Nat
  nonfinite : Bool
  crush : Option Nat
  deriving DecidableEq, Repr

/-- Largest magnitude among the finite non-zero values. -/
def blockAmax (v : List Num) : Option Num :=
  v.foldl (fun acc x => if numIsFinite x && !numIsZero x then
      some (match acc with | none => numAbs x | some a => numMaxAbs a x) else acc) none

/-- Whether an element code is a zero. -/
def codeIsZero (f : Fmt) (c : Nat) : Bool := numIsZero (elemValue f true c)

/-- R55: at least two non-zero finite inputs and exactly one non-zero encoded element, which it returns. The test is made on
the finite inputs (R56). -/
def crushOf (f : Fmt) (v : List Num) (codes : List Nat) : Option Nat :=
  let fin := (List.range v.length).filter (fun i =>
    let x := nth v i numZero; numIsFinite x && !numIsZero x)
  let nz := fin.filter (fun i => !codeIsZero f (nth codes i 0))
  match nz with
  | [i] => if 2 ≤ fin.length then some i else none
  | _ => none

/-- Block encoding by R52 to R56. Outlier positions stand as +0 in v. -/
def encodeBlock (f : Fmt) (inf : Bool) (v : List Num) : BlockEnc :=
  let bad := v.any (fun x => !numIsFinite x)
  if bad && !fmtHasNan f then
    ⟨0xFF, v.map (fun _ => 0), true, none⟩
  else
    match blockAmax v with
    | none =>
      let cs := v.map (convElem f true false inf)
      ⟨0, cs.map (·.code), bad || cs.any (·.made), none⟩
    | some (.fin _ m e) =>
      let x := max (magLog2 m e - fmtEmax f) (-127)
      let cs := v.map (fun y => convElem f true false inf (numScale y (-x)))
      ⟨(x + 127).toNat, cs.map (·.code), bad || cs.any (·.made), crushOf f v (cs.map (·.code))⟩
    | some _ => ⟨0, v.map (fun _ => 0), bad, none⟩

/-- Encoding of one value under layout 0 (R52 last paragraph, R53): v / s converted. The flag says NONFINITE: a non-finite
input to an 8-bit or 4-bit or integer format, or an overflow made by the conversion. -/
def encodeScalar (f : Fmt) (s : Num) (wrap inf : Bool) (v : Num) : Conv :=
  let q := if s = .fin false 1 0 then v else numDiv v s
  let c := convElem f false wrap inf q
  let wide := f = .fp32 || f = .bf16 || f = .fp16
  ⟨c.code, c.made || (!wide && !numIsFinite v)⟩

/-- Value of a scale byte: 2^(e - 127); 0xFF is NaN (R43). -/
def scaleValue (e : Nat) : Num := if e = 0xFF then .nan else .fin false 1 ((e : Int) - 127)

/-- Decoding to FP32 outside the matrix engine (R57, R58): the product with the scale, the range rule of R58 for block
scales; the flag says SCALE_RANGE. -/
def decodeBlockElem (f : Fmt) (inf : Bool) (scale code : Nat) : Num × Bool :=
  if scale = 0xFF then (.nan, false)
  else
    let x := numScale (elemValue f true code) ((scale : Int) - 127)
    if numIsFinite x && numLt (fmtMax .fp32) (numAbs x) then
      (if inf then .inf (numNeg x) else if numNeg x then numNegate (fmtMax .fp32) else fmtMax .fp32, true)
    else (toF32 x, false)

/-- R59: an E2M1 code as the E4M3 code of the same value. -/
def expandE2M1 (c : Nat) : Nat := floatCode .e4m3 (floatValue .e2m1 c)

/-! ### The narrow adder (R74, R75) -/

/-- floor of n/d for d > 0, on integers. -/
def floorShift (i : Int) (s : Nat) : Int := i / (2 ^ s : Nat)

/-- The value of one run of exact products, in order of k: the truncating sum of R74, or the non-finite value of R75. -/
def runValue (p : List Num) : Num :=
  if p.any (· == .nan) then .nan
  else
    let pos := p.any (· == .inf false)
    let neg := p.any (· == .inf true)
    if pos && neg then .nan
    else if pos then .inf false
    else if neg then .inf true
    else
      let pm : Option Int := p.foldl (fun acc x => match x with
        | .fin _ m e => if m = 0 then acc else
            some (match acc with | none => magLog2 m e | some a => max a (magLog2 m e))
        | _ => acc) none
      match pm with
      | none => numZero
      | some pmax =>
        let u := pmax - 19
        let s : Int := p.foldl (fun acc x => match x with
          | .fin n m e =>
            let i : Int := if n then -(m : Int) else m
            acc + (if u ≤ e then i * (2 ^ (e - u).toNat : Nat) else floorShift i (u - e).toNat)
          | _ => acc) 0
        intNum s u

/-- The promoted term f of R76 for a run value and the exponent x of its scales, with the SCALE_RANGE flag; none when the
run is zero (the entry is unchanged). -/
def promoteTerm (accInf : Bool) (ea eb : Nat) (run : Num) : Option (Num × Bool) :=
  if ea = 0xFF || eb = 0xFF then some (.nan, false)
  else match run with
    | .fin n m e =>
      if m = 0 then none
      else
        let x : Int := ((ea : Int) - 127) + ((eb : Int) - 127)
        let y := Num.fin n m (e + x)
        let f := roundTo 24 (magLog2 m (e + x) - 23) y
        if numLt (fmtMax .fp32) (numAbs f) then
          some (if accInf then .inf n else if n then numNegate (fmtMax .fp32) else fmtMax .fp32, true)
        else if numLt (numAbs f) (.fin false 1 (-126)) then some (.fin n 0 0, true)
        else some (f, false)
    | v => some (v, false)

end Sys2Proof.Machine
end

