-- ==== Sys2Proof/Machine/Regs.lean ====
section
/-! DEFINITION. The register maps of the spec as data: every register by the name its map gives it (without its index letter), the place, width and reset value of each, and every field with its access code. The maps stand in R22 to R25, R31, R97, R98, R111, R129 to R131, R159 to R162, R191, R192, R228, R229, R233, R239, R251, R281 to R284, R310 to R313, R337 to R340, R376, R377, R406, R428, R454, R461 and R497; the block bases in R227. -/

namespace Sys2Proof.Machine

/-- The access codes of R10. -/
inductive Access where
  | RO | RW | W1C | WO | RC
  deriving DecidableEq, Repr

/-- The register blocks of R227. -/
inductive RegBlock where
  | HUB | MBX | FBK | TCK | CRN | PWR | ECC | SEQ | EDG | LNK
  deriving DecidableEq, Repr

/-- Every register of the register maps, by the name the map gives it. -/
inductive RegName where
  | HUB_WDT_CTL
  | HUB_WDT_KICK
  | HUB_WDT_LEFT
  | HUB_CORE_STAT
  | HUB_CORE_RELEASE
  | HUB_CORE_EVT
  | HUB_PART
  | SEQ_MX_CTL
  | SEQ_MX_STAT
  | SEQ_MX_EVT
  | SEQ_MX_LSUM
  | SEQ_MX_SRCNT
  | SEQ_MX_NFCNT
  | SEQ_MX_PASS
  | SEQ_MX_ROWS
  | SEQ_TRB_LAYERF
  | SEQ_TRB_LAYERB
  | HUB_RCP_BASE
  | HUB_TRB_CFG
  | HUB_TRB_STAT
  | HUB_TRB_EVT
  | HUB_LOSS_REPORT
  | HUB_SPIKE_MEAN
  | HUB_SPIKE_VAR
  | HUB_SPIKE_STEPS
  | HUB_TRB_SKIPS
  | HUB_RCP_APPLY
  | HUB_TRB_ANSWER
  | HUB_TRB_TABLE
  | HUB_SCL_BASE
  | SEQ_ILV_CTL
  | SEQ_ILV_BASE
  | SEQ_ILV_POS
  | SEQ_ILV_WAITF
  | SEQ_ILV_WAITB
  | SEQ_ROW_STAT
  | SEQ_ROW_SPILLCNT
  | SEQ_STH_LIMIT
  | SEQ_STH_USED
  | SEQ_STH_PEAK
  | SEQ_STH_TAGS
  | SEQ_STH_SPILLG
  | SEQ_STH_SPILLCNT
  | SEQ_STH_EVT
  | HUB_STH_SPILLBASE
  | HUB_STH_SPILLSZ
  | HUB_STH_SPILLUSED
  | HUB_STH_SPILLPEAK
  | HUB_STH_PLAN
  | SEQ_STAT
  | SEQ_PC_F
  | SEQ_PC_B
  | SEQ_TRAP_CAUSE
  | SEQ_TRAP_PC
  | SEQ_TRAP_INFO
  | SEQ_WAIT_LIMIT
  | SEQ_TOK
  | HUB_ID
  | HUB_WIN
  | HUB_MEM_STAT
  | HUB_MEM_TOP
  | HUB_CHT
  | HUB_WBE_LIST
  | SEQ_DMA_STAT
  | SEQ_DMA_ERRADDR
  | SEQ_DMA_BYTES
  | SEQ_DMA_HALTS
  | ECC_SCR_CTL
  | ECC_SCR_ADDR
  | ECC_SCR_LEN
  | ECC_SCR_REC
  | ECC_SCR_STAT
  | ECC_SCR_GO
  | ECC_CECNT
  | ECC_UECNT
  | ECC_POISONCNT
  | ECC_RTRYCNT
  | ECC_STEST_STAT
  | ECC_STEST_CLU
  | ECC_RET_STAT
  | ECC_RET_CTL
  | FBK_CTL
  | FBK_STAT
  | FBK_COUNT
  | FBK_LOST
  | FBK_BASE
  | FBK_RDIDX
  | FBK_RDDATA
  | LNK_STATION
  | LNK_E2E_TMO
  | LNK_ROUTE_MISS
  | LNK_LATEACK
  | LNK_PCFG
  | LNK_PSTAT
  | LNK_PEER
  | LNK_PEVT
  | LNK_REPLAY
  | LNK_DROP
  | LNK_FECCOR
  | LNK_TXBYTES
  | LNK_RXBYTES
  | LNK_BARCFG
  | LNK_BARST
  | LNK_BAR_MARGIN
  | LNK_BAR_LATE
  | LNK_BAR_DISC
  | LNK_VBARCFG
  | LNK_VBARST
  | LNK_RTE
  | TCK_NOW
  | TCK_CTL
  | TCK_PERIOD
  | TCK_STAT
  | TCK_UNLOCKS
  | TCK_LAT
  | HUB_RED_TABLE
  | HUB_RED_STAT
  | LNK_RED_TMO
  | LNK_RED_STAT
  | LNK_RED_EVT
  | LNK_RED_RERUNS
  | LNK_RED_BF16CNT
  | LNK_RED_DIGBAD
  | LNK_RED_CLOSED
  | LNK_RED_ELEMS
  | CRN_CTL
  | CRN_STAT
  | CRN_EPOCH
  | CRN_ARRIVED
  | CRN_CMD
  | CRN_EVT
  | CRN_ARG
  | CRN_PT
  | CRN_CKAREA
  | CRN_CKSIZE
  | CRN_CKSTAT
  | CRN_CKEPOCH
  | CRN_MIRAREA
  | CRN_BUDDY
  | CRN_MIRSTAT
  | CRN_BUDDYADDR
  | CRN_DSTR
  | CRN_RNG
  | CRN_COMMIT_TMO
  | CRN_REST
  | CRN_JOB
  | PWR_CAP
  | PWR_GOV_STAT
  | PWR_VCFG
  | PWR_DROOP_CFG
  | PWR_DROOP_CNT
  | PWR_TOK_STAT
  | PWR_TOK_GRANT
  | PWR_TOK_REFILL
  | PWR_BAR_OFFSET
  | PWR_DOM_CMD
  | PWR_DOM_STAT
  | PWR_EVT
  | PWR_RESTART
  | PWR_THERM
  | PWR_STOP_STAT
  | PWR_IDLE
  | PWR_VF
  | PWR_DOM
  | PWR_MEM
  | PWR_SAMP
  | PWR_ACCT_CORE
  | PWR_ACCT_DMA
  | PWR_ACCT_LINK
  | PWR_ACCT_RED
  | PWR_ACCT_UPD
  | PWR_POOL
  | PWR_TOTAL
  | PWR_IN
  | PWR_EREP_ADDR
  | MBX_PUT
  | MBX_DATA
  | MBX_PEEK
  | MBX_STAT
  | MBX_EVT
  | MBX_LOST
  | MBX_QCNT
  | MBX_MER_CFG
  | MBX_MER_STAT
  | MBX_MER_TXFR
  | MBX_MER_RXFR
  | MBX_MER_CRCERR
  | MBX_MER_RESEND
  | MBX_MER_MBXTMO
  | MBX_SESS_STAT
  | MBX_SESS_TAG
  | MBX_DB_RING
  | MBX_DB_PEND
  | HUB_BOOT_STAT
  | HUB_BOOT_TIME
  | HUB_RESET
  | HUB_FW_STAT
  | HUB_FW_CMD
  | HUB_FW_SRC
  | HUB_FW_LEN
  | HUB_FW_VER
  | HUB_FW_SVN
  | HUB_MEAS
  | HUB_CLK_STAT
  | HUB_ALERT
  deriving DecidableEq, Repr

/-- One field of a register: bits hi down to lo. -/
structure Fld where
  reg : RegName
  hi : Nat
  lo : Nat
  deriving DecidableEq, Repr

/-- Where a register lies in its block (R227): offset of index 0, distance of consecutive indices, number of indices, width in bits, number of instances of the block that hold it. -/
structure RegPlace where
  block : RegBlock
  off : Nat
  stride : Nat
  count : Nat
  width : Nat
  insts : Nat
  deriving DecidableEq, Repr

/-- The offset tables of the register maps. -/
def regPlace : RegName → RegPlace
  | .HUB_WDT_CTL => ⟨.HUB, 0x400, 0x10, 4, 32, 1⟩
  | .HUB_WDT_KICK => ⟨.HUB, 0x404, 0x10, 4, 32, 1⟩
  | .HUB_WDT_LEFT => ⟨.HUB, 0x408, 0x10, 4, 32, 1⟩
  | .HUB_CORE_STAT => ⟨.HUB, 0x40C, 0x10, 4, 32, 1⟩
  | .HUB_CORE_RELEASE => ⟨.HUB, 0x440, 0x0, 1, 32, 1⟩
  | .HUB_CORE_EVT => ⟨.HUB, 0x444, 0x0, 1, 32, 1⟩
  | .HUB_PART => ⟨.HUB, 0x500, 0x8, 8, 64, 1⟩
  | .SEQ_MX_CTL => ⟨.SEQ, 0x800, 0x40, 4, 32, 32⟩
  | .SEQ_MX_STAT => ⟨.SEQ, 0x804, 0x40, 4, 32, 32⟩
  | .SEQ_MX_EVT => ⟨.SEQ, 0x808, 0x40, 4, 32, 32⟩
  | .SEQ_MX_LSUM => ⟨.SEQ, 0x80C, 0x40, 4, 32, 32⟩
  | .SEQ_MX_SRCNT => ⟨.SEQ, 0x810, 0x40, 4, 32, 32⟩
  | .SEQ_MX_NFCNT => ⟨.SEQ, 0x814, 0x40, 4, 32, 32⟩
  | .SEQ_MX_PASS => ⟨.SEQ, 0x818, 0x40, 4, 64, 32⟩
  | .SEQ_MX_ROWS => ⟨.SEQ, 0x820, 0x40, 4, 64, 32⟩
  | .SEQ_TRB_LAYERF => ⟨.SEQ, 0xA00, 0x0, 1, 32, 32⟩
  | .SEQ_TRB_LAYERB => ⟨.SEQ, 0xA04, 0x0, 1, 32, 32⟩
  | .HUB_RCP_BASE => ⟨.HUB, 0x600, 0x40, 8, 64, 1⟩
  | .HUB_TRB_CFG => ⟨.HUB, 0x608, 0x40, 8, 32, 1⟩
  | .HUB_TRB_STAT => ⟨.HUB, 0x60C, 0x40, 8, 32, 1⟩
  | .HUB_TRB_EVT => ⟨.HUB, 0x610, 0x40, 8, 32, 1⟩
  | .HUB_LOSS_REPORT => ⟨.HUB, 0x614, 0x40, 8, 32, 1⟩
  | .HUB_SPIKE_MEAN => ⟨.HUB, 0x618, 0x40, 8, 32, 1⟩
  | .HUB_SPIKE_VAR => ⟨.HUB, 0x61C, 0x40, 8, 32, 1⟩
  | .HUB_SPIKE_STEPS => ⟨.HUB, 0x620, 0x40, 8, 32, 1⟩
  | .HUB_TRB_SKIPS => ⟨.HUB, 0x624, 0x40, 8, 32, 1⟩
  | .HUB_RCP_APPLY => ⟨.HUB, 0x628, 0x40, 8, 32, 1⟩
  | .HUB_TRB_ANSWER => ⟨.HUB, 0x62C, 0x40, 8, 32, 1⟩
  | .HUB_TRB_TABLE => ⟨.HUB, 0x630, 0x40, 8, 64, 1⟩
  | .HUB_SCL_BASE => ⟨.HUB, 0x638, 0x40, 8, 64, 1⟩
  | .SEQ_ILV_CTL => ⟨.SEQ, 0xB00, 0x0, 1, 32, 32⟩
  | .SEQ_ILV_BASE => ⟨.SEQ, 0xB08, 0x0, 1, 64, 32⟩
  | .SEQ_ILV_POS => ⟨.SEQ, 0xB10, 0x0, 1, 32, 32⟩
  | .SEQ_ILV_WAITF => ⟨.SEQ, 0xB18, 0x0, 1, 64, 32⟩
  | .SEQ_ILV_WAITB => ⟨.SEQ, 0xB20, 0x0, 1, 64, 32⟩
  | .SEQ_ROW_STAT => ⟨.SEQ, 0xB40, 0x0, 1, 32, 32⟩
  | .SEQ_ROW_SPILLCNT => ⟨.SEQ, 0xB44, 0x0, 1, 32, 32⟩
  | .SEQ_STH_LIMIT => ⟨.SEQ, 0xB80, 0x0, 1, 32, 32⟩
  | .SEQ_STH_USED => ⟨.SEQ, 0xB84, 0x0, 1, 32, 32⟩
  | .SEQ_STH_PEAK => ⟨.SEQ, 0xB88, 0x0, 1, 32, 32⟩
  | .SEQ_STH_TAGS => ⟨.SEQ, 0xB8C, 0x0, 1, 32, 32⟩
  | .SEQ_STH_SPILLG => ⟨.SEQ, 0xB90, 0x0, 1, 32, 32⟩
  | .SEQ_STH_SPILLCNT => ⟨.SEQ, 0xB94, 0x0, 1, 32, 32⟩
  | .SEQ_STH_EVT => ⟨.SEQ, 0xB98, 0x0, 1, 32, 32⟩
  | .HUB_STH_SPILLBASE => ⟨.HUB, 0x800, 0x20, 8, 64, 1⟩
  | .HUB_STH_SPILLSZ => ⟨.HUB, 0x808, 0x20, 8, 32, 1⟩
  | .HUB_STH_SPILLUSED => ⟨.HUB, 0x80C, 0x20, 8, 32, 1⟩
  | .HUB_STH_SPILLPEAK => ⟨.HUB, 0x810, 0x20, 8, 32, 1⟩
  | .HUB_STH_PLAN => ⟨.HUB, 0x814, 0x20, 8, 32, 1⟩
  | .SEQ_STAT => ⟨.SEQ, 0x4, 0x0, 1, 32, 32⟩
  | .SEQ_PC_F => ⟨.SEQ, 0x8, 0x0, 1, 64, 32⟩
  | .SEQ_PC_B => ⟨.SEQ, 0x10, 0x0, 1, 64, 32⟩
  | .SEQ_TRAP_CAUSE => ⟨.SEQ, 0x20, 0x0, 1, 32, 32⟩
  | .SEQ_TRAP_PC => ⟨.SEQ, 0x28, 0x0, 1, 64, 32⟩
  | .SEQ_TRAP_INFO => ⟨.SEQ, 0x30, 0x0, 1, 64, 32⟩
  | .SEQ_WAIT_LIMIT => ⟨.SEQ, 0x38, 0x0, 1, 32, 32⟩
  | .SEQ_TOK => ⟨.SEQ, 0x100, 0x4, 256, 32, 32⟩
  | .HUB_ID => ⟨.HUB, 0x0, 0x0, 1, 32, 1⟩
  | .HUB_WIN => ⟨.HUB, 0x900, 0x10, 8, 64, 1⟩
  | .HUB_MEM_STAT => ⟨.HUB, 0xB00, 0x0, 1, 32, 1⟩
  | .HUB_MEM_TOP => ⟨.HUB, 0xB08, 0x0, 1, 64, 1⟩
  | .HUB_CHT => ⟨.HUB, 0xC00, 0x4, 256, 32, 1⟩
  | .HUB_WBE_LIST => ⟨.HUB, 0xA00, 0x10, 8, 64, 1⟩
  | .SEQ_DMA_STAT => ⟨.SEQ, 0xC00, 0x20, 4, 32, 32⟩
  | .SEQ_DMA_ERRADDR => ⟨.SEQ, 0xC08, 0x20, 4, 64, 32⟩
  | .SEQ_DMA_BYTES => ⟨.SEQ, 0xC10, 0x20, 4, 64, 32⟩
  | .SEQ_DMA_HALTS => ⟨.SEQ, 0xC18, 0x20, 4, 32, 32⟩
  | .ECC_SCR_CTL => ⟨.ECC, 0x0, 0x0, 1, 32, 1⟩
  | .ECC_SCR_ADDR => ⟨.ECC, 0x8, 0x0, 1, 64, 1⟩
  | .ECC_SCR_LEN => ⟨.ECC, 0x10, 0x0, 1, 64, 1⟩
  | .ECC_SCR_REC => ⟨.ECC, 0x18, 0x0, 1, 64, 1⟩
  | .ECC_SCR_STAT => ⟨.ECC, 0x20, 0x0, 1, 32, 1⟩
  | .ECC_SCR_GO => ⟨.ECC, 0x24, 0x0, 1, 32, 1⟩
  | .ECC_CECNT => ⟨.ECC, 0x30, 0x0, 1, 64, 1⟩
  | .ECC_UECNT => ⟨.ECC, 0x38, 0x0, 1, 64, 1⟩
  | .ECC_POISONCNT => ⟨.ECC, 0x40, 0x0, 1, 64, 1⟩
  | .ECC_RTRYCNT => ⟨.ECC, 0x48, 0x0, 1, 64, 1⟩
  | .ECC_STEST_STAT => ⟨.ECC, 0x50, 0x0, 1, 32, 1⟩
  | .ECC_STEST_CLU => ⟨.ECC, 0x54, 0x0, 1, 32, 1⟩
  | .ECC_RET_STAT => ⟨.ECC, 0x60, 0x0, 1, 32, 1⟩
  | .ECC_RET_CTL => ⟨.ECC, 0x64, 0x0, 1, 32, 1⟩
  | .FBK_CTL => ⟨.FBK, 0x0, 0x0, 1, 32, 1⟩
  | .FBK_STAT => ⟨.FBK, 0x4, 0x0, 1, 32, 1⟩
  | .FBK_COUNT => ⟨.FBK, 0x8, 0x0, 1, 64, 1⟩
  | .FBK_LOST => ⟨.FBK, 0x10, 0x0, 1, 32, 1⟩
  | .FBK_BASE => ⟨.FBK, 0x18, 0x0, 1, 64, 1⟩
  | .FBK_RDIDX => ⟨.FBK, 0x20, 0x0, 1, 32, 1⟩
  | .FBK_RDDATA => ⟨.FBK, 0x40, 0x4, 8, 32, 1⟩
  | .LNK_STATION => ⟨.LNK, 0x0, 0x0, 1, 32, 4⟩
  | .LNK_E2E_TMO => ⟨.LNK, 0x8, 0x0, 1, 32, 4⟩
  | .LNK_ROUTE_MISS => ⟨.LNK, 0x10, 0x0, 1, 32, 4⟩
  | .LNK_LATEACK => ⟨.LNK, 0x14, 0x0, 1, 32, 4⟩
  | .LNK_PCFG => ⟨.LNK, 0x100, 0x40, 6, 32, 4⟩
  | .LNK_PSTAT => ⟨.LNK, 0x104, 0x40, 6, 32, 4⟩
  | .LNK_PEER => ⟨.LNK, 0x108, 0x40, 6, 32, 4⟩
  | .LNK_PEVT => ⟨.LNK, 0x10C, 0x40, 6, 32, 4⟩
  | .LNK_REPLAY => ⟨.LNK, 0x110, 0x40, 6, 32, 4⟩
  | .LNK_DROP => ⟨.LNK, 0x114, 0x40, 6, 32, 4⟩
  | .LNK_FECCOR => ⟨.LNK, 0x118, 0x40, 6, 64, 4⟩
  | .LNK_TXBYTES => ⟨.LNK, 0x120, 0x40, 6, 64, 4⟩
  | .LNK_RXBYTES => ⟨.LNK, 0x128, 0x40, 6, 64, 4⟩
  | .LNK_BARCFG => ⟨.LNK, 0x400, 0x8, 64, 64, 1⟩
  | .LNK_BARST => ⟨.LNK, 0x600, 0x4, 64, 32, 1⟩
  | .LNK_BAR_MARGIN => ⟨.LNK, 0x700, 0x0, 1, 32, 1⟩
  | .LNK_BAR_LATE => ⟨.LNK, 0x704, 0x0, 1, 32, 1⟩
  | .LNK_BAR_DISC => ⟨.LNK, 0x708, 0x0, 1, 32, 1⟩
  | .LNK_VBARCFG => ⟨.LNK, 0x740, 0x8, 8, 64, 1⟩
  | .LNK_VBARST => ⟨.LNK, 0x780, 0x4, 8, 32, 1⟩
  | .LNK_RTE => ⟨.LNK, 0x40000, 0x4, 65536, 32, 4⟩
  | .TCK_NOW => ⟨.TCK, 0x0, 0x0, 1, 64, 1⟩
  | .TCK_CTL => ⟨.TCK, 0x8, 0x0, 1, 32, 1⟩
  | .TCK_PERIOD => ⟨.TCK, 0xC, 0x0, 1, 32, 1⟩
  | .TCK_STAT => ⟨.TCK, 0x10, 0x0, 1, 32, 1⟩
  | .TCK_UNLOCKS => ⟨.TCK, 0x14, 0x0, 1, 32, 1⟩
  | .TCK_LAT => ⟨.TCK, 0x100, 0x4, 24, 32, 1⟩
  | .HUB_RED_TABLE => ⟨.HUB, 0x1000, 0x10, 8, 64, 1⟩
  | .HUB_RED_STAT => ⟨.HUB, 0x1008, 0x10, 8, 32, 1⟩
  | .LNK_RED_TMO => ⟨.LNK, 0x800, 0x0, 1, 32, 1⟩
  | .LNK_RED_STAT => ⟨.LNK, 0x804, 0x0, 1, 32, 4⟩
  | .LNK_RED_EVT => ⟨.LNK, 0x808, 0x0, 1, 32, 4⟩
  | .LNK_RED_RERUNS => ⟨.LNK, 0x80C, 0x0, 1, 32, 4⟩
  | .LNK_RED_BF16CNT => ⟨.LNK, 0x810, 0x0, 1, 32, 4⟩
  | .LNK_RED_DIGBAD => ⟨.LNK, 0x814, 0x0, 1, 32, 4⟩
  | .LNK_RED_CLOSED => ⟨.LNK, 0x818, 0x0, 1, 64, 4⟩
  | .LNK_RED_ELEMS => ⟨.LNK, 0x820, 0x0, 1, 64, 4⟩
  | .CRN_CTL => ⟨.CRN, 0x0, 0x100, 8, 32, 1⟩
  | .CRN_STAT => ⟨.CRN, 0x4, 0x100, 8, 32, 1⟩
  | .CRN_EPOCH => ⟨.CRN, 0x8, 0x100, 8, 64, 1⟩
  | .CRN_ARRIVED => ⟨.CRN, 0x10, 0x100, 8, 64, 1⟩
  | .CRN_CMD => ⟨.CRN, 0x18, 0x100, 8, 32, 1⟩
  | .CRN_EVT => ⟨.CRN, 0x1C, 0x100, 8, 32, 1⟩
  | .CRN_ARG => ⟨.CRN, 0x20, 0x100, 8, 64, 1⟩
  | .CRN_PT => ⟨.CRN, 0x28, 0x100, 8, 64, 1⟩
  | .CRN_CKAREA => ⟨.CRN, 0x30, 0x100, 8, 64, 1⟩
  | .CRN_CKSIZE => ⟨.CRN, 0x38, 0x100, 8, 32, 1⟩
  | .CRN_CKSTAT => ⟨.CRN, 0x3C, 0x100, 8, 32, 1⟩
  | .CRN_CKEPOCH => ⟨.CRN, 0x40, 0x100, 8, 64, 1⟩
  | .CRN_MIRAREA => ⟨.CRN, 0x48, 0x100, 8, 64, 1⟩
  | .CRN_BUDDY => ⟨.CRN, 0x50, 0x100, 8, 32, 1⟩
  | .CRN_MIRSTAT => ⟨.CRN, 0x54, 0x100, 8, 32, 1⟩
  | .CRN_BUDDYADDR => ⟨.CRN, 0x58, 0x100, 8, 64, 1⟩
  | .CRN_DSTR => ⟨.CRN, 0x60, 0x100, 8, 64, 1⟩
  | .CRN_RNG => ⟨.CRN, 0x68, 0x100, 8, 64, 1⟩
  | .CRN_COMMIT_TMO => ⟨.CRN, 0x70, 0x100, 8, 32, 1⟩
  | .CRN_REST => ⟨.CRN, 0x74, 0x100, 8, 32, 1⟩
  | .CRN_JOB => ⟨.CRN, 0x78, 0x100, 8, 64, 1⟩
  | .PWR_CAP => ⟨.PWR, 0x0, 0x0, 1, 32, 1⟩
  | .PWR_GOV_STAT => ⟨.PWR, 0x4, 0x0, 1, 32, 1⟩
  | .PWR_VCFG => ⟨.PWR, 0x8, 0x0, 1, 32, 1⟩
  | .PWR_DROOP_CFG => ⟨.PWR, 0xC, 0x0, 1, 32, 1⟩
  | .PWR_DROOP_CNT => ⟨.PWR, 0x10, 0x0, 1, 32, 1⟩
  | .PWR_TOK_STAT => ⟨.PWR, 0x14, 0x0, 1, 32, 1⟩
  | .PWR_TOK_GRANT => ⟨.PWR, 0x18, 0x0, 1, 64, 1⟩
  | .PWR_TOK_REFILL => ⟨.PWR, 0x20, 0x0, 1, 64, 1⟩
  | .PWR_BAR_OFFSET => ⟨.PWR, 0x28, 0x0, 1, 32, 1⟩
  | .PWR_DOM_CMD => ⟨.PWR, 0x30, 0x0, 1, 64, 1⟩
  | .PWR_DOM_STAT => ⟨.PWR, 0x38, 0x0, 1, 64, 1⟩
  | .PWR_EVT => ⟨.PWR, 0x40, 0x0, 1, 32, 1⟩
  | .PWR_RESTART => ⟨.PWR, 0x44, 0x0, 1, 32, 1⟩
  | .PWR_THERM => ⟨.PWR, 0x48, 0x0, 1, 32, 1⟩
  | .PWR_STOP_STAT => ⟨.PWR, 0x50, 0x0, 1, 32, 1⟩
  | .PWR_IDLE => ⟨.PWR, 0x58, 0x0, 1, 32, 1⟩
  | .PWR_VF => ⟨.PWR, 0x100, 0x4, 8, 32, 1⟩
  | .PWR_DOM => ⟨.PWR, 0x1000, 0x8, 50, 64, 1⟩
  | .PWR_MEM => ⟨.PWR, 0x1200, 0x8, 8, 64, 1⟩
  | .PWR_SAMP => ⟨.PWR, 0x1300, 0x4, 50, 32, 1⟩
  | .PWR_ACCT_CORE => ⟨.PWR, 0x2000, 0x40, 8, 64, 1⟩
  | .PWR_ACCT_DMA => ⟨.PWR, 0x2008, 0x40, 8, 64, 1⟩
  | .PWR_ACCT_LINK => ⟨.PWR, 0x2010, 0x40, 8, 64, 1⟩
  | .PWR_ACCT_RED => ⟨.PWR, 0x2018, 0x40, 8, 64, 1⟩
  | .PWR_ACCT_UPD => ⟨.PWR, 0x2020, 0x40, 8, 64, 1⟩
  | .PWR_POOL => ⟨.PWR, 0x2400, 0x0, 1, 64, 1⟩
  | .PWR_TOTAL => ⟨.PWR, 0x2408, 0x0, 1, 64, 1⟩
  | .PWR_IN => ⟨.PWR, 0x2410, 0x0, 1, 64, 1⟩
  | .PWR_EREP_ADDR => ⟨.PWR, 0x3000, 0x8, 8, 64, 1⟩
  | .MBX_PUT => ⟨.MBX, 0x0, 0x20, 64, 64, 1⟩
  | .MBX_DATA => ⟨.MBX, 0x8, 0x20, 64, 64, 1⟩
  | .MBX_PEEK => ⟨.MBX, 0x10, 0x20, 64, 64, 1⟩
  | .MBX_STAT => ⟨.MBX, 0x18, 0x20, 64, 32, 1⟩
  | .MBX_EVT => ⟨.MBX, 0x800, 0x0, 1, 32, 1⟩
  | .MBX_LOST => ⟨.MBX, 0x804, 0x0, 1, 32, 1⟩
  | .MBX_QCNT => ⟨.MBX, 0x808, 0x4, 8, 32, 1⟩
  | .MBX_MER_CFG => ⟨.MBX, 0x1000, 0x0, 1, 32, 1⟩
  | .MBX_MER_STAT => ⟨.MBX, 0x1004, 0x0, 1, 32, 1⟩
  | .MBX_MER_TXFR => ⟨.MBX, 0x1008, 0x0, 1, 64, 1⟩
  | .MBX_MER_RXFR => ⟨.MBX, 0x1010, 0x0, 1, 64, 1⟩
  | .MBX_MER_CRCERR => ⟨.MBX, 0x1018, 0x0, 1, 32, 1⟩
  | .MBX_MER_RESEND => ⟨.MBX, 0x101C, 0x0, 1, 32, 1⟩
  | .MBX_MER_MBXTMO => ⟨.MBX, 0x1020, 0x0, 1, 32, 1⟩
  | .MBX_SESS_STAT => ⟨.MBX, 0x1100, 0x8, 16, 32, 1⟩
  | .MBX_SESS_TAG => ⟨.MBX, 0x1104, 0x8, 16, 32, 1⟩
  | .MBX_DB_RING => ⟨.MBX, 0x2000, 0x8, 32, 64, 1⟩
  | .MBX_DB_PEND => ⟨.MBX, 0x2100, 0x8, 32, 64, 1⟩
  | .HUB_BOOT_STAT => ⟨.HUB, 0x1100, 0x0, 1, 32, 1⟩
  | .HUB_BOOT_TIME => ⟨.HUB, 0x1108, 0x0, 1, 64, 1⟩
  | .HUB_RESET => ⟨.HUB, 0x1110, 0x0, 1, 32, 1⟩
  | .HUB_FW_STAT => ⟨.HUB, 0x1114, 0x0, 1, 32, 1⟩
  | .HUB_FW_CMD => ⟨.HUB, 0x1118, 0x0, 1, 32, 1⟩
  | .HUB_FW_SRC => ⟨.HUB, 0x1120, 0x0, 1, 64, 1⟩
  | .HUB_FW_LEN => ⟨.HUB, 0x1128, 0x0, 1, 32, 1⟩
  | .HUB_FW_VER => ⟨.HUB, 0x112C, 0x0, 1, 32, 1⟩
  | .HUB_FW_SVN => ⟨.HUB, 0x1130, 0x0, 1, 32, 1⟩
  | .HUB_MEAS => ⟨.HUB, 0x1140, 0x8, 8, 64, 1⟩
  | .HUB_CLK_STAT => ⟨.HUB, 0x1200, 0x0, 1, 32, 1⟩
  | .HUB_ALERT => ⟨.HUB, 0x1300, 0x0, 1, 32, 1⟩

/-- The Reset column of the register maps; a "rec" field has its value before the record loads (R446). -/
def regReset (idx : Nat) : RegName → BitVec 64
  | .HUB_WDT_CTL => 0x186A0
  | .HUB_WDT_LEFT => 0x186A0
  | .HUB_PART => if idx = 0 then 0xFFFFFFFF else 0
  | .SEQ_TRB_LAYERF => 0x7FF
  | .SEQ_TRB_LAYERB => 0x7FF
  | .HUB_TRB_CFG => 0x6A607400
  | .HUB_TRB_STAT => 0x7FF
  | .HUB_TRB_TABLE => 0x7E0000800000 + 0x20000 * BitVec.ofNat 64 idx
  | .SEQ_STH_LIMIT => 0x1C000
  | .SEQ_WAIT_LIMIT => 0xF4240
  | .HUB_ID => 0xB0000040
  | .FBK_BASE => 0x7E0000C00000
  | .LNK_E2E_TMO => 0x1E848
  | .LNK_PCFG => 0x88200000
  | .LNK_BAR_MARGIN => 0x180
  | .TCK_PERIOD => 0x400
  | .LNK_RED_TMO => 0x3B9ACA0
  | .CRN_COMMIT_TMO => 0x3B9ACA0
  | .PWR_CAP => 0x6E0284B0
  | .PWR_GOV_STAT => 0xC0000000
  | .PWR_VCFG => 0x28
  | .PWR_DROOP_CFG => 0x7D0019
  | .PWR_TOK_STAT => 0x40
  | .PWR_VF => 0x2F8
  | .MBX_MER_CFG => 0x2001E848
  | .MBX_MER_MBXTMO => 0xBEBC20
  | _ => 0

/-- The fields of each register with their access codes; a bit that no field names is reserved and reads 0 (R11). -/
def regFields : RegName → List (Nat × Nat × Access)
  | .HUB_WDT_CTL => [(23, 0, .RW)]
  | .HUB_WDT_KICK => [(15, 0, .WO)]
  | .HUB_WDT_LEFT => [(23, 0, .RO)]
  | .HUB_CORE_STAT => [(31, 30, .RO), (23, 16, .RO), (15, 0, .RO)]
  | .HUB_CORE_RELEASE => [(3, 0, .WO)]
  | .HUB_CORE_EVT => [(11, 8, .W1C), (3, 0, .W1C)]
  | .HUB_PART => [(63, 63, .RO), (31, 0, .RW)]
  | .SEQ_MX_CTL => [(0, 0, .RW)]
  | .SEQ_MX_STAT => [(31, 31, .RO), (30, 30, .RO), (23, 16, .RO), (15, 0, .RO)]
  | .SEQ_MX_EVT => [(4, 4, .W1C), (3, 3, .W1C), (2, 2, .W1C), (1, 1, .W1C), (0, 0, .W1C)]
  | .SEQ_MX_LSUM => [(15, 0, .RO)]
  | .SEQ_MX_SRCNT => [(31, 0, .RC)]
  | .SEQ_MX_NFCNT => [(31, 0, .RC)]
  | .SEQ_MX_PASS => [(63, 0, .RO)]
  | .SEQ_MX_ROWS => [(63, 0, .RO)]
  | .SEQ_TRB_LAYERF => [(10, 0, .RW)]
  | .SEQ_TRB_LAYERB => [(10, 0, .RW)]
  | .HUB_RCP_BASE => [(47, 0, .RO)]
  | .HUB_TRB_CFG => [(31, 28, .RW), (27, 24, .RW), (23, 16, .RW), (15, 12, .RW), (11, 4, .RW), (0, 0, .RW)]
  | .HUB_TRB_STAT => [(31, 30, .RO), (29, 28, .RO), (27, 27, .RO), (26, 26, .RO), (25, 25, .RO), (24, 24, .RO), (10, 0, .RO)]
  | .HUB_TRB_EVT => [(5, 5, .W1C), (4, 4, .W1C), (3, 3, .W1C), (2, 2, .W1C), (1, 1, .W1C), (0, 0, .W1C)]
  | .HUB_LOSS_REPORT => [(31, 0, .RW)]
  | .HUB_SPIKE_MEAN => [(31, 0, .RO)]
  | .HUB_SPIKE_VAR => [(31, 0, .RO)]
  | .HUB_SPIKE_STEPS => [(31, 0, .RO)]
  | .HUB_TRB_SKIPS => [(31, 0, .RO)]
  | .HUB_RCP_APPLY => [(1, 1, .WO), (0, 0, .WO)]
  | .HUB_TRB_ANSWER => [(1, 0, .WO)]
  | .HUB_TRB_TABLE => [(63, 0, .RO)]
  | .HUB_SCL_BASE => [(47, 0, .RO)]
  | .SEQ_ILV_CTL => [(31, 31, .RW), (12, 0, .RW)]
  | .SEQ_ILV_BASE => [(47, 6, .RW)]
  | .SEQ_ILV_POS => [(23, 12, .RO), (11, 0, .RO)]
  | .SEQ_ILV_WAITF => [(63, 0, .RO)]
  | .SEQ_ILV_WAITB => [(63, 0, .RO)]
  | .SEQ_ROW_STAT => [(31, 31, .RO), (18, 0, .RO)]
  | .SEQ_ROW_SPILLCNT => [(31, 0, .RC)]
  | .SEQ_STH_LIMIT => [(16, 0, .RW)]
  | .SEQ_STH_USED => [(16, 0, .RO)]
  | .SEQ_STH_PEAK => [(16, 0, .RO)]
  | .SEQ_STH_TAGS => [(11, 0, .RO)]
  | .SEQ_STH_SPILLG => [(22, 0, .RO)]
  | .SEQ_STH_SPILLCNT => [(31, 0, .RC)]
  | .SEQ_STH_EVT => [(2, 2, .W1C), (1, 1, .W1C), (0, 0, .W1C)]
  | .HUB_STH_SPILLBASE => [(47, 0, .RO)]
  | .HUB_STH_SPILLSZ => [(22, 0, .RO)]
  | .HUB_STH_SPILLUSED => [(22, 0, .RO)]
  | .HUB_STH_SPILLPEAK => [(22, 0, .RO)]
  | .HUB_STH_PLAN => [(31, 16, .RO), (0, 0, .RW)]
  | .SEQ_STAT => [(31, 30, .RO), (29, 29, .RO), (28, 28, .RO), (23, 16, .RO), (15, 8, .RO), (1, 1, .RO), (0, 0, .RO)]
  | .SEQ_PC_F => [(47, 0, .RO)]
  | .SEQ_PC_B => [(47, 0, .RO)]
  | .SEQ_TRAP_CAUSE => [(31, 31, .RO), (30, 30, .RO), (29, 29, .RO), (23, 8, .RO), (7, 0, .RO)]
  | .SEQ_TRAP_PC => [(47, 0, .RO)]
  | .SEQ_TRAP_INFO => [(63, 0, .RO)]
  | .SEQ_WAIT_LIMIT => [(23, 0, .RW)]
  | .SEQ_TOK => [(31, 16, .RO), (15, 0, .RO)]
  | .HUB_ID => [(31, 24, .RO), (23, 16, .RO), (15, 0, .RO)]
  | .HUB_WIN => [(63, 63, .RO), (62, 62, .RW), (59, 32, .RW), (27, 0, .RW)]
  | .HUB_MEM_STAT => [(31, 31, .RO), (30, 30, .RO), (8, 0, .RO)]
  | .HUB_MEM_TOP => [(47, 0, .RO)]
  | .HUB_CHT => [(31, 31, .RO), (7, 0, .RO)]
  | .HUB_WBE_LIST => [(47, 7, .RW)]
  | .SEQ_DMA_STAT => [(31, 30, .RO), (29, 28, .RO), (23, 16, .RO), (15, 0, .RO)]
  | .SEQ_DMA_ERRADDR => [(47, 0, .RO)]
  | .SEQ_DMA_BYTES => [(63, 0, .RO)]
  | .SEQ_DMA_HALTS => [(31, 0, .RC)]
  | .ECC_SCR_CTL => [(1, 0, .RW)]
  | .ECC_SCR_ADDR => [(47, 0, .RW)]
  | .ECC_SCR_LEN => [(47, 0, .RW)]
  | .ECC_SCR_REC => [(47, 0, .RW)]
  | .ECC_SCR_STAT => [(31, 31, .RO), (30, 30, .RO), (29, 29, .RO)]
  | .ECC_SCR_GO => [(0, 0, .WO)]
  | .ECC_CECNT => [(63, 0, .RO)]
  | .ECC_UECNT => [(63, 0, .RO)]
  | .ECC_POISONCNT => [(63, 0, .RO)]
  | .ECC_RTRYCNT => [(63, 0, .RO)]
  | .ECC_STEST_STAT => [(31, 31, .RO), (30, 30, .RO), (15, 0, .RO)]
  | .ECC_STEST_CLU => [(31, 0, .RO)]
  | .ECC_RET_STAT => [(31, 31, .RO), (30, 30, .RO), (27, 16, .RO), (15, 0, .RO)]
  | .ECC_RET_CTL => [(0, 0, .WO)]
  | .FBK_CTL => [(0, 0, .WO)]
  | .FBK_STAT => [(31, 31, .RO), (30, 30, .RO), (12, 0, .RO)]
  | .FBK_COUNT => [(63, 0, .RO)]
  | .FBK_LOST => [(31, 0, .RO)]
  | .FBK_BASE => [(63, 0, .RO)]
  | .FBK_RDIDX => [(12, 0, .RW)]
  | .FBK_RDDATA => [(31, 0, .RO)]
  | .LNK_STATION => [(31, 28, .RO), (27, 24, .RO), (16, 16, .RW), (15, 0, .RW)]
  | .LNK_E2E_TMO => [(23, 0, .RW)]
  | .LNK_ROUTE_MISS => [(31, 0, .RC)]
  | .LNK_LATEACK => [(31, 0, .RC)]
  | .LNK_PCFG => [(31, 31, .RW), (30, 30, .RW), (29, 28, .RW), (27, 26, .RW), (25, 22, .RW), (21, 20, .RW), (19, 19, .WO)]
  | .LNK_PSTAT => [(31, 28, .RO), (27, 26, .RO), (25, 22, .RO), (21, 18, .RO), (17, 16, .RO)]
  | .LNK_PEER => [(20, 16, .RO), (15, 0, .RO)]
  | .LNK_PEVT => [(4, 4, .W1C), (3, 3, .W1C), (2, 2, .W1C), (1, 1, .W1C), (0, 0, .W1C)]
  | .LNK_REPLAY => [(31, 0, .RC)]
  | .LNK_DROP => [(31, 0, .RC)]
  | .LNK_FECCOR => [(63, 0, .RO)]
  | .LNK_TXBYTES => [(63, 0, .RO)]
  | .LNK_RXBYTES => [(63, 0, .RO)]
  | .LNK_BARCFG => [(25, 25, .RW), (24, 24, .RW), (23, 16, .RW), (15, 0, .RW)]
  | .LNK_BARST => [(31, 16, .RO), (15, 8, .RO), (0, 0, .RO)]
  | .LNK_BAR_MARGIN => [(15, 0, .RW)]
  | .LNK_BAR_LATE => [(31, 0, .RC)]
  | .LNK_BAR_DISC => [(31, 0, .RC)]
  | .LNK_VBARCFG => [(28, 26, .RW), (25, 25, .RW), (24, 24, .RW), (23, 16, .RW), (15, 0, .RW)]
  | .LNK_VBARST => [(31, 16, .RO), (15, 8, .RO), (0, 0, .RO)]
  | .LNK_RTE => [(31, 31, .RW), (29, 29, .RW), (12, 8, .RW), (4, 0, .RW)]
  | .TCK_NOW => [(63, 0, .RO)]
  | .TCK_CTL => [(31, 30, .RW), (28, 24, .RW), (23, 0, .RW)]
  | .TCK_PERIOD => [(15, 0, .RW)]
  | .TCK_STAT => [(31, 31, .RO), (15, 0, .RO)]
  | .TCK_UNLOCKS => [(31, 0, .RC)]
  | .TCK_LAT => [(23, 0, .RO)]
  | .HUB_RED_TABLE => [(47, 16, .RW)]
  | .HUB_RED_STAT => [(31, 16, .RO), (12, 0, .RO)]
  | .LNK_RED_TMO => [(31, 0, .RW)]
  | .LNK_RED_STAT => [(12, 0, .RO)]
  | .LNK_RED_EVT => [(5, 5, .W1C), (4, 4, .W1C), (3, 3, .W1C), (2, 2, .W1C), (1, 1, .W1C), (0, 0, .W1C)]
  | .LNK_RED_RERUNS => [(31, 0, .RC)]
  | .LNK_RED_BF16CNT => [(31, 0, .RC)]
  | .LNK_RED_DIGBAD => [(31, 0, .RC)]
  | .LNK_RED_CLOSED => [(63, 0, .RO)]
  | .LNK_RED_ELEMS => [(63, 0, .RO)]
  | .CRN_CTL => [(31, 31, .RW), (15, 0, .RW)]
  | .CRN_STAT => [(31, 28, .RO), (27, 27, .RO), (16, 0, .RO)]
  | .CRN_EPOCH => [(63, 0, .RO)]
  | .CRN_ARRIVED => [(63, 0, .RO)]
  | .CRN_CMD => [(3, 0, .WO)]
  | .CRN_EVT => [(7, 7, .W1C), (6, 6, .W1C), (5, 5, .W1C), (4, 4, .W1C), (3, 3, .W1C), (2, 2, .W1C), (1, 1, .W1C), (0, 0, .W1C)]
  | .CRN_ARG => [(63, 0, .RW)]
  | .CRN_PT => [(63, 48, .RW), (47, 6, .RW)]
  | .CRN_CKAREA => [(47, 16, .RW)]
  | .CRN_CKSIZE => [(19, 0, .RW)]
  | .CRN_CKSTAT => [(31, 29, .RO), (28, 28, .RO), (27, 0, .RO)]
  | .CRN_CKEPOCH => [(63, 0, .RO)]
  | .CRN_MIRAREA => [(47, 20, .RW)]
  | .CRN_BUDDY => [(16, 16, .RW), (15, 0, .RW)]
  | .CRN_MIRSTAT => [(31, 30, .RO)]
  | .CRN_BUDDYADDR => [(47, 20, .RW)]
  | .CRN_DSTR => [(47, 10, .RW)]
  | .CRN_RNG => [(47, 10, .RW)]
  | .CRN_COMMIT_TMO => [(31, 0, .RW)]
  | .CRN_REST => [(31, 28, .RO), (27, 0, .RO)]
  | .CRN_JOB => [(63, 0, .RW)]
  | .PWR_CAP => [(31, 24, .RW), (23, 14, .RW), (10, 0, .RW)]
  | .PWR_GOV_STAT => [(31, 29, .RO), (28, 26, .RO), (25, 25, .RO), (24, 24, .RO), (23, 23, .RO), (10, 0, .RO)]
  | .PWR_VCFG => [(5, 0, .RW)]
  | .PWR_DROOP_CFG => [(31, 16, .RW), (5, 0, .RW)]
  | .PWR_DROOP_CNT => [(31, 0, .RC)]
  | .PWR_TOK_STAT => [(23, 16, .RO), (6, 0, .RO)]
  | .PWR_TOK_GRANT => [(63, 0, .RO)]
  | .PWR_TOK_REFILL => [(63, 0, .RO)]
  | .PWR_BAR_OFFSET => [(7, 0, .RW)]
  | .PWR_DOM_CMD => [(63, 62, .WO), (31, 0, .WO)]
  | .PWR_DOM_STAT => [(63, 0, .RO)]
  | .PWR_EVT => [(7, 7, .W1C), (6, 6, .W1C), (5, 5, .W1C), (4, 4, .W1C), (3, 3, .W1C), (2, 2, .W1C), (1, 1, .W1C), (0, 0, .W1C)]
  | .PWR_RESTART => [(15, 0, .WO)]
  | .PWR_THERM => [(31, 16, .RO), (9, 0, .RO)]
  | .PWR_STOP_STAT => [(31, 31, .RO), (30, 29, .RO), (28, 28, .RO), (27, 0, .RO)]
  | .PWR_IDLE => [(10, 0, .RO)]
  | .PWR_VF => [(15, 0, .RO)]
  | .PWR_DOM => [(63, 0, .RO)]
  | .PWR_MEM => [(63, 0, .RO)]
  | .PWR_SAMP => [(31, 16, .RO), (15, 0, .RO)]
  | .PWR_ACCT_CORE => [(63, 0, .RO)]
  | .PWR_ACCT_DMA => [(63, 0, .RO)]
  | .PWR_ACCT_LINK => [(63, 0, .RO)]
  | .PWR_ACCT_RED => [(63, 0, .RO)]
  | .PWR_ACCT_UPD => [(63, 0, .RO)]
  | .PWR_POOL => [(63, 0, .RO)]
  | .PWR_TOTAL => [(63, 0, .RO)]
  | .PWR_IN => [(63, 0, .RO)]
  | .PWR_EREP_ADDR => [(47, 7, .RW)]
  | .MBX_PUT => [(63, 0, .WO)]
  | .MBX_DATA => [(63, 0, .RC)]
  | .MBX_PEEK => [(63, 0, .RO)]
  | .MBX_STAT => [(31, 31, .RO), (30, 30, .RO), (29, 28, .RO), (23, 16, .RO), (15, 14, .RO), (13, 0, .RO)]
  | .MBX_EVT => [(4, 4, .W1C), (3, 3, .W1C), (2, 2, .W1C), (1, 1, .W1C), (0, 0, .W1C)]
  | .MBX_LOST => [(31, 0, .RO)]
  | .MBX_QCNT => [(8, 0, .RO)]
  | .MBX_MER_CFG => [(31, 28, .RW), (27, 24, .RW), (23, 0, .RW)]
  | .MBX_MER_STAT => [(31, 29, .RO), (28, 25, .RO), (23, 20, .RO), (19, 16, .RO)]
  | .MBX_MER_TXFR => [(63, 0, .RO)]
  | .MBX_MER_RXFR => [(63, 0, .RO)]
  | .MBX_MER_CRCERR => [(31, 0, .RC)]
  | .MBX_MER_RESEND => [(31, 0, .RC)]
  | .MBX_MER_MBXTMO => [(31, 0, .RW)]
  | .MBX_SESS_STAT => [(31, 31, .RO), (30, 23, .RO), (22, 19, .RO)]
  | .MBX_SESS_TAG => [(31, 0, .RO)]
  | .MBX_DB_RING => [(63, 2, .WO)]
  | .MBX_DB_PEND => [(63, 0, .RO)]
  | .HUB_BOOT_STAT => [(31, 31, .RO), (30, 30, .RO), (29, 29, .RO), (28, 28, .RO), (27, 27, .RO), (26, 26, .RO), (25, 24, .RO), (23, 23, .RO), (19, 16, .RO), (15, 0, .RO)]
  | .HUB_BOOT_TIME => [(63, 0, .RO)]
  | .HUB_RESET => [(31, 16, .WO), (1, 0, .WO)]
  | .HUB_FW_STAT => [(31, 29, .RO), (28, 24, .RO), (23, 23, .RO), (22, 22, .RO), (21, 21, .RO)]
  | .HUB_FW_CMD => [(2, 0, .WO)]
  | .HUB_FW_SRC => [(47, 6, .RW)]
  | .HUB_FW_LEN => [(23, 0, .RW)]
  | .HUB_FW_VER => [(31, 0, .RO)]
  | .HUB_FW_SVN => [(31, 16, .RO), (15, 0, .RO)]
  | .HUB_MEAS => [(63, 0, .RO)]
  | .HUB_CLK_STAT => [(31, 31, .RO), (30, 30, .RO), (29, 29, .RO), (23, 0, .RO)]
  | .HUB_ALERT => [(7, 7, .W1C), (6, 6, .W1C), (5, 5, .W1C), (4, 4, .W1C), (3, 3, .W1C), (2, 2, .W1C), (1, 1, .W1C), (0, 0, .W1C)]

/-- The registers of one block, in the order of the maps. -/
def blockRegs : RegBlock → List RegName
  | .HUB => [.HUB_WDT_CTL, .HUB_WDT_KICK, .HUB_WDT_LEFT, .HUB_CORE_STAT, .HUB_CORE_RELEASE, .HUB_CORE_EVT, .HUB_PART, .HUB_RCP_BASE, .HUB_TRB_CFG, .HUB_TRB_STAT, .HUB_TRB_EVT, .HUB_LOSS_REPORT, .HUB_SPIKE_MEAN, .HUB_SPIKE_VAR, .HUB_SPIKE_STEPS, .HUB_TRB_SKIPS, .HUB_RCP_APPLY, .HUB_TRB_ANSWER, .HUB_TRB_TABLE, .HUB_SCL_BASE, .HUB_STH_SPILLBASE, .HUB_STH_SPILLSZ, .HUB_STH_SPILLUSED, .HUB_STH_SPILLPEAK, .HUB_STH_PLAN, .HUB_ID, .HUB_WIN, .HUB_MEM_STAT, .HUB_MEM_TOP, .HUB_CHT, .HUB_WBE_LIST, .HUB_RED_TABLE, .HUB_RED_STAT, .HUB_BOOT_STAT, .HUB_BOOT_TIME, .HUB_RESET, .HUB_FW_STAT, .HUB_FW_CMD, .HUB_FW_SRC, .HUB_FW_LEN, .HUB_FW_VER, .HUB_FW_SVN, .HUB_MEAS, .HUB_CLK_STAT, .HUB_ALERT]
  | .MBX => [.MBX_PUT, .MBX_DATA, .MBX_PEEK, .MBX_STAT, .MBX_EVT, .MBX_LOST, .MBX_QCNT, .MBX_MER_CFG, .MBX_MER_STAT, .MBX_MER_TXFR, .MBX_MER_RXFR, .MBX_MER_CRCERR, .MBX_MER_RESEND, .MBX_MER_MBXTMO, .MBX_SESS_STAT, .MBX_SESS_TAG, .MBX_DB_RING, .MBX_DB_PEND]
  | .FBK => [.FBK_CTL, .FBK_STAT, .FBK_COUNT, .FBK_LOST, .FBK_BASE, .FBK_RDIDX, .FBK_RDDATA]
  | .TCK => [.TCK_NOW, .TCK_CTL, .TCK_PERIOD, .TCK_STAT, .TCK_UNLOCKS, .TCK_LAT]
  | .CRN => [.CRN_CTL, .CRN_STAT, .CRN_EPOCH, .CRN_ARRIVED, .CRN_CMD, .CRN_EVT, .CRN_ARG, .CRN_PT, .CRN_CKAREA, .CRN_CKSIZE, .CRN_CKSTAT, .CRN_CKEPOCH, .CRN_MIRAREA, .CRN_BUDDY, .CRN_MIRSTAT, .CRN_BUDDYADDR, .CRN_DSTR, .CRN_RNG, .CRN_COMMIT_TMO, .CRN_REST, .CRN_JOB]
  | .PWR => [.PWR_CAP, .PWR_GOV_STAT, .PWR_VCFG, .PWR_DROOP_CFG, .PWR_DROOP_CNT, .PWR_TOK_STAT, .PWR_TOK_GRANT, .PWR_TOK_REFILL, .PWR_BAR_OFFSET, .PWR_DOM_CMD, .PWR_DOM_STAT, .PWR_EVT, .PWR_RESTART, .PWR_THERM, .PWR_STOP_STAT, .PWR_IDLE, .PWR_VF, .PWR_DOM, .PWR_MEM, .PWR_SAMP, .PWR_ACCT_CORE, .PWR_ACCT_DMA, .PWR_ACCT_LINK, .PWR_ACCT_RED, .PWR_ACCT_UPD, .PWR_POOL, .PWR_TOTAL, .PWR_IN, .PWR_EREP_ADDR]
  | .ECC => [.ECC_SCR_CTL, .ECC_SCR_ADDR, .ECC_SCR_LEN, .ECC_SCR_REC, .ECC_SCR_STAT, .ECC_SCR_GO, .ECC_CECNT, .ECC_UECNT, .ECC_POISONCNT, .ECC_RTRYCNT, .ECC_STEST_STAT, .ECC_STEST_CLU, .ECC_RET_STAT, .ECC_RET_CTL]
  | .SEQ => [.SEQ_MX_CTL, .SEQ_MX_STAT, .SEQ_MX_EVT, .SEQ_MX_LSUM, .SEQ_MX_SRCNT, .SEQ_MX_NFCNT, .SEQ_MX_PASS, .SEQ_MX_ROWS, .SEQ_TRB_LAYERF, .SEQ_TRB_LAYERB, .SEQ_ILV_CTL, .SEQ_ILV_BASE, .SEQ_ILV_POS, .SEQ_ILV_WAITF, .SEQ_ILV_WAITB, .SEQ_ROW_STAT, .SEQ_ROW_SPILLCNT, .SEQ_STH_LIMIT, .SEQ_STH_USED, .SEQ_STH_PEAK, .SEQ_STH_TAGS, .SEQ_STH_SPILLG, .SEQ_STH_SPILLCNT, .SEQ_STH_EVT, .SEQ_STAT, .SEQ_PC_F, .SEQ_PC_B, .SEQ_TRAP_CAUSE, .SEQ_TRAP_PC, .SEQ_TRAP_INFO, .SEQ_WAIT_LIMIT, .SEQ_TOK, .SEQ_DMA_STAT, .SEQ_DMA_ERRADDR, .SEQ_DMA_BYTES, .SEQ_DMA_HALTS]
  | .EDG => []
  | .LNK => [.LNK_STATION, .LNK_E2E_TMO, .LNK_ROUTE_MISS, .LNK_LATEACK, .LNK_PCFG, .LNK_PSTAT, .LNK_PEER, .LNK_PEVT, .LNK_REPLAY, .LNK_DROP, .LNK_FECCOR, .LNK_TXBYTES, .LNK_RXBYTES, .LNK_BARCFG, .LNK_BARST, .LNK_BAR_MARGIN, .LNK_BAR_LATE, .LNK_BAR_DISC, .LNK_VBARCFG, .LNK_VBARST, .LNK_RTE, .LNK_RED_TMO, .LNK_RED_STAT, .LNK_RED_EVT, .LNK_RED_RERUNS, .LNK_RED_BF16CNT, .LNK_RED_DIGBAD, .LNK_RED_CLOSED, .LNK_RED_ELEMS]

namespace F

namespace HUB_WDT_CTL
/-- R22. -/
abbrev TIMEOUT : Fld := ⟨.HUB_WDT_CTL, 23, 0⟩
end HUB_WDT_CTL

namespace HUB_WDT_KICK
/-- R22. -/
abbrev KEY : Fld := ⟨.HUB_WDT_KICK, 15, 0⟩
end HUB_WDT_KICK

namespace HUB_WDT_LEFT
/-- R22. -/
abbrev LEFT : Fld := ⟨.HUB_WDT_LEFT, 23, 0⟩
end HUB_WDT_LEFT

namespace HUB_CORE_STAT
/-- R22. -/
abbrev STATE : Fld := ⟨.HUB_CORE_STAT, 31, 30⟩
/-- R22. -/
abbrev RECENT : Fld := ⟨.HUB_CORE_STAT, 23, 16⟩
/-- R22. -/
abbrev TOTAL : Fld := ⟨.HUB_CORE_STAT, 15, 0⟩
end HUB_CORE_STAT

namespace HUB_CORE_RELEASE
/-- R22. -/
abbrev RELEASE : Fld := ⟨.HUB_CORE_RELEASE, 3, 0⟩
end HUB_CORE_RELEASE

namespace HUB_CORE_EVT
/-- R22. -/
abbrev HELD : Fld := ⟨.HUB_CORE_EVT, 11, 8⟩
/-- R22. -/
abbrev WDT_EXP : Fld := ⟨.HUB_CORE_EVT, 3, 0⟩
end HUB_CORE_EVT

namespace HUB_PART
/-- R31. -/
abbrev REJECTED : Fld := ⟨.HUB_PART, 63, 63⟩
/-- R31. -/
abbrev CLUSTERS : Fld := ⟨.HUB_PART, 31, 0⟩
end HUB_PART

namespace SEQ_MX_CTL
/-- R97. -/
abbrev ACC_INF : Fld := ⟨.SEQ_MX_CTL, 0, 0⟩
end SEQ_MX_CTL

namespace SEQ_MX_STAT
/-- R97. -/
abbrev BUSY : Fld := ⟨.SEQ_MX_STAT, 31, 31⟩
/-- R97. -/
abbrev RAMP : Fld := ⟨.SEQ_MX_STAT, 30, 30⟩
/-- R97. -/
abbrev QUEUED : Fld := ⟨.SEQ_MX_STAT, 23, 16⟩
/-- R97. -/
abbrev OPEN : Fld := ⟨.SEQ_MX_STAT, 15, 0⟩
end SEQ_MX_STAT

namespace SEQ_MX_EVT
/-- R97. -/
abbrev POISON : Fld := ⟨.SEQ_MX_EVT, 4, 4⟩
/-- R97. -/
abbrev CRUSH : Fld := ⟨.SEQ_MX_EVT, 3, 3⟩
/-- R97. -/
abbrev NONFINITE : Fld := ⟨.SEQ_MX_EVT, 2, 2⟩
/-- R97. -/
abbrev SCALE_RANGE : Fld := ⟨.SEQ_MX_EVT, 1, 1⟩
/-- R97. -/
abbrev LONGSUM : Fld := ⟨.SEQ_MX_EVT, 0, 0⟩
end SEQ_MX_EVT

namespace SEQ_MX_LSUM
/-- R97. -/
abbrev SLOTS : Fld := ⟨.SEQ_MX_LSUM, 15, 0⟩
end SEQ_MX_LSUM

namespace SEQ_MX_SRCNT
/-- R97. -/
abbrev COUNT : Fld := ⟨.SEQ_MX_SRCNT, 31, 0⟩
end SEQ_MX_SRCNT

namespace SEQ_MX_NFCNT
/-- R97. -/
abbrev COUNT : Fld := ⟨.SEQ_MX_NFCNT, 31, 0⟩
end SEQ_MX_NFCNT

namespace SEQ_MX_PASS
/-- R97. -/
abbrev COUNT : Fld := ⟨.SEQ_MX_PASS, 63, 0⟩
end SEQ_MX_PASS

namespace SEQ_MX_ROWS
/-- R97. -/
abbrev COUNT : Fld := ⟨.SEQ_MX_ROWS, 63, 0⟩
end SEQ_MX_ROWS

namespace SEQ_TRB_LAYERF
/-- R111. -/
abbrev LAYER : Fld := ⟨.SEQ_TRB_LAYERF, 10, 0⟩
end SEQ_TRB_LAYERF

namespace SEQ_TRB_LAYERB
/-- R111. -/
abbrev LAYER : Fld := ⟨.SEQ_TRB_LAYERB, 10, 0⟩
end SEQ_TRB_LAYERB

namespace HUB_RCP_BASE
/-- R129. -/
abbrev ADDR : Fld := ⟨.HUB_RCP_BASE, 47, 0⟩
end HUB_RCP_BASE

namespace HUB_TRB_CFG
/-- R129. -/
abbrev SF : Fld := ⟨.HUB_TRB_CFG, 31, 28⟩
/-- R129. -/
abbrev CF : Fld := ⟨.HUB_TRB_CFG, 27, 24⟩
/-- R129. -/
abbrev K : Fld := ⟨.HUB_TRB_CFG, 23, 16⟩
/-- R129. -/
abbrev A : Fld := ⟨.HUB_TRB_CFG, 15, 12⟩
/-- R129. -/
abbrev WARM : Fld := ⟨.HUB_TRB_CFG, 11, 4⟩
/-- R129. -/
abbrev SPIKE_POL : Fld := ⟨.HUB_TRB_CFG, 0, 0⟩
end HUB_TRB_CFG

namespace HUB_TRB_STAT
/-- R129. -/
abbrev VERDICT : Fld := ⟨.HUB_TRB_STAT, 31, 30⟩
/-- R129. -/
abbrev REPLAYS : Fld := ⟨.HUB_TRB_STAT, 29, 28⟩
/-- R129. -/
abbrev LOSS_WRITTEN : Fld := ⟨.HUB_TRB_STAT, 27, 27⟩
/-- R129. -/
abbrev HOLDING : Fld := ⟨.HUB_TRB_STAT, 26, 26⟩
/-- R129. -/
abbrev APPLY_PENDING : Fld := ⟨.HUB_TRB_STAT, 25, 25⟩
/-- R129. -/
abbrev SPIKE_RUN : Fld := ⟨.HUB_TRB_STAT, 24, 24⟩
/-- R129. -/
abbrev FIRST_LAYER : Fld := ⟨.HUB_TRB_STAT, 10, 0⟩
end HUB_TRB_STAT

namespace HUB_TRB_EVT
/-- R129. -/
abbrev RCP_REJECT : Fld := ⟨.HUB_TRB_EVT, 5, 5⟩
/-- R129. -/
abbrev LOSS_ABSENT : Fld := ⟨.HUB_TRB_EVT, 4, 4⟩
/-- R129. -/
abbrev SPIKE : Fld := ⟨.HUB_TRB_EVT, 3, 3⟩
/-- R129. -/
abbrev STUCK : Fld := ⟨.HUB_TRB_EVT, 2, 2⟩
/-- R129. -/
abbrev RECIPE_ALL : Fld := ⟨.HUB_TRB_EVT, 1, 1⟩
/-- R129. -/
abbrev HOLD : Fld := ⟨.HUB_TRB_EVT, 0, 0⟩
end HUB_TRB_EVT

namespace HUB_LOSS_REPORT
/-- R129. -/
abbrev LOSS : Fld := ⟨.HUB_LOSS_REPORT, 31, 0⟩
end HUB_LOSS_REPORT

namespace HUB_SPIKE_MEAN
/-- R129. -/
abbrev MU : Fld := ⟨.HUB_SPIKE_MEAN, 31, 0⟩
end HUB_SPIKE_MEAN

namespace HUB_SPIKE_VAR
/-- R129. -/
abbrev VAR : Fld := ⟨.HUB_SPIKE_VAR, 31, 0⟩
end HUB_SPIKE_VAR

namespace HUB_SPIKE_STEPS
/-- R129. -/
abbrev N : Fld := ⟨.HUB_SPIKE_STEPS, 31, 0⟩
end HUB_SPIKE_STEPS

namespace HUB_TRB_SKIPS
/-- R129. -/
abbrev COUNT : Fld := ⟨.HUB_TRB_SKIPS, 31, 0⟩
end HUB_TRB_SKIPS

namespace HUB_RCP_APPLY
/-- R129. -/
abbrev HOLD_NEXT : Fld := ⟨.HUB_RCP_APPLY, 1, 1⟩
/-- R129. -/
abbrev APPLY : Fld := ⟨.HUB_RCP_APPLY, 0, 0⟩
end HUB_RCP_APPLY

namespace HUB_TRB_ANSWER
/-- R129. -/
abbrev ANSWER : Fld := ⟨.HUB_TRB_ANSWER, 1, 0⟩
end HUB_TRB_ANSWER

namespace HUB_TRB_TABLE
/-- R129. -/
abbrev ADDR : Fld := ⟨.HUB_TRB_TABLE, 63, 0⟩
end HUB_TRB_TABLE

namespace HUB_SCL_BASE
/-- R129. -/
abbrev ADDR : Fld := ⟨.HUB_SCL_BASE, 47, 0⟩
end HUB_SCL_BASE

namespace SEQ_ILV_CTL
/-- R159. -/
abbrev ENABLE : Fld := ⟨.SEQ_ILV_CTL, 31, 31⟩
/-- R159. -/
abbrev LEN : Fld := ⟨.SEQ_ILV_CTL, 12, 0⟩
end SEQ_ILV_CTL

namespace SEQ_ILV_BASE
/-- R159. -/
abbrev ADDR : Fld := ⟨.SEQ_ILV_BASE, 47, 6⟩
end SEQ_ILV_BASE

namespace SEQ_ILV_POS
/-- R159. -/
abbrev SLOT : Fld := ⟨.SEQ_ILV_POS, 23, 12⟩
/-- R159. -/
abbrev CYCLE : Fld := ⟨.SEQ_ILV_POS, 11, 0⟩
end SEQ_ILV_POS

namespace SEQ_ILV_WAITF
/-- R159. -/
abbrev COUNT : Fld := ⟨.SEQ_ILV_WAITF, 63, 0⟩
end SEQ_ILV_WAITF

namespace SEQ_ILV_WAITB
/-- R159. -/
abbrev COUNT : Fld := ⟨.SEQ_ILV_WAITB, 63, 0⟩
end SEQ_ILV_WAITB

namespace SEQ_ROW_STAT
/-- R159. -/
abbrev BUSY : Fld := ⟨.SEQ_ROW_STAT, 31, 31⟩
/-- R159. -/
abbrev SIDE_USED : Fld := ⟨.SEQ_ROW_STAT, 18, 0⟩
end SEQ_ROW_STAT

namespace SEQ_ROW_SPILLCNT
/-- R159. -/
abbrev COUNT : Fld := ⟨.SEQ_ROW_SPILLCNT, 31, 0⟩
end SEQ_ROW_SPILLCNT

namespace SEQ_STH_LIMIT
/-- R159. -/
abbrev GRAN : Fld := ⟨.SEQ_STH_LIMIT, 16, 0⟩
end SEQ_STH_LIMIT

namespace SEQ_STH_USED
/-- R159. -/
abbrev GRAN : Fld := ⟨.SEQ_STH_USED, 16, 0⟩
end SEQ_STH_USED

namespace SEQ_STH_PEAK
/-- R159. -/
abbrev GRAN : Fld := ⟨.SEQ_STH_PEAK, 16, 0⟩
end SEQ_STH_PEAK

namespace SEQ_STH_TAGS
/-- R159. -/
abbrev LIVE : Fld := ⟨.SEQ_STH_TAGS, 11, 0⟩
end SEQ_STH_TAGS

namespace SEQ_STH_SPILLG
/-- R159. -/
abbrev GRAN : Fld := ⟨.SEQ_STH_SPILLG, 22, 0⟩
end SEQ_STH_SPILLG

namespace SEQ_STH_SPILLCNT
/-- R159. -/
abbrev COUNT : Fld := ⟨.SEQ_STH_SPILLCNT, 31, 0⟩
end SEQ_STH_SPILLCNT

namespace SEQ_STH_EVT
/-- R159. -/
abbrev TAG_FAULT : Fld := ⟨.SEQ_STH_EVT, 2, 2⟩
/-- R159. -/
abbrev SPILL : Fld := ⟨.SEQ_STH_EVT, 1, 1⟩
/-- R159. -/
abbrev EXHAUSTED : Fld := ⟨.SEQ_STH_EVT, 0, 0⟩
end SEQ_STH_EVT

namespace HUB_STH_SPILLBASE
/-- R161. -/
abbrev ADDR : Fld := ⟨.HUB_STH_SPILLBASE, 47, 0⟩
end HUB_STH_SPILLBASE

namespace HUB_STH_SPILLSZ
/-- R161. -/
abbrev GRAN : Fld := ⟨.HUB_STH_SPILLSZ, 22, 0⟩
end HUB_STH_SPILLSZ

namespace HUB_STH_SPILLUSED
/-- R161. -/
abbrev GRAN : Fld := ⟨.HUB_STH_SPILLUSED, 22, 0⟩
end HUB_STH_SPILLUSED

namespace HUB_STH_SPILLPEAK
/-- R161. -/
abbrev GRAN : Fld := ⟨.HUB_STH_SPILLPEAK, 22, 0⟩
end HUB_STH_SPILLPEAK

namespace HUB_STH_PLAN
/-- R161. -/
abbrev EXHAUSTS : Fld := ⟨.HUB_STH_PLAN, 31, 16⟩
/-- R161. -/
abbrev ALT : Fld := ⟨.HUB_STH_PLAN, 0, 0⟩
end HUB_STH_PLAN

namespace SEQ_STAT
/-- R191. -/
abbrev STATE : Fld := ⟨.SEQ_STAT, 31, 30⟩
/-- R191. -/
abbrev F_ENDED : Fld := ⟨.SEQ_STAT, 29, 29⟩
/-- R191. -/
abbrev B_ENDED : Fld := ⟨.SEQ_STAT, 28, 28⟩
/-- R191. -/
abbrev INFL_F : Fld := ⟨.SEQ_STAT, 23, 16⟩
/-- R191. -/
abbrev INFL_B : Fld := ⟨.SEQ_STAT, 15, 8⟩
/-- R191. -/
abbrev BLOCK_F : Fld := ⟨.SEQ_STAT, 1, 1⟩
/-- R191. -/
abbrev BLOCK_B : Fld := ⟨.SEQ_STAT, 0, 0⟩
end SEQ_STAT

namespace SEQ_PC_F
/-- R191. -/
abbrev PC : Fld := ⟨.SEQ_PC_F, 47, 0⟩
end SEQ_PC_F

namespace SEQ_PC_B
/-- R191. -/
abbrev PC : Fld := ⟨.SEQ_PC_B, 47, 0⟩
end SEQ_PC_B

namespace SEQ_TRAP_CAUSE
/-- R191. -/
abbrev VALID : Fld := ⟨.SEQ_TRAP_CAUSE, 31, 31⟩
/-- R191. -/
abbrev DEFERRED : Fld := ⟨.SEQ_TRAP_CAUSE, 30, 30⟩
/-- R191. -/
abbrev STREAM : Fld := ⟨.SEQ_TRAP_CAUSE, 29, 29⟩
/-- R191. -/
abbrev MORE : Fld := ⟨.SEQ_TRAP_CAUSE, 23, 8⟩
/-- R191. -/
abbrev CAUSE : Fld := ⟨.SEQ_TRAP_CAUSE, 7, 0⟩
end SEQ_TRAP_CAUSE

namespace SEQ_TRAP_PC
/-- R191. -/
abbrev PC : Fld := ⟨.SEQ_TRAP_PC, 47, 0⟩
end SEQ_TRAP_PC

namespace SEQ_TRAP_INFO
/-- R191. -/
abbrev INFO : Fld := ⟨.SEQ_TRAP_INFO, 63, 0⟩
end SEQ_TRAP_INFO

namespace SEQ_WAIT_LIMIT
/-- R191. -/
abbrev LIMIT : Fld := ⟨.SEQ_WAIT_LIMIT, 23, 0⟩
end SEQ_WAIT_LIMIT

namespace SEQ_TOK
/-- R191. -/
abbrev PENDING : Fld := ⟨.SEQ_TOK, 31, 16⟩
/-- R191. -/
abbrev COUNT : Fld := ⟨.SEQ_TOK, 15, 0⟩
end SEQ_TOK

namespace HUB_ID
/-- R228. -/
abbrev STEP : Fld := ⟨.HUB_ID, 31, 24⟩
/-- R228. -/
abbrev VARIANT : Fld := ⟨.HUB_ID, 23, 16⟩
/-- R228. -/
abbrev PART : Fld := ⟨.HUB_ID, 15, 0⟩
end HUB_ID

namespace HUB_WIN
/-- R229. -/
abbrev REJECTED : Fld := ⟨.HUB_WIN, 63, 63⟩
/-- R229. -/
abbrev CACHE : Fld := ⟨.HUB_WIN, 62, 62⟩
/-- R229. -/
abbrev SIZE : Fld := ⟨.HUB_WIN, 59, 32⟩
/-- R229. -/
abbrev BASE : Fld := ⟨.HUB_WIN, 27, 0⟩
end HUB_WIN

namespace HUB_MEM_STAT
/-- R233. -/
abbrev PENDING : Fld := ⟨.HUB_MEM_STAT, 31, 31⟩
/-- R233. -/
abbrev BLOCKED : Fld := ⟨.HUB_MEM_STAT, 30, 30⟩
/-- R233. -/
abbrev ACTIVE : Fld := ⟨.HUB_MEM_STAT, 8, 0⟩
end HUB_MEM_STAT

namespace HUB_MEM_TOP
/-- R233. -/
abbrev BYTES : Fld := ⟨.HUB_MEM_TOP, 47, 0⟩
end HUB_MEM_TOP

namespace HUB_CHT
/-- R233. -/
abbrev VALID : Fld := ⟨.HUB_CHT, 31, 31⟩
/-- R233. -/
abbrev PHYS : Fld := ⟨.HUB_CHT, 7, 0⟩
end HUB_CHT

namespace HUB_WBE_LIST
/-- R239. -/
abbrev ADDR : Fld := ⟨.HUB_WBE_LIST, 47, 7⟩
end HUB_WBE_LIST

namespace SEQ_DMA_STAT
/-- R251. -/
abbrev STATE : Fld := ⟨.SEQ_DMA_STAT, 31, 30⟩
/-- R251. -/
abbrev CAUSE : Fld := ⟨.SEQ_DMA_STAT, 29, 28⟩
/-- R251. -/
abbrev QUEUED : Fld := ⟨.SEQ_DMA_STAT, 23, 16⟩
/-- R251. -/
abbrev STATION : Fld := ⟨.SEQ_DMA_STAT, 15, 0⟩
end SEQ_DMA_STAT

namespace SEQ_DMA_ERRADDR
/-- R251. -/
abbrev ADDR : Fld := ⟨.SEQ_DMA_ERRADDR, 47, 0⟩
end SEQ_DMA_ERRADDR

namespace SEQ_DMA_BYTES
/-- R251. -/
abbrev COUNT : Fld := ⟨.SEQ_DMA_BYTES, 63, 0⟩
end SEQ_DMA_BYTES

namespace SEQ_DMA_HALTS
/-- R251. -/
abbrev COUNT : Fld := ⟨.SEQ_DMA_HALTS, 31, 0⟩
end SEQ_DMA_HALTS

namespace ECC_SCR_CTL
/-- R281. -/
abbrev MODE : Fld := ⟨.ECC_SCR_CTL, 1, 0⟩
end ECC_SCR_CTL

namespace ECC_SCR_ADDR
/-- R281. -/
abbrev ADDR : Fld := ⟨.ECC_SCR_ADDR, 47, 0⟩
end ECC_SCR_ADDR

namespace ECC_SCR_LEN
/-- R281. -/
abbrev BYTES : Fld := ⟨.ECC_SCR_LEN, 47, 0⟩
end ECC_SCR_LEN

namespace ECC_SCR_REC
/-- R281. -/
abbrev ADDR : Fld := ⟨.ECC_SCR_REC, 47, 0⟩
end ECC_SCR_REC

namespace ECC_SCR_STAT
/-- R281. -/
abbrev BUSY : Fld := ⟨.ECC_SCR_STAT, 31, 31⟩
/-- R281. -/
abbrev REJECTED : Fld := ⟨.ECC_SCR_STAT, 30, 30⟩
/-- R281. -/
abbrev ABORTED : Fld := ⟨.ECC_SCR_STAT, 29, 29⟩
end ECC_SCR_STAT

namespace ECC_SCR_GO
/-- R281. -/
abbrev GO : Fld := ⟨.ECC_SCR_GO, 0, 0⟩
end ECC_SCR_GO

namespace ECC_CECNT
/-- R281. -/
abbrev COUNT : Fld := ⟨.ECC_CECNT, 63, 0⟩
end ECC_CECNT

namespace ECC_UECNT
/-- R281. -/
abbrev COUNT : Fld := ⟨.ECC_UECNT, 63, 0⟩
end ECC_UECNT

namespace ECC_POISONCNT
/-- R281. -/
abbrev COUNT : Fld := ⟨.ECC_POISONCNT, 63, 0⟩
end ECC_POISONCNT

namespace ECC_RTRYCNT
/-- R281. -/
abbrev COUNT : Fld := ⟨.ECC_RTRYCNT, 63, 0⟩
end ECC_RTRYCNT

namespace ECC_STEST_STAT
/-- R281. -/
abbrev DONE : Fld := ⟨.ECC_STEST_STAT, 31, 31⟩
/-- R281. -/
abbrev PASS : Fld := ⟨.ECC_STEST_STAT, 30, 30⟩
/-- R281. -/
abbrev FAILED : Fld := ⟨.ECC_STEST_STAT, 15, 0⟩
end ECC_STEST_STAT

namespace ECC_STEST_CLU
/-- R281. -/
abbrev WITHHELD : Fld := ⟨.ECC_STEST_CLU, 31, 0⟩
end ECC_STEST_CLU

namespace ECC_RET_STAT
/-- R281. -/
abbrev SLOT : Fld := ⟨.ECC_RET_STAT, 31, 31⟩
/-- R281. -/
abbrev EMPTY : Fld := ⟨.ECC_RET_STAT, 30, 30⟩
/-- R281. -/
abbrev PENDING : Fld := ⟨.ECC_RET_STAT, 27, 16⟩
/-- R281. -/
abbrev ENTRIES : Fld := ⟨.ECC_RET_STAT, 15, 0⟩
end ECC_RET_STAT

namespace ECC_RET_CTL
/-- R281. -/
abbrev ACCEPT_EMPTY : Fld := ⟨.ECC_RET_CTL, 0, 0⟩
end ECC_RET_CTL

namespace FBK_CTL
/-- R283. -/
abbrev THAW : Fld := ⟨.FBK_CTL, 0, 0⟩
end FBK_CTL

namespace FBK_STAT
/-- R283. -/
abbrev FROZEN : Fld := ⟨.FBK_STAT, 31, 31⟩
/-- R283. -/
abbrev WRAPPED : Fld := ⟨.FBK_STAT, 30, 30⟩
/-- R283. -/
abbrev FREEZE_IDX : Fld := ⟨.FBK_STAT, 12, 0⟩
end FBK_STAT

namespace FBK_COUNT
/-- R283. -/
abbrev COUNT : Fld := ⟨.FBK_COUNT, 63, 0⟩
end FBK_COUNT

namespace FBK_LOST
/-- R283. -/
abbrev COUNT : Fld := ⟨.FBK_LOST, 31, 0⟩
end FBK_LOST

namespace FBK_BASE
/-- R283. -/
abbrev ADDR : Fld := ⟨.FBK_BASE, 63, 0⟩
end FBK_BASE

namespace FBK_RDIDX
/-- R283. -/
abbrev INDEX : Fld := ⟨.FBK_RDIDX, 12, 0⟩
end FBK_RDIDX

namespace FBK_RDDATA
/-- R283. -/
abbrev WORD : Fld := ⟨.FBK_RDDATA, 31, 0⟩
end FBK_RDDATA

namespace LNK_STATION
/-- R310. -/
abbrev SLOT : Fld := ⟨.LNK_STATION, 31, 28⟩
/-- R310. -/
abbrev TRAY : Fld := ⟨.LNK_STATION, 27, 24⟩
/-- R310. -/
abbrev ASSIGNED : Fld := ⟨.LNK_STATION, 16, 16⟩
/-- R310. -/
abbrev STATION : Fld := ⟨.LNK_STATION, 15, 0⟩
end LNK_STATION

namespace LNK_E2E_TMO
/-- R310. -/
abbrev TICKS : Fld := ⟨.LNK_E2E_TMO, 23, 0⟩
end LNK_E2E_TMO

namespace LNK_ROUTE_MISS
/-- R310. -/
abbrev COUNT : Fld := ⟨.LNK_ROUTE_MISS, 31, 0⟩
end LNK_ROUTE_MISS

namespace LNK_LATEACK
/-- R310. -/
abbrev COUNT : Fld := ⟨.LNK_LATEACK, 31, 0⟩
end LNK_LATEACK

namespace LNK_PCFG
/-- R310. -/
abbrev ENABLE : Fld := ⟨.LNK_PCFG, 31, 31⟩
/-- R310. -/
abbrev DATELINE : Fld := ⟨.LNK_PCFG, 30, 30⟩
/-- R310. -/
abbrev DIM : Fld := ⟨.LNK_PCFG, 29, 28⟩
/-- R310. -/
abbrev MAXW : Fld := ⟨.LNK_PCFG, 27, 26⟩
/-- R310. -/
abbrev LANEOFF : Fld := ⟨.LNK_PCFG, 25, 22⟩
/-- R310. -/
abbrev VERMAX : Fld := ⟨.LNK_PCFG, 21, 20⟩
/-- R310. -/
abbrev RETRAIN : Fld := ⟨.LNK_PCFG, 19, 19⟩
end LNK_PCFG

namespace LNK_PSTAT
/-- R310. -/
abbrev STATE : Fld := ⟨.LNK_PSTAT, 31, 28⟩
/-- R310. -/
abbrev WIDTH : Fld := ⟨.LNK_PSTAT, 27, 26⟩
/-- R310. -/
abbrev LANES : Fld := ⟨.LNK_PSTAT, 25, 22⟩
/-- R310. -/
abbrev RETIRED : Fld := ⟨.LNK_PSTAT, 21, 18⟩
/-- R310. -/
abbrev VERSION : Fld := ⟨.LNK_PSTAT, 17, 16⟩
end LNK_PSTAT

namespace LNK_PEER
/-- R310. -/
abbrev PORT : Fld := ⟨.LNK_PEER, 20, 16⟩
/-- R310. -/
abbrev STATION : Fld := ⟨.LNK_PEER, 15, 0⟩
end LNK_PEER

namespace LNK_PEVT
/-- R310. -/
abbrev PEER_CHANGED : Fld := ⟨.LNK_PEVT, 4, 4⟩
/-- R310. -/
abbrev VER_FAIL : Fld := ⟨.LNK_PEVT, 3, 3⟩
/-- R310. -/
abbrev LANE_RETIRED : Fld := ⟨.LNK_PEVT, 2, 2⟩
/-- R310. -/
abbrev RETRAIN : Fld := ⟨.LNK_PEVT, 1, 1⟩
/-- R310. -/
abbrev DOWN : Fld := ⟨.LNK_PEVT, 0, 0⟩
end LNK_PEVT

namespace LNK_REPLAY
/-- R310. -/
abbrev COUNT : Fld := ⟨.LNK_REPLAY, 31, 0⟩
end LNK_REPLAY

namespace LNK_DROP
/-- R310. -/
abbrev COUNT : Fld := ⟨.LNK_DROP, 31, 0⟩
end LNK_DROP

namespace LNK_FECCOR
/-- R310. -/
abbrev COUNT : Fld := ⟨.LNK_FECCOR, 63, 0⟩
end LNK_FECCOR

namespace LNK_TXBYTES
/-- R310. -/
abbrev COUNT : Fld := ⟨.LNK_TXBYTES, 63, 0⟩
end LNK_TXBYTES

namespace LNK_RXBYTES
/-- R310. -/
abbrev COUNT : Fld := ⟨.LNK_RXBYTES, 63, 0⟩
end LNK_RXBYTES

namespace LNK_BARCFG
/-- R310. -/
abbrev ENABLE : Fld := ⟨.LNK_BARCFG, 25, 25⟩
/-- R310. -/
abbrev ROOT : Fld := ⟨.LNK_BARCFG, 24, 24⟩
/-- R310. -/
abbrev CHILDREN : Fld := ⟨.LNK_BARCFG, 23, 16⟩
/-- R310. -/
abbrev PARENT : Fld := ⟨.LNK_BARCFG, 15, 0⟩
end LNK_BARCFG

namespace LNK_BARST
/-- R310. -/
abbrev GEN : Fld := ⟨.LNK_BARST, 31, 16⟩
/-- R310. -/
abbrev UPS : Fld := ⟨.LNK_BARST, 15, 8⟩
/-- R310. -/
abbrev LOCAL : Fld := ⟨.LNK_BARST, 0, 0⟩
end LNK_BARST

namespace LNK_BAR_MARGIN
/-- R310. -/
abbrev TICKS : Fld := ⟨.LNK_BAR_MARGIN, 15, 0⟩
end LNK_BAR_MARGIN

namespace LNK_BAR_LATE
/-- R310. -/
abbrev COUNT : Fld := ⟨.LNK_BAR_LATE, 31, 0⟩
end LNK_BAR_LATE

namespace LNK_BAR_DISC
/-- R310. -/
abbrev COUNT : Fld := ⟨.LNK_BAR_DISC, 31, 0⟩
end LNK_BAR_DISC

namespace LNK_VBARCFG
/-- R310. -/
abbrev VID : Fld := ⟨.LNK_VBARCFG, 28, 26⟩
/-- R310. -/
abbrev ENABLE : Fld := ⟨.LNK_VBARCFG, 25, 25⟩
/-- R310. -/
abbrev ROOT : Fld := ⟨.LNK_VBARCFG, 24, 24⟩
/-- R310. -/
abbrev CHILDREN : Fld := ⟨.LNK_VBARCFG, 23, 16⟩
/-- R310. -/
abbrev PARENT : Fld := ⟨.LNK_VBARCFG, 15, 0⟩
end LNK_VBARCFG

namespace LNK_VBARST
/-- R310. -/
abbrev GEN : Fld := ⟨.LNK_VBARST, 31, 16⟩
/-- R310. -/
abbrev UPS : Fld := ⟨.LNK_VBARST, 15, 8⟩
/-- R310. -/
abbrev LOCAL : Fld := ⟨.LNK_VBARST, 0, 0⟩
end LNK_VBARST

namespace LNK_RTE
/-- R310. -/
abbrev VALID : Fld := ⟨.LNK_RTE, 31, 31⟩
/-- R310. -/
abbrev ALTV : Fld := ⟨.LNK_RTE, 29, 29⟩
/-- R310. -/
abbrev ALT : Fld := ⟨.LNK_RTE, 12, 8⟩
/-- R310. -/
abbrev PORT : Fld := ⟨.LNK_RTE, 4, 0⟩
end LNK_RTE

namespace TCK_NOW
/-- R312. -/
abbrev TICKS : Fld := ⟨.TCK_NOW, 63, 0⟩
end TCK_NOW

namespace TCK_CTL
/-- R312. -/
abbrev ROLE : Fld := ⟨.TCK_CTL, 31, 30⟩
/-- R312. -/
abbrev PARENT : Fld := ⟨.TCK_CTL, 28, 24⟩
/-- R312. -/
abbrev CHILD : Fld := ⟨.TCK_CTL, 23, 0⟩
end TCK_CTL

namespace TCK_PERIOD
/-- R312. -/
abbrev TICKS : Fld := ⟨.TCK_PERIOD, 15, 0⟩
end TCK_PERIOD

namespace TCK_STAT
/-- R312. -/
abbrev LOCKED : Fld := ⟨.TCK_STAT, 31, 31⟩
/-- R312. -/
abbrev ERR : Fld := ⟨.TCK_STAT, 15, 0⟩
end TCK_STAT

namespace TCK_UNLOCKS
/-- R312. -/
abbrev COUNT : Fld := ⟨.TCK_UNLOCKS, 31, 0⟩
end TCK_UNLOCKS

namespace TCK_LAT
/-- R312. -/
abbrev LAT : Fld := ⟨.TCK_LAT, 23, 0⟩
end TCK_LAT

namespace HUB_RED_TABLE
/-- R337. -/
abbrev ADDR : Fld := ⟨.HUB_RED_TABLE, 47, 16⟩
end HUB_RED_TABLE

namespace HUB_RED_STAT
/-- R337. -/
abbrev GATHER_PEND : Fld := ⟨.HUB_RED_STAT, 31, 16⟩
/-- R337. -/
abbrev INFLIGHT : Fld := ⟨.HUB_RED_STAT, 12, 0⟩
end HUB_RED_STAT

namespace LNK_RED_TMO
/-- R338. -/
abbrev TICKS : Fld := ⟨.LNK_RED_TMO, 31, 0⟩
end LNK_RED_TMO

namespace LNK_RED_STAT
/-- R338. -/
abbrev ACTIVE : Fld := ⟨.LNK_RED_STAT, 12, 0⟩
end LNK_RED_STAT

namespace LNK_RED_EVT
/-- R338. -/
abbrev FAULT : Fld := ⟨.LNK_RED_EVT, 5, 5⟩
/-- R338. -/
abbrev GATHER_FAIL : Fld := ⟨.LNK_RED_EVT, 4, 4⟩
/-- R338. -/
abbrev DIGEST : Fld := ⟨.LNK_RED_EVT, 3, 3⟩
/-- R338. -/
abbrev BF16 : Fld := ⟨.LNK_RED_EVT, 2, 2⟩
/-- R338. -/
abbrev MISS : Fld := ⟨.LNK_RED_EVT, 1, 1⟩
/-- R338. -/
abbrev NONFINITE : Fld := ⟨.LNK_RED_EVT, 0, 0⟩
end LNK_RED_EVT

namespace LNK_RED_RERUNS
/-- R338. -/
abbrev COUNT : Fld := ⟨.LNK_RED_RERUNS, 31, 0⟩
end LNK_RED_RERUNS

namespace LNK_RED_BF16CNT
/-- R338. -/
abbrev COUNT : Fld := ⟨.LNK_RED_BF16CNT, 31, 0⟩
end LNK_RED_BF16CNT

namespace LNK_RED_DIGBAD
/-- R338. -/
abbrev COUNT : Fld := ⟨.LNK_RED_DIGBAD, 31, 0⟩
end LNK_RED_DIGBAD

namespace LNK_RED_CLOSED
/-- R338. -/
abbrev COUNT : Fld := ⟨.LNK_RED_CLOSED, 63, 0⟩
end LNK_RED_CLOSED

namespace LNK_RED_ELEMS
/-- R338. -/
abbrev COUNT : Fld := ⟨.LNK_RED_ELEMS, 63, 0⟩
end LNK_RED_ELEMS

namespace CRN_CTL
/-- R376. -/
abbrev LENIENT : Fld := ⟨.CRN_CTL, 31, 31⟩
/-- R376. -/
abbrev CKPT_EVERY : Fld := ⟨.CRN_CTL, 15, 0⟩
end CRN_CTL

namespace CRN_STAT
/-- R376. -/
abbrev STATE : Fld := ⟨.CRN_STAT, 31, 28⟩
/-- R376. -/
abbrev MIRROR_OVER : Fld := ⟨.CRN_STAT, 27, 27⟩
/-- R376. -/
abbrev MIR_KIB : Fld := ⟨.CRN_STAT, 16, 0⟩
end CRN_STAT

namespace CRN_EPOCH
/-- R376. -/
abbrev EPOCH : Fld := ⟨.CRN_EPOCH, 63, 0⟩
end CRN_EPOCH

namespace CRN_ARRIVED
/-- R376. -/
abbrev STEP : Fld := ⟨.CRN_ARRIVED, 63, 0⟩
end CRN_ARRIVED

namespace CRN_CMD
/-- R376. -/
abbrev CMD : Fld := ⟨.CRN_CMD, 3, 0⟩
end CRN_CMD

namespace CRN_EVT
/-- R376. -/
abbrev RESTORE_BAD : Fld := ⟨.CRN_EVT, 7, 7⟩
/-- R376. -/
abbrev SKEW : Fld := ⟨.CRN_EVT, 6, 6⟩
/-- R376. -/
abbrev CKPT_ABORT : Fld := ⟨.CRN_EVT, 5, 5⟩
/-- R376. -/
abbrev CKPT_SKIP : Fld := ⟨.CRN_EVT, 4, 4⟩
/-- R376. -/
abbrev MIRROR_FAIL : Fld := ⟨.CRN_EVT, 3, 3⟩
/-- R376. -/
abbrev COMMIT_TIMEOUT : Fld := ⟨.CRN_EVT, 2, 2⟩
/-- R376. -/
abbrev PT_REJECT : Fld := ⟨.CRN_EVT, 1, 1⟩
/-- R376. -/
abbrev CMD_REJECT : Fld := ⟨.CRN_EVT, 0, 0⟩
end CRN_EVT

namespace CRN_ARG
/-- R376. -/
abbrev ARG : Fld := ⟨.CRN_ARG, 63, 0⟩
end CRN_ARG

namespace CRN_PT
/-- R376. -/
abbrev ENTRIES : Fld := ⟨.CRN_PT, 63, 48⟩
/-- R376. -/
abbrev ADDR : Fld := ⟨.CRN_PT, 47, 6⟩
end CRN_PT

namespace CRN_CKAREA
/-- R376. -/
abbrev ADDR : Fld := ⟨.CRN_CKAREA, 47, 16⟩
end CRN_CKAREA

namespace CRN_CKSIZE
/-- R376. -/
abbrev MIB : Fld := ⟨.CRN_CKSIZE, 19, 0⟩
end CRN_CKSIZE

namespace CRN_CKSTAT
/-- R376. -/
abbrev STAGE : Fld := ⟨.CRN_CKSTAT, 31, 29⟩
/-- R376. -/
abbrev DRAINED : Fld := ⟨.CRN_CKSTAT, 28, 28⟩
/-- R376. -/
abbrev CHUNKS : Fld := ⟨.CRN_CKSTAT, 27, 0⟩
end CRN_CKSTAT

namespace CRN_CKEPOCH
/-- R376. -/
abbrev EPOCH : Fld := ⟨.CRN_CKEPOCH, 63, 0⟩
end CRN_CKEPOCH

namespace CRN_MIRAREA
/-- R376. -/
abbrev ADDR : Fld := ⟨.CRN_MIRAREA, 47, 20⟩
end CRN_MIRAREA

namespace CRN_BUDDY
/-- R376. -/
abbrev VALID : Fld := ⟨.CRN_BUDDY, 16, 16⟩
/-- R376. -/
abbrev STATION : Fld := ⟨.CRN_BUDDY, 15, 0⟩
end CRN_BUDDY

namespace CRN_MIRSTAT
/-- R376. -/
abbrev SEND : Fld := ⟨.CRN_MIRSTAT, 31, 30⟩
end CRN_MIRSTAT

namespace CRN_BUDDYADDR
/-- R376. -/
abbrev ADDR : Fld := ⟨.CRN_BUDDYADDR, 47, 20⟩
end CRN_BUDDYADDR

namespace CRN_DSTR
/-- R376. -/
abbrev ADDR : Fld := ⟨.CRN_DSTR, 47, 10⟩
end CRN_DSTR

namespace CRN_RNG
/-- R376. -/
abbrev ADDR : Fld := ⟨.CRN_RNG, 47, 10⟩
end CRN_RNG

namespace CRN_COMMIT_TMO
/-- R376. -/
abbrev TICKS : Fld := ⟨.CRN_COMMIT_TMO, 31, 0⟩
end CRN_COMMIT_TMO

namespace CRN_REST
/-- R376. -/
abbrev RESULT : Fld := ⟨.CRN_REST, 31, 28⟩
/-- R376. -/
abbrev INDEX : Fld := ⟨.CRN_REST, 27, 0⟩
end CRN_REST

namespace CRN_JOB
/-- R376. -/
abbrev JOB : Fld := ⟨.CRN_JOB, 63, 0⟩
end CRN_JOB

namespace PWR_CAP
/-- R406. -/
abbrev PEAK : Fld := ⟨.PWR_CAP, 31, 24⟩
/-- R406. -/
abbrev WINDOW : Fld := ⟨.PWR_CAP, 23, 14⟩
/-- R406. -/
abbrev CAP : Fld := ⟨.PWR_CAP, 10, 0⟩
end PWR_CAP

namespace PWR_GOV_STAT
/-- R406. -/
abbrev DIV : Fld := ⟨.PWR_GOV_STAT, 31, 29⟩
/-- R406. -/
abbrev SKIP : Fld := ⟨.PWR_GOV_STAT, 28, 26⟩
/-- R406. -/
abbrev PENDING : Fld := ⟨.PWR_GOV_STAT, 25, 25⟩
/-- R406. -/
abbrev THROTTLE : Fld := ⟨.PWR_GOV_STAT, 24, 24⟩
/-- R406. -/
abbrev CAP_UNMET : Fld := ⟨.PWR_GOV_STAT, 23, 23⟩
/-- R406. -/
abbrev P_LAST : Fld := ⟨.PWR_GOV_STAT, 10, 0⟩
end PWR_GOV_STAT

namespace PWR_VCFG
/-- R406. -/
abbrev MARGIN : Fld := ⟨.PWR_VCFG, 5, 0⟩
end PWR_VCFG

namespace PWR_DROOP_CFG
/-- R406. -/
abbrev HOLD : Fld := ⟨.PWR_DROOP_CFG, 31, 16⟩
/-- R406. -/
abbrev THRESH : Fld := ⟨.PWR_DROOP_CFG, 5, 0⟩
end PWR_DROOP_CFG

namespace PWR_DROOP_CNT
/-- R406. -/
abbrev COUNT : Fld := ⟨.PWR_DROOP_CNT, 31, 0⟩
end PWR_DROOP_CNT

namespace PWR_TOK_STAT
/-- R406. -/
abbrev QUEUED : Fld := ⟨.PWR_TOK_STAT, 23, 16⟩
/-- R406. -/
abbrev TOKENS : Fld := ⟨.PWR_TOK_STAT, 6, 0⟩
end PWR_TOK_STAT

namespace PWR_TOK_GRANT
/-- R406. -/
abbrev COUNT : Fld := ⟨.PWR_TOK_GRANT, 63, 0⟩
end PWR_TOK_GRANT

namespace PWR_TOK_REFILL
/-- R406. -/
abbrev COUNT : Fld := ⟨.PWR_TOK_REFILL, 63, 0⟩
end PWR_TOK_REFILL

namespace PWR_BAR_OFFSET
/-- R406. -/
abbrev TICKS : Fld := ⟨.PWR_BAR_OFFSET, 7, 0⟩
end PWR_BAR_OFFSET

namespace PWR_DOM_CMD
/-- R406. -/
abbrev OP : Fld := ⟨.PWR_DOM_CMD, 63, 62⟩
/-- R406. -/
abbrev CLUSTERS : Fld := ⟨.PWR_DOM_CMD, 31, 0⟩
end PWR_DOM_CMD

namespace PWR_DOM_STAT
/-- R406. -/
abbrev STATE : Fld := ⟨.PWR_DOM_STAT, 63, 0⟩
end PWR_DOM_STAT

namespace PWR_EVT
/-- R406. -/
abbrev GATE_REJECT : Fld := ⟨.PWR_EVT, 7, 7⟩
/-- R406. -/
abbrev RESTART_REJECT : Fld := ⟨.PWR_EVT, 6, 6⟩
/-- R406. -/
abbrev COOL_STOP : Fld := ⟨.PWR_EVT, 5, 5⟩
/-- R406. -/
abbrev THERM_STOP : Fld := ⟨.PWR_EVT, 4, 4⟩
/-- R406. -/
abbrev THROTTLE : Fld := ⟨.PWR_EVT, 3, 3⟩
/-- R406. -/
abbrev DROOP_WAIT : Fld := ⟨.PWR_EVT, 2, 2⟩
/-- R406. -/
abbrev CAP_UNMET : Fld := ⟨.PWR_EVT, 1, 1⟩
/-- R406. -/
abbrev DROOP : Fld := ⟨.PWR_EVT, 0, 0⟩
end PWR_EVT

namespace PWR_RESTART
/-- R406. -/
abbrev KEY : Fld := ⟨.PWR_RESTART, 15, 0⟩
end PWR_RESTART

namespace PWR_THERM
/-- R406. -/
abbrev SOURCE : Fld := ⟨.PWR_THERM, 31, 16⟩
/-- R406. -/
abbrev TJ : Fld := ⟨.PWR_THERM, 9, 0⟩
end PWR_THERM

namespace PWR_STOP_STAT
/-- R406. -/
abbrev STOPPED : Fld := ⟨.PWR_STOP_STAT, 31, 31⟩
/-- R406. -/
abbrev CAUSE : Fld := ⟨.PWR_STOP_STAT, 30, 29⟩
/-- R406. -/
abbrev COOL_OK : Fld := ⟨.PWR_STOP_STAT, 28, 28⟩
/-- R406. -/
abbrev OK_TICKS : Fld := ⟨.PWR_STOP_STAT, 27, 0⟩
end PWR_STOP_STAT

namespace PWR_IDLE
/-- R406. -/
abbrev WATTS : Fld := ⟨.PWR_IDLE, 10, 0⟩
end PWR_IDLE

namespace PWR_VF
/-- R406. -/
abbrev MV : Fld := ⟨.PWR_VF, 15, 0⟩
end PWR_VF

namespace PWR_DOM
/-- R406. -/
abbrev UJ : Fld := ⟨.PWR_DOM, 63, 0⟩
end PWR_DOM

namespace PWR_MEM
/-- R406. -/
abbrev UJ : Fld := ⟨.PWR_MEM, 63, 0⟩
end PWR_MEM

namespace PWR_SAMP
/-- R406. -/
abbrev MV : Fld := ⟨.PWR_SAMP, 31, 16⟩
/-- R406. -/
abbrev MA : Fld := ⟨.PWR_SAMP, 15, 0⟩
end PWR_SAMP

namespace PWR_ACCT_CORE
/-- R406. -/
abbrev UJ : Fld := ⟨.PWR_ACCT_CORE, 63, 0⟩
end PWR_ACCT_CORE

namespace PWR_ACCT_DMA
/-- R406. -/
abbrev UJ : Fld := ⟨.PWR_ACCT_DMA, 63, 0⟩
end PWR_ACCT_DMA

namespace PWR_ACCT_LINK
/-- R406. -/
abbrev UJ : Fld := ⟨.PWR_ACCT_LINK, 63, 0⟩
end PWR_ACCT_LINK

namespace PWR_ACCT_RED
/-- R406. -/
abbrev UJ : Fld := ⟨.PWR_ACCT_RED, 63, 0⟩
end PWR_ACCT_RED

namespace PWR_ACCT_UPD
/-- R406. -/
abbrev UJ : Fld := ⟨.PWR_ACCT_UPD, 63, 0⟩
end PWR_ACCT_UPD

namespace PWR_POOL
/-- R406. -/
abbrev UJ : Fld := ⟨.PWR_POOL, 63, 0⟩
end PWR_POOL

namespace PWR_TOTAL
/-- R406. -/
abbrev UJ : Fld := ⟨.PWR_TOTAL, 63, 0⟩
end PWR_TOTAL

namespace PWR_IN
/-- R406. -/
abbrev UJ : Fld := ⟨.PWR_IN, 63, 0⟩
end PWR_IN

namespace PWR_EREP_ADDR
/-- R406. -/
abbrev ADDR : Fld := ⟨.PWR_EREP_ADDR, 47, 7⟩
end PWR_EREP_ADDR

namespace MBX_PUT
/-- R428. -/
abbrev NOTICE : Fld := ⟨.MBX_PUT, 63, 0⟩
end MBX_PUT

namespace MBX_DATA
/-- R428. -/
abbrev NOTICE : Fld := ⟨.MBX_DATA, 63, 0⟩
end MBX_DATA

namespace MBX_PEEK
/-- R428. -/
abbrev NOTICE : Fld := ⟨.MBX_PEEK, 63, 0⟩
end MBX_PEEK

namespace MBX_STAT
/-- R428. -/
abbrev FULL : Fld := ⟨.MBX_STAT, 31, 31⟩
/-- R428. -/
abbrev CLOSED : Fld := ⟨.MBX_STAT, 30, 30⟩
/-- R428. -/
abbrev SSTAT : Fld := ⟨.MBX_STAT, 29, 28⟩
/-- R428. -/
abbrev SEQ : Fld := ⟨.MBX_STAT, 23, 16⟩
/-- R428. -/
abbrev SKIND : Fld := ⟨.MBX_STAT, 15, 14⟩
/-- R428. -/
abbrev SENDER : Fld := ⟨.MBX_STAT, 13, 0⟩
end MBX_STAT

namespace MBX_EVT
/-- R428. -/
abbrev CRC : Fld := ⟨.MBX_EVT, 4, 4⟩
/-- R428. -/
abbrev PORT_DOWN : Fld := ⟨.MBX_EVT, 3, 3⟩
/-- R428. -/
abbrev VER_FAIL : Fld := ⟨.MBX_EVT, 2, 2⟩
/-- R428. -/
abbrev ABORT : Fld := ⟨.MBX_EVT, 1, 1⟩
/-- R428. -/
abbrev LOST : Fld := ⟨.MBX_EVT, 0, 0⟩
end MBX_EVT

namespace MBX_LOST
/-- R428. -/
abbrev COUNT : Fld := ⟨.MBX_LOST, 31, 0⟩
end MBX_LOST

namespace MBX_QCNT
/-- R428. -/
abbrev QUEUED : Fld := ⟨.MBX_QCNT, 8, 0⟩
end MBX_QCNT

namespace MBX_MER_CFG
/-- R428. -/
abbrev VERMAX : Fld := ⟨.MBX_MER_CFG, 31, 28⟩
/-- R428. -/
abbrev EVSESS : Fld := ⟨.MBX_MER_CFG, 27, 24⟩
/-- R428. -/
abbrev ACK_TMO : Fld := ⟨.MBX_MER_CFG, 23, 0⟩
end MBX_MER_CFG

namespace MBX_MER_STAT
/-- R428. -/
abbrev STATE : Fld := ⟨.MBX_MER_STAT, 31, 29⟩
/-- R428. -/
abbrev VERSION : Fld := ⟨.MBX_MER_STAT, 28, 25⟩
/-- R428. -/
abbrev PEER_VERMAX : Fld := ⟨.MBX_MER_STAT, 23, 20⟩
/-- R428. -/
abbrev PEER_VERMIN : Fld := ⟨.MBX_MER_STAT, 19, 16⟩
end MBX_MER_STAT

namespace MBX_MER_TXFR
/-- R428. -/
abbrev COUNT : Fld := ⟨.MBX_MER_TXFR, 63, 0⟩
end MBX_MER_TXFR

namespace MBX_MER_RXFR
/-- R428. -/
abbrev COUNT : Fld := ⟨.MBX_MER_RXFR, 63, 0⟩
end MBX_MER_RXFR

namespace MBX_MER_CRCERR
/-- R428. -/
abbrev COUNT : Fld := ⟨.MBX_MER_CRCERR, 31, 0⟩
end MBX_MER_CRCERR

namespace MBX_MER_RESEND
/-- R428. -/
abbrev COUNT : Fld := ⟨.MBX_MER_RESEND, 31, 0⟩
end MBX_MER_RESEND

namespace MBX_MER_MBXTMO
/-- R428. -/
abbrev TICKS : Fld := ⟨.MBX_MER_MBXTMO, 31, 0⟩
end MBX_MER_MBXTMO

namespace MBX_SESS_STAT
/-- R428. -/
abbrev OPEN : Fld := ⟨.MBX_SESS_STAT, 31, 31⟩
/-- R428. -/
abbrev TXCRED : Fld := ⟨.MBX_SESS_STAT, 30, 23⟩
/-- R428. -/
abbrev RXFREE : Fld := ⟨.MBX_SESS_STAT, 22, 19⟩
end MBX_SESS_STAT

namespace MBX_SESS_TAG
/-- R428. -/
abbrev TAG : Fld := ⟨.MBX_SESS_TAG, 31, 0⟩
end MBX_SESS_TAG

namespace MBX_DB_RING
/-- R428. -/
abbrev RING : Fld := ⟨.MBX_DB_RING, 63, 2⟩
end MBX_DB_RING

namespace MBX_DB_PEND
/-- R428. -/
abbrev PEND : Fld := ⟨.MBX_DB_PEND, 63, 0⟩
end MBX_DB_PEND

namespace HUB_BOOT_STAT
/-- R454. -/
abbrev READY : Fld := ⟨.HUB_BOOT_STAT, 31, 31⟩
/-- R454. -/
abbrev HELD : Fld := ⟨.HUB_BOOT_STAT, 30, 30⟩
/-- R454. -/
abbrev STOPPED : Fld := ⟨.HUB_BOOT_STAT, 29, 29⟩
/-- R454. -/
abbrev MERIDIAN : Fld := ⟨.HUB_BOOT_STAT, 28, 28⟩
/-- R454. -/
abbrev SLOT : Fld := ⟨.HUB_BOOT_STAT, 27, 27⟩
/-- R454. -/
abbrev TRIAL : Fld := ⟨.HUB_BOOT_STAT, 26, 26⟩
/-- R454. -/
abbrev LAST_RESET : Fld := ⟨.HUB_BOOT_STAT, 25, 24⟩
/-- R454. -/
abbrev RESET_REJ : Fld := ⟨.HUB_BOOT_STAT, 23, 23⟩
/-- R454. -/
abbrev PHASE : Fld := ⟨.HUB_BOOT_STAT, 19, 16⟩
/-- R454. -/
abbrev WARMS : Fld := ⟨.HUB_BOOT_STAT, 15, 0⟩
end HUB_BOOT_STAT

namespace HUB_BOOT_TIME
/-- R454. -/
abbrev TICKS : Fld := ⟨.HUB_BOOT_TIME, 63, 0⟩
end HUB_BOOT_TIME

namespace HUB_RESET
/-- R454. -/
abbrev KEY : Fld := ⟨.HUB_RESET, 31, 16⟩
/-- R454. -/
abbrev KIND : Fld := ⟨.HUB_RESET, 1, 0⟩
end HUB_RESET

namespace HUB_FW_STAT
/-- R454. -/
abbrev STATE : Fld := ⟨.HUB_FW_STAT, 31, 29⟩
/-- R454. -/
abbrev CAUSE : Fld := ⟨.HUB_FW_STAT, 28, 24⟩
/-- R454. -/
abbrev ACTIVE : Fld := ⟨.HUB_FW_STAT, 23, 23⟩
/-- R454. -/
abbrev PEND_V : Fld := ⟨.HUB_FW_STAT, 22, 22⟩
/-- R454. -/
abbrev PENDING : Fld := ⟨.HUB_FW_STAT, 21, 21⟩
end HUB_FW_STAT

namespace HUB_FW_CMD
/-- R454. -/
abbrev CMD : Fld := ⟨.HUB_FW_CMD, 2, 0⟩
end HUB_FW_CMD

namespace HUB_FW_SRC
/-- R454. -/
abbrev ADDR : Fld := ⟨.HUB_FW_SRC, 47, 6⟩
end HUB_FW_SRC

namespace HUB_FW_LEN
/-- R454. -/
abbrev BYTES : Fld := ⟨.HUB_FW_LEN, 23, 0⟩
end HUB_FW_LEN

namespace HUB_FW_VER
/-- R454. -/
abbrev VERSION : Fld := ⟨.HUB_FW_VER, 31, 0⟩
end HUB_FW_VER

namespace HUB_FW_SVN
/-- R454. -/
abbrev FLOOR : Fld := ⟨.HUB_FW_SVN, 31, 16⟩
/-- R454. -/
abbrev SVN : Fld := ⟨.HUB_FW_SVN, 15, 0⟩
end HUB_FW_SVN

namespace HUB_MEAS
/-- R454. -/
abbrev BYTES : Fld := ⟨.HUB_MEAS, 63, 0⟩
end HUB_MEAS

namespace HUB_CLK_STAT
/-- R461. -/
abbrev ROOT_LOCK : Fld := ⟨.HUB_CLK_STAT, 31, 31⟩
/-- R461. -/
abbrev REFCLK_OK : Fld := ⟨.HUB_CLK_STAT, 30, 30⟩
/-- R461. -/
abbrev OE_LOCK : Fld := ⟨.HUB_CLK_STAT, 29, 29⟩
/-- R461. -/
abbrev PORT_LOCK : Fld := ⟨.HUB_CLK_STAT, 23, 0⟩
end HUB_CLK_STAT

namespace HUB_ALERT
/-- R497. -/
abbrev CONSERVE : Fld := ⟨.HUB_ALERT, 7, 7⟩
/-- R497. -/
abbrev FROZEN : Fld := ⟨.HUB_ALERT, 6, 6⟩
/-- R497. -/
abbrev STOP : Fld := ⟨.HUB_ALERT, 5, 5⟩
/-- R497. -/
abbrev BOOT_STOP : Fld := ⟨.HUB_ALERT, 4, 4⟩
/-- R497. -/
abbrev RECORD_BAD : Fld := ⟨.HUB_ALERT, 3, 3⟩
/-- R497. -/
abbrev HUB_SPARES : Fld := ⟨.HUB_ALERT, 2, 2⟩
/-- R497. -/
abbrev SELFTEST_HUB : Fld := ⟨.HUB_ALERT, 1, 1⟩
/-- R497. -/
abbrev CORE_HELD : Fld := ⟨.HUB_ALERT, 0, 0⟩
end HUB_ALERT

end F

end Sys2Proof.Machine
end

