-- ==== Sys2Proof/Machine/State.lean ====
section
/-! DEFINITION. The state of the P40 as plain data. Registers of the register maps live in State.regs, at their device
addresses, and nowhere else; memory bytes live in State.mem; what the spec keeps outside the register maps has a field of
its own. Maps from numbers are lists with rising keys that do not list an entry equal to what an unlisted key reads as. -/

namespace Sys2Proof.Machine

/-- The tensor operations of R164, as they wait or run in a unit. -/
inductive TOp where
  | ldt | ldtTr | stt | dma
  | mma (b a : Fmt) (bx ax : Bool)
  | drainRaw | drainAct | drainGate | drainDact | drainDgate
  | qzBlk | qzSheet
  | rowfwdNorm | rowfwdSmax | rowfwdSmerge | rowbwdNorm | rowbwdSmax
  | vEw | vRed | vGather | vScatter
  | rsendB8 | rsendBf16 | rrecv
  deriving DecidableEq, Repr

/-- An accumulator slot as the operation that names it found it at issue: slot number, base row, rows M, compensated mode, the
latched scale pair (R81, R200). -/
structure SlotUse where
  slot : Nat
  base : Nat
  rows : Nat
  comp : Bool
  sA : BitVec 32
  sB : BitVec 32
  deriving DecidableEq, Repr

/-- A tensor operation in flight (R164, R165): the copies it took at issue (R170, R199) and how far it has come. -/
structure OpRec where
  id : Nat
  st : Stream
  pc : Nat
  layer : Nat
  op : TOp
  f : BitVec 52
  descs : List (BitVec 512)
  words : List Word
  slots : List SlotUse
  accInf : Bool
  begun : Bool
  asked : Bool
  sent : Bool
  deriving DecidableEq, Repr

/-- Which fence a stream waits for, and what follows it (R176, R182). -/
inductive FenceKind where
  | s | c | g
  | thenArrive (b : Nat)
  | thenBar (b : Nat)
  deriving DecidableEq, Repr

/-- Why a stream does not issue (R173, R176, R182, R207, R264). -/
inductive Block where
  | wait (k v : Nat)
  | fence (kind : FenceKind)
  | barWait (b gen : Nat)
  | put (notice : Word)
  | loadFault
  deriving DecidableEq, Repr

/-- A scalar or descriptor load whose data has not returned (R198): register, address, bytes, and whether a descriptor
register is loaded. -/
structure LoadRec where
  reg : Nat
  addr : Nat
  bytes : Nat
  desc : Bool
  deriving DecidableEq, Repr

/-- One instruction stream (R163, R167). running: between run start and the stop of R190 or R185. since: the tick in which the
present blocking instruction began (R180), limit: the limit then in force, in ticks. lastCycle: the other stream has trapped, and the instruction
of that cycle may still issue or time out (R185, R193). pcHigh: bits 63:48 of the program counter as the entry table gave it, which the register
does not show (R187, R500). -/
structure StreamState where
  sreg : List (Nat × Word)
  areg : List (Nat × Word)
  preg : List (Nat × Bool)
  running : Bool
  ended : Bool
  lastCycle : Bool
  pcHigh : Nat
  block : Option Block
  since : Nat
  limit : Nat
  stalled : Option (TOp × Issue)
  load : Option LoadRec
  deriving DecidableEq, Repr

/-- An accumulator slot (R81, R84, R96). promoted: runs promoted since the slot was opened. -/
structure Slot where
  isOpen : Bool
  base : Nat
  rows : Nat
  comp : Bool
  sA : BitVec 32
  sB : BitVec 32
  runs : BitVec 11
  promoted : Nat
  poison : Bool
  deriving DecidableEq, Repr

/-- A weight tile in a broadcast queue (R240, R241): element codes column by column, scale bytes, side values, and the address of the first
word that was delivered poisoned. -/
structure Tile where
  codes : List Nat
  scales : List Nat
  side : List Nat
  poison : Option Nat
  deriving DecidableEq, Repr

/-- A live stash tag (R152 to R154): bytes of the footprint, granules held, whether it lies in spill, side-memory records in row order, how many
records lie behind the tensor instead (R148), and its pieces in the order of the footprint, first address and bytes (R151). -/
structure StashEntry where
  foot : Nat
  gran : Nat
  spill : Bool
  recs : List Nat
  spilled : Nat
  place : List (Nat × Nat)
  deriving DecidableEq, Repr

/-- A cluster: everything that R18, R167 and chapters 03, 05, 06 and 08 give it outside the register maps. Accumulator entries
are keyed (e · 1024 + row) · 256 + column, slots 16 · e + slot; accSyn: syndromes of the accumulator words of two entries (R80, R257) that are
not clean, by half the key of the first entry; fences: times that its writes became visible to others by a fence.g or an arrival; seen: those
counts of other clusters as far as this one is ordered after them (R179); ramp: what is left of the start ramp (R71), by engine, in rampUnit parts of a CORECLK cycle. -/
structure Cluster where
  F : StreamState
  B : StreamState
  td : List (Nat × BitVec 512)
  inflight : List OpRec
  nextId : Nat
  slots : List (Nat × Slot)
  acc : List (Nat × BitVec 32)
  accSyn : List (Nat × Byte)
  tiles : List (Nat × List Tile)
  side : List (Nat × CodeWord)
  stash : List (Nat × StashEntry)
  ilv : List (BitVec 16)
  lastRow : List (Nat × Nat)
  ramp : List (Nat × Nat)
  barLast : List (Nat × Nat)
  fences : Nat
  seen : List (Nat × Nat)
  stashLimit : Nat
  noticeSeq : Nat
  notices : List Word
  bells : List (Nat × Nat)
  droopHold : Option Nat
  deriving DecidableEq, Repr

/-- A byte that a cluster wrote and that other clusters need not see yet (R179): the writer, its count of fence.g and arrivals at the write, and
the byte as they may still see it. -/
structure Unseen where
  writer : Nat
  fence : Nat
  old : Byte
  deriving DecidableEq, Repr

/-- A loaded program image: the header fields of R187 and what HC1 records (R188). -/
structure Image where
  digest : List Byte
  layers : Nat
  alt : Bool
  stations : Nat
  barriers : BitVec 64
  codeBase : Nat
  codeSize : Nat
  entry : Nat
  barPart : Nat
  clusters : List Nat
  deriving DecidableEq, Repr

/-- How far a bucket has come on this station (11 R314 to R331). -/
inductive BucketPhase where
  | pre | scatter | lap | closed | faulted
  deriving DecidableEq, Repr

/-- A bucket in flight (chapter 11), keyed by its tag. run: run of the bucket in the step; bf16: the wire now; digUsed, scaleRuns: re-runs
used (R329); send: the descriptor of its rsend, sendCl and sendOp that operation; working: S[b]; agreed: the pre-agreed bytes (R323);
incoming: words of the hop stream received, by shard and word; in16: their form; outgoing, sums: bytes sent and values kept, by block;
badElems: elements kept that bad words went into; mmax: m[b]; nf, miss, short: R321; hop: the trailer's SENT; downMax:
combined m[b]; status: the final status word (R328). -/
structure Bucket where
  run : Nat
  bf16 : Bool
  digUsed : Bool
  scaleRuns : Nat
  phase : BucketPhase
  since : Nat
  send : BitVec 512
  sendCl : Nat
  sendOp : Nat
  working : List (Nat × Nat)
  agreed : List (Nat × Nat)
  incoming : List (Nat × CodeWord)
  in16 : Bool
  outgoing : List (Nat × List Byte)
  sums : List (Nat × List (BitVec 32))
  badElems : List Nat
  mmax : List (Nat × Nat)
  nf : Nat
  miss : Bool
  short : Nat
  hop : Option Word
  digestBad : Bool
  downMax : List (Nat × Nat)
  status : Option Word
  deriving DecidableEq, Repr

/-- An all-gather of one shard on this station (R332, R333), keyed tag · 65536 + shard: whether this station owns the shard, whether it has
sent it, the epoch, the tick it counts from, words received, failure, completion, and whether bytes came before this
station's own flip or boundary. -/
structure Gather where
  sending : Bool
  started : Bool
  epoch : Nat
  since : Nat
  got : List (Nat × Word)
  failed : Bool
  complete : Bool
  early : Bool
  deriving DecidableEq, Repr

/-- A mirror send in progress (12 R354): the buddy, and the tick it began. Its packets are in State.sent. -/
structure MirrorSend where
  dst : Nat
  since : Nat
  deriving DecidableEq, Repr

/-- One partition (R31): the image, the run, the trouble policy, the reduction, Cairn. wanted: a run-start doorbell is due; step: step of the
run; fault: the first word of R265 met; abandoned: the run was abandoned; holdreq: HOLD_NEXT; atVerdict: arrived at the verdict barrier;
combined, verdictReady: the combined verdict; holdCause: as R424 lists; updates, emits: descriptors waiting, by tag; committing: to arrive,
or arrived, at the commit barrier, since commitSince; cleanAnswer: the outcome was CLEAN; ckptAt: epochs that CKPT_AT named; mir, mirBytes:
mirrored entries (R348); restoreEpoch: the epoch of a restore; badEmit: an emit met an invalid descriptor, which faults the next step (R244); epochSet: SET_EPOCH was accepted (R378); loss: L of the run whose table is closed
(R113); arrived: arrived at the commit barrier in this run; ckptOwed: FLIP left items 2 to 5 of R342 to RESUME (R346); answers, commands, flipWaits:
values of HUB_TRB_ANSWER, of CRN_CMD and a flip that wait for HC1 or HC2 to run (R20); latest, copies: bytes of the KIND 1 ranges beyond the
mirror's limit, by entry, at the latest staging or restore, and the checkpoint-side copies (R353). -/
structure Part where
  image : Option Image
  running : Bool
  wanted : Bool
  step : Nat
  fault : Option (Nat × Nat × Nat)
  abandoned : Bool
  holdreq : Bool
  atVerdict : Bool
  combined : List (Nat × Nat)
  verdictReady : Bool
  holdCause : Nat
  rcpAllPosted : Bool
  redTable : Nat
  buckets : List (Nat × Bucket)
  gathers : List (Nat × Gather)
  updates : List (Nat × Nat)
  emits : List (Nat × Nat)
  committing : Bool
  commitSince : Nat
  timeoutSent : Bool
  cleanAnswer : Bool
  mirror : Option MirrorSend
  ckptAt : List Nat
  mir : List Nat
  mirBytes : Nat
  restoreEpoch : Nat
  badEmit : Bool
  epochSet : Bool
  loss : Option (BitVec 32)
  arrived : Bool
  ckptOwed : Bool
  answers : List Nat
  commands : List Nat
  flipWaits : Bool
  latest : List (Nat × List Byte)
  copies : List (Nat × List Byte)
  deriving DecidableEq, Repr

/-- A management core (R19, R26): its last program counter, the ticks of its resets in the last second, its watchdog in ticks, the tick of its
last reset, and a word with its syndrome that it met uncorrectable or poisoned and for which the hub sequencer will reset it (R264). -/
structure Core where
  lastPc : Word
  resets : List Nat
  left : Nat
  since : Nat
  met : Option (Nat × Nat)
  deriving DecidableEq, Repr

/-- A packet in the switch (R299, R300): the input it came from, 24 a local unit, and the VC it holds there; the way that its header got, an output,
24 this station, none no route, and the tick of the header; whether its words have all come; the output by which it is being sent. -/
structure Queued where
  pkt : Packet
  port : Nat
  vc : Nat
  route : Option Nat
  tick : Nat
  whole : Bool
  out : Option Nat
  deriving DecidableEq, Repr

/-- A word that waits for a flit (R293): whether its packet ends with it, and whether that packet is truncated (R300). -/
structure TxWord where
  w : CodeWord
  last : Bool
  abort : Bool
  deriving DecidableEq, Repr

/-- Link layer of a port (R289 to R295): state entry tick, attempts, lanes locked, whether a retrain has trained again, the last
ACTIVE peer, sequence numbers, replay buffer (number, flit, packets that end in it), NAK outstanding, credits held and owed by VC,
the first word of a packet whose second has not come, words that wait for a flit, flits sent in the present tick. -/
structure Port where
  since : Nat
  attempts : Nat
  locked : BitVec 4
  trained : Bool
  peer : Option Nat
  nextSeq : Nat
  replay : List (Nat × Flit × Nat)
  lastIn : Nat
  nakOut : Bool
  credits : List (Nat × Nat)
  owed : List (Nat × Nat)
  partialPkt : List CodeWord
  txWords : List TxWord
  txFlits : Nat
  deriving DecidableEq, Repr

/-- A WRITE packet sent and not acknowledged (R297, R298), by TID. Its owner: kind 0 operation op of cluster who, kind 1 the mirror send of
partition who. Its n bytes go from srcAddr to addr. -/
structure Sent where
  dst : Nat
  since : Nat
  kind : Nat
  who : Nat
  op : Nat
  addr : Nat
  srcAddr : Nat
  n : Nat
  resent : Bool
  deriving DecidableEq, Repr

/-- A barrier generation on this station (R304): clusters or hub arrived, children counted, BAR_UP fragments of children not counted yet (16 times
the station plus the fragment), combined payload, whether BAR_UP went out, release tick Tr, the station's offset when Tr became known (R399),
whether the station left it (R345). -/
structure BarState where
  locals : List Nat
  ups : List Nat
  frags : List Nat
  payload : List (Nat × Nat)
  sentUp : Bool
  release : Option Nat
  offset : Nat
  left : Bool
  deriving DecidableEq, Repr

/-- A request in the wake queue (R397): arrival tick, requester code. -/
structure WakeReq where
  tick : Nat
  code : Nat
  op : Nat
  deriving DecidableEq, Repr

/-- The governor, measurement and wake state outside the register map (chapter 13): residues in pJ (domain j, 50 + e a memory rail, 58 the
input); wake queue; ticks of engine starts granted lately; domains waking with the tick of their grant; PD32 to PD48 that are on; PWR_IN at
past period boundaries, newest first; a pending setting with the tick from which it waits and whether DROOP_WAIT was written; the tick in
which the divisor took effect; the core voltage, moving from vFrom to vTo since vTick, in 0.04 mV; end of the last droop hold and cluster of
the last trip; tick of the last CAP_UNMET entry; margin: the PWR_VCFG.MARGIN that the last change of setting took; throttling ceiling; ticks that COOL_OK has read low; tick of the stop; stop entries to be
written in the next tick; ticks of the last refill, sample and period plus 1, 0 for none. -/
structure Power where
  residue : List (Nat × Nat)
  queue : List WakeReq
  grants : List Nat
  waking : List (Nat × Nat)
  on : List Nat
  hist : List Nat
  pending : Option (Nat × Nat)
  pendSince : Nat
  waitLogged : Bool
  divTick : Nat
  vFrom : Nat
  vTo : Nat
  vTick : Nat
  lastHoldEnd : Option Nat
  lastTrip : Nat
  unmetLogged : Option Nat
  margin : Nat
  ceiling : Option (Nat × Nat)
  coolLow : Nat
  stopTick : Nat
  stopLog : List Nat
  refilled : Nat
  sampled : Nat
  period : Nat
  deriving DecidableEq, Repr

/-- A location-table entry (R266). -/
structure Place where
  kind : Nat
  loc : Nat
  events : Nat
  first : Nat
  last : Nat
  repaired : Bool
  ueWords : List Nat
  permanent : Bool
  deriving DecidableEq, Repr

/-- An entry of a retirement or configuration record (R269). -/
structure RetEntry where
  kind : Nat
  cause : Nat
  loc : Nat
  spare : Nat
  deriving DecidableEq, Repr

/-- A scrubber pass (R271): start by device tick and by TCK_NOW, mode, range, record address. -/
structure Scrub where
  tick : Nat
  start : Nat
  mode : Nat
  addr : Nat
  len : Nat
  rec_ : Nat
  deriving DecidableEq, Repr

/-- Integrity state outside the register map (chapter 09): the location table, oldest first; CE of the last second by array; lane events of late;
places declared and not in a record yet (kind, LOC, cause); entries recorded and not yet in effect; entries of the current record and of
the configuration record; the running scrubber pass; whether no retirement record is current, from an ACCEPT_EMPTY to the next record (R270). -/
structure Integrity where
  places : List Place
  ceHist : List (Nat × Nat)
  laneHist : List (Nat × Nat)
  pending : List (Nat × Nat × Nat)
  recorded : List RetEntry
  entries : List RetEntry
  repairs : List RetEntry
  scrub : Option Scrub
  noRecord : Bool
  deriving DecidableEq, Repr

/-- A line of an edge cache (R237): the segment that it holds, and its last use, as a place in the order of all uses. -/
structure Line where
  seg : Nat
  used : Nat
  deriving DecidableEq, Repr

/-- Events of the present tick in the W1C and RC fields of a register (R12): its value before the first of them, and the bits set or the counts
added since. -/
structure Fresh where
  old : Word
  new : Word
  deriving DecidableEq, Repr

/-- A Field Book entry waiting (R274, R277). -/
structure FbEntry where
  tick : Nat
  source : Nat
  code : Nat
  a0 : Nat
  a1 : Nat
  a2 : Nat
  deriving DecidableEq, Repr

/-- A complete command of a session (R416). -/
structure MerCmd where
  op : Nat
  tag : Nat
  data : List Byte
  deriving DecidableEq, Repr

/-- A Meridian session (R413 to R418): next SEQ, last SEQ accepted, frames sent and not acknowledged, the tick their oldest counts from, frames
that wait for a credit, the command whose last frame has not come, complete commands, whether the first of them has started and when,
whether its response is to be discarded, the last CTRL frame sent. -/
structure Sess where
  nextSeq : Nat
  lastIn : Option Nat
  sent : List (Nat × Frame)
  sentTick : Nat
  outgoing : List Frame
  asm : Option MerCmd
  cmds : List MerCmd
  started : Bool
  since : Nat
  dead : Bool
  ctrl : Option Frame
  deriving DecidableEq, Repr

/-- Start-up, keys and measurement (chapter 15): tick the phase began and tick the start-up began, whether it is a warm one; MEAS; number of the
PUF array's power-up contents, from its reading to the end of IDENTITY; the identity key pair; digests 1 to 7 of R447 and the current retirement record's (8); running
firmware: its slot, code length, code digest, entry points, version and SVN, and the floor in force; whether management firmware runs; reports made (R449); why HELD is set (1 image,
2 RECORD_BAD, 3 coolant); the input monitor's samples below 38 V and above 62 V in a row, the tick from which it has read good, whether the
input switch is closed; the reset that an accepted HUB_RESET begins at the next tick boundary: 0 none, 1 warm, 2 cold (R432). start is below 0 after a cold reset, whose start-up begins before tick 0. -/
structure Boot where
  since : Nat
  start : Int
  warm : Bool
  measure : List Byte
  puf : Option Nat
  pk : List Byte
  sk : List Byte
  digests : List (Nat × List Byte)
  fwSlot : Nat
  fwLen : Nat
  fwDigest : List Byte
  fwEntry : List Nat
  fwVer : Nat
  fwSvn : Nat
  floor : Nat
  fwRuns : Bool
  reports : Nat
  held : Nat
  lowSamples : Nat
  highSamples : Nat
  goodSince : Option Nat
  inputOn : Bool
  due : Nat
  deriving DecidableEq, Repr

/-- Instructions of the test access port (16 R477). -/
inductive TapInstr where
  | bypass | idcode | samplePreload | extest | roAddr | roData
  deriving DecidableEq, Repr

/-- The test access port (16 R477, 17 R489): the instruction in force, the boundary register, the read-out address, the word last shifted out. -/
structure Tap where
  instr : TapInstr
  boundary : List Bool
  addr : Word
  out : Word
  deriving DecidableEq, Repr

/-- SMBus (17 R495): address set, status of the last command, data of the last read. -/
structure Smb where
  addr : Nat
  status : Nat
  out : Word
  deriving DecidableEq, Repr

/-- The freeze (16 R472 to R474): whether the clocks are stopped, the freeze record, whether power was removed since. -/
structure Freeze where
  frozen : Bool
  record : List Byte
  lost : Bool
  deriving DecidableEq, Repr

/-- The P40. -/
structure State where
  /-- Commands that wait, oldest first. -/
  pending : List Instr
  /-- Ticks since cold reset (R8, R462). -/
  tick : Nat
  /-- The MODEL's own counter from which free values are drawn (assumption log 3). -/
  free : Nat
  /-- Registers, by device address, where they differ from their reset values (R227, R10). -/
  regs : List (Nat × Word)
  /-- Events of the present tick in W1C and RC fields, by register address (R12). -/
  fresh : List (Nat × Fresh)
  /-- Values before the present tick of the registers written in it whose writes act from its end (R99, R303). -/
  held : List (Nat × Word)
  /-- Bytes of the stores (R225), by device address, that are not what an unlisted byte reads as. -/
  mem : List Host.Cell
  /-- Bytes that clusters wrote, by address, which other clusters need not see yet (R179). -/
  unseen : List (Nat × Unseen)
  /-- Ranges of LPDDR5X whose contents a channel retirement left undefined, newest first, each with the number of its free values (R234). -/
  lost : List (Nat × Nat × Nat)
  /-- Address tags of LPDDR5X segments, by segment number, that are not the segment's own address with a clean check byte (R231). -/
  tags : List (Nat × CodeWord)
  /-- Lines of the edge caches that hold a segment, by edge die, set and way: (e · 32768 + set) · 16 + way (R237). -/
  lines : List (Nat × Line)
  /-- Bytes of cached words, and syndromes of cached words, that differ from those of LPDDR5X (R237, R238). -/
  lineBytes : List (Nat × Byte)
  lineSyn : List (Nat × Byte)
  /-- Uses of lines so far; lines whose way is disabled (R268). -/
  lineUse : Nat
  waysOff : List Nat
  /-- Syndromes of stored 64-bit words that are not clean, by word address (R253, R254). -/
  syn : List (Nat × Byte)
  /-- Bytes of the module flash that are not 0 (R443, R491). -/
  flash : List Host.Cell
  /-- Clusters, by number (R18). -/
  clusters : List (Nat × Cluster)
  /-- Partitions, by number (R31). -/
  parts : List (Nat × Part)
  /-- Management cores, by number (R19). -/
  cores : List (Nat × Core)
  /-- Ports, by number (R286). -/
  ports : List (Nat × Port)
  /-- Packets in the switch, oldest first (R299, R300). -/
  switch : List Queued
  /-- Input that an output served last, by 3 times the output plus the class (R300). -/
  turns : List (Nat × Nat)
  /-- Packets delivered to this station's units, with the port they came by, 24 a local unit. -/
  arrived : List (Packet × Nat)
  /-- Next transaction number (R296). -/
  nextTid : Nat
  /-- WRITE packets not acknowledged, by TID (R298). -/
  sent : List (Nat × Sent)
  /-- Resend windows of the reduction units, oldest first: TID and packet (R327). -/
  resend : List (Nat × Packet)
  /-- Sources and TIDs of packets answered with E_NAK (R297). -/
  nakSeen : List (Nat × Nat)
  /-- Tick of the last ROUTE_MISS entry of a destination (R299). -/
  routeMiss : List (Nat × Nat)
  /-- Barriers: 0 to 62 by number, the instance of barrier 63 of partition p as 64 + p (R304, R305). -/
  bars : List (Nat × BarState)
  /-- Good TSYNCs in a row, the correction still to slew in 1/64 tick, the tick of the last TSYNC sent (R307). -/
  tickGood : Nat
  tickSlew : Int
  tickSent : Nat
  power : Power
  integ : Integrity
  /-- Field Book entries that wait, in the order of R277. -/
  fb : List FbEntry
  /-- Entries offered; entries written in the present tick, and that tick (R277). -/
  fbOffered : Nat
  fbTick : Nat
  fbDone : Nat
  /-- Addresses of records queued for mailbox 48 + i (R424). -/
  records : List (Nat × List Word)
  /-- Next place in the ring, SEQ of the next notice, by i; records offered and acknowledged. -/
  recPos : List (Nat × Nat)
  recSeq : List (Nat × Nat)
  recOffered : Nat
  recAcked : Nat
  /-- Tick of the Meridian port's state (R411) and of its last HELLO (R415), and that HELLO. -/
  merSince : Nat
  helloTick : Option Nat
  hello : Option Frame
  sess : List (Nat × Sess)
  boot : Boot
  freeze : Freeze
  tap : Tap
  smb : Smb
  /-- TRAY_ID and SLOT_ID as sampled in RAILS (R463). -/
  tray : BitVec 4
  slotId : BitVec 4
  /-- Place in the broadcast list of a partition: entry, repetition, tile along dimension 1 and 0 (R240, R241). -/
  wbePos : List (Nat × (Nat × Nat × Nat × Nat))
  /-- EDG_WBE_LEFT: tiles left in queues at run ends (R241). -/
  wbeLeft : Nat
  deriving DecidableEq, Repr

/-- Why a run of the model stops. The P40's own faults are state, not stops: nothing in the spec stops the block. -/
inductive Fault where
  /-- Raised by no command; the spec has no event after which the block has no next state. Safe. -/
  | unreachable
  deriving DecidableEq, Repr

/-- Why the model has no meaning for a command. -/
inductive Refusal where
  /-- Raised by the dispatch for a row of the opcode table that has no meaning yet. Safe. -/
  | notModelled (mnemonic : String)
  deriving DecidableEq, Repr

def StreamState.reset : StreamState :=
  { sreg := [], areg := [], preg := [], running := false, ended := false, lastCycle := false, pcHigh := 0, block := none, since := 0, limit := 0,
    stalled := none, load := none }

def Slot.reset : Slot :=
  { isOpen := false, base := 0, rows := 0, comp := false, sA := 0, sB := 0, runs := 0, promoted := 0, poison := false }

def Cluster.reset : Cluster :=
  { F := .reset, B := .reset, td := [], inflight := [], nextId := 0, slots := [], acc := [], accSyn := [],
    tiles := [], side := [], stash := [], ilv := [], lastRow := [], ramp := [], barLast := [], fences := 0, seen := [], stashLimit := 114688,
    noticeSeq := 0, notices := [], bells := [], droopHold := none }

def Part.reset : Part :=
  { image := none, running := false, wanted := false, step := 0, fault := none, abandoned := false, holdreq := false,
    atVerdict := false, combined := [], verdictReady := false, holdCause := 0, rcpAllPosted := false, redTable := 0, buckets := [],
    gathers := [], updates := [], emits := [], committing := false, commitSince := 0, timeoutSent := false, cleanAnswer := false,
    mirror := none, ckptAt := [], mir := [], mirBytes := 0, restoreEpoch := 0, badEmit := false, epochSet := false,
    loss := none, arrived := false, ckptOwed := false, answers := [], commands := [], flipWaits := false, latest := [], copies := [] }

/-- The watchdog stands at its default of 100,000 µs (R23, R24). -/
def Core.reset : Core := { lastPc := 0, resets := [], left := 12500000, since := 0, met := none }

/-- No data flit has come: the next is SEQ 0 (R295). -/
def Port.reset : Port :=
  { since := 0, attempts := 0, locked := 0, trained := false, peer := none, nextSeq := 0, replay := [],
    lastIn := 4095, nakOut := false, credits := [], owed := [], partialPkt := [], txWords := [], txFlits := 0 }

def BarState.reset : BarState :=
  { locals := [], ups := [], frags := [], payload := [], sentUp := false, release := none, offset := 0, left := false }

def Sess.reset : Sess :=
  { nextSeq := 0, lastIn := none, sent := [], sentTick := 0, outgoing := [], asm := none, cmds := [], started := false,
    since := 0, dead := false, ctrl := none }

/-- 800 mV: VF of code 6 before the record plus the default margin (R390, R446). -/
def Power.reset : Power :=
  { residue := [], queue := [], grants := [], waking := [], on := [], hist := [], pending := none, pendSince := 0,
    waitLogged := false, divTick := 0, vFrom := 20000, vTo := 20000, vTick := 0, lastHoldEnd := none, lastTrip := 0,
    unmetLogged := none, margin := 40, ceiling := none, coolLow := 0, stopTick := 0, stopLog := [], refilled := 0, sampled := 0, period := 0 }

def Integrity.reset : Integrity :=
  { places := [], ceHist := [], laneHist := [], pending := [], recorded := [], entries := [], repairs := [],
    scrub := none, noRecord := false }

def Boot.reset : Boot :=
  { since := 0, start := 0, warm := false, measure := List.replicate 64 0, puf := none, pk := [], sk := [], digests := [],
    fwSlot := 0, fwLen := 0, fwDigest := [], fwEntry := [], fwVer := 0, fwSvn := 0, floor := 0, fwRuns := false, reports := 0, held := 0, lowSamples := 0,
    highSamples := 0, goodSince := none, inputOn := true, due := 0 }

/-- The machine right after a cold reset, in phase RAILS (R431, R436): registers at their reset values, stores cleared or
unwritten, no domain on. -/
def State.reset : State :=
  { pending := [], tick := 0, free := 0, regs := [], fresh := [], held := [], mem := [], unseen := [], lost := [], tags := [], lines := [],
    lineBytes := [], lineSyn := [], lineUse := 0, waysOff := [], syn := [], flash := [], clusters := [], parts := [],
    cores := [], ports := [], switch := [], turns := [], arrived := [], nextTid := 0, sent := [], resend := [], nakSeen := [], routeMiss := [],
    bars := [], tickGood := 0, tickSlew := 0, tickSent := 0, power := .reset, integ := .reset,
    fb := [], fbOffered := 0, fbTick := 0, fbDone := 0, records := [], recPos := [], recSeq := [], recOffered := 0, recAcked := 0,
    merSince := 0, helloTick := none, hello := none, sess := [], boot := .reset,
    freeze := { frozen := false, record := [], lost := false },
    tap := { instr := .idcode, boundary := [], addr := 0, out := 0 },
    smb := { addr := 0, status := 0, out := 0 }, tray := 0, slotId := 0, wbePos := [], wbeLeft := 0 }

end Sys2Proof.Machine
end

