-- ==== Sys2Proof/Machine/Store.lean ====
section
/-! DEFINITION. Registers and stores: the one home of each register and byte, the word code (R253 to R257), the retry and
correction of a word in error (R262, R263), the CRC. -/

namespace Sys2Proof.Machine

/-! ### Registers -/

/-- Base of instance 0 of a register block (R227). -/
def blockBase : RegBlock → Nat
  | .HUB => 0x7F0000000000
  | .MBX => 0x7F0000010000
  | .FBK => 0x7F0000020000
  | .TCK => 0x7F0000030000
  | .CRN => 0x7F0000040000
  | .PWR => 0x7F0000050000
  | .ECC => 0x7F0000060000
  | .SEQ => 0x7F0001000000
  | .EDG => 0x7F0002000000
  | .LNK => 0x7F0003000000

/-- Distance of consecutive instances of a register block (R227). -/
def blockStride : RegBlock → Nat
  | .SEQ => 0x10000
  | .EDG => 0x100000
  | .LNK => 0x100000
  | _ => 0

/-- Size of a register block (R227). -/
def blockSize : RegBlock → Nat
  | .FBK => 0x1000
  | .TCK => 0x1000
  | .EDG => 0x100000
  | .LNK => 0x100000
  | _ => 0x10000

/-- The device address of a register: index idx of instance inst of its block (R227). -/
def regAddr (r : RegName) (idx inst : Nat) : Nat :=
  let p := regPlace r
  blockBase p.block + inst * blockStride p.block + p.off + idx * p.stride

/-- The value a register holds. -/
def reg (s : State) (r : RegName) (idx : Nat := 0) (inst : Nat := 0) : Word :=
  ngetD (regReset idx r) s.regs (regAddr r idx inst)

/-- Place a value in a register. -/
def setReg (s : State) (r : RegName) (v : Word) (idx : Nat := 0) (inst : Nat := 0) : State :=
  { s with regs := nput (regReset idx r) s.regs (regAddr r idx inst) v }

/-- The value of a field. -/
def fget (s : State) (f : Fld) (idx : Nat := 0) (inst : Nat := 0) : Nat :=
  bitsOf (reg s f.reg idx inst) f.hi f.lo

/-- Whether a one-bit field is 1. -/
def fbit (s : State) (f : Fld) (idx : Nat := 0) (inst : Nat := 0) : Bool := fget s f idx inst == 1

/-- Place a value in a field. -/
def fput (s : State) (f : Fld) (v : Nat) (idx : Nat := 0) (inst : Nat := 0) : State :=
  setReg s f.reg (putBits (reg s f.reg idx inst) f.hi f.lo v) idx inst

/-- Largest value of a field. -/
def fmax (f : Fld) : Nat := 2 ^ (f.hi + 1 - f.lo) - 1


/-- Add to a count field that wraps at its width (64-bit counters). -/
def fadd (s : State) (f : Fld) (n : Nat) (idx : Nat := 0) (inst : Nat := 0) : State :=
  fput s f (fget s f idx inst + n) idx inst

/-- Subtract from a count field, not below 0. -/
def fsub (s : State) (f : Fld) (n : Nat) (idx : Nat := 0) (inst : Nat := 0) : State :=
  fput s f (fget s f idx inst - n) idx inst

/-- Mask of bits hi down to lo. -/
def maskOf (hi lo : Nat) : Nat := (2 ^ (hi + 1 - lo) - 1) * 2 ^ lo

/-- Mask of the fields of a register that have an access code. -/
def accessMask (r : RegName) (a : Access) : Nat :=
  ((regFields r).filter (fun f => f.2.2 == a)).foldl (fun m f => m ||| maskOf f.1 f.2.1) 0

/-- Note events of the present tick: bits set or counts added in a register (R12). -/
def noteFresh (s : State) (f : Fld) (v idx inst : Nat) (join : Nat → Nat → Nat) : State :=
  let a := regAddr f.reg idx inst
  let x := ngetD ⟨reg s f.reg idx inst, 0⟩ s.fresh a
  { s with fresh := nset s.fresh a ⟨x.old, BitVec.ofNat 64 (join x.new.toNat (v % 2 ^ (f.hi + 1 - f.lo) * 2 ^ f.lo))⟩ }

/-- Set bits of a field (W1C status). -/
def fset (s : State) (f : Fld) (mask : Nat := 1) (idx : Nat := 0) (inst : Nat := 0) : State :=
  let v := fget s f idx inst
  fput (noteFresh s f mask idx inst (· ||| ·)) f (v ||| mask) idx inst

/-- Add to a saturating count field; a count that a read clears notes the events of the tick (R12). -/
def fsat (s : State) (f : Fld) (n : Nat) (idx : Nat := 0) (inst : Nat := 0) : State :=
  let v := min (fget s f idx inst + n) (fmax f)
  fput (if accessMask f.reg .RC = 0 then s else noteFresh s f n idx inst (fun a b => min (a + b) (fmax f))) f v idx inst

/-- The value of a register before the present tick, where a write of this tick acts only from its end (R99, R162, R303). -/
def regBefore (s : State) (r : RegName) (idx inst : Nat) : Word := ngetD (reg s r idx inst) s.held (regAddr r idx inst)

/-- A setting as a unit samples it: a write of the present tick takes effect at its end (R466). -/
def sget (s : State) (f : Fld) (idx : Nat := 0) (inst : Nat := 0) : Nat := bitsOf (regBefore s f.reg idx inst) f.hi f.lo
def sbit (s : State) (f : Fld) (idx : Nat := 0) (inst : Nat := 0) : Bool := sget s f idx inst == 1

/-- Keep the value that a register had before the present tick. -/
def holdReg (s : State) (r : RegName) (idx inst : Nat) : State :=
  let a := regAddr r idx inst
  if (nget s.held a).isSome then s else { s with held := nset s.held a (reg s r idx inst) }

/-- The register that lies at a device address, if one does: name, index, instance (R227). -/
def regAtIn (b : RegBlock) (addr : Nat) : Option (RegName × Nat × Nat) :=
  let rel := addr - blockBase b
  let inst := if blockStride b = 0 then 0 else rel / blockStride b
  let off := rel - inst * blockStride b
  (blockRegs b).findSome? (fun r =>
    let p := regPlace r
    if p.stride = 0 then (if off = p.off && inst < p.insts then some (r, 0, inst) else none)
    else if p.off ≤ off && (off - p.off) % p.stride = 0 && (off - p.off) / p.stride < p.count && inst < p.insts
      then some (r, (off - p.off) / p.stride, inst) else none)

/-- All blocks with their instance counts (R227). -/
def allBlocks : List (RegBlock × Nat) :=
  [(.HUB, 1), (.MBX, 1), (.FBK, 1), (.TCK, 1), (.CRN, 1), (.PWR, 1), (.ECC, 1), (.SEQ, 32), (.EDG, 8), (.LNK, 4)]

/-- The register at a device address (R227); none in a gap between or inside the blocks (R226). -/
def regAt (addr : Nat) : Option (RegName × Nat × Nat) :=
  allBlocks.findSome? (fun (b, n) =>
    let size := if blockStride b = 0 then blockSize b else n * blockStride b
    if blockBase b ≤ addr && addr < blockBase b + size then regAtIn b addr else none)

/-- A write by access code alone (R10): RW fields take the written value, W1C bits written as 1 clear, the others keep theirs. -/
def writeByAccess (r : RegName) (old v : Nat) : Nat :=
  let rw := accessMask r .RW
  let w1c := accessMask r .W1C
  let keep := old ^^^ (old &&& rw)
  (keep ^^^ (keep &&& (w1c &&& v))) ||| (v &&& rw)

/-- Bits set, or counts added, by events of the present tick in a register (R12). -/
def freshNew (s : State) (r : RegName) (idx inst : Nat) : Nat := ((nget s.fresh (regAddr r idx inst)).map (·.new.toNat)).getD 0

/-- A register after a write by access code: a bit that an event sets in the same tick stays set (R10, R12). -/
def writeReg (s : State) (r : RegName) (idx inst v : Nat) : State :=
  let old := (reg s r idx inst).toNat
  setReg s r (BitVec.ofNat 64 (writeByAccess r old v ||| (old &&& freshNew s r idx inst &&& accessMask r .W1C))) idx inst

/-- What a read returns by access code (R10, R11): WO fields and reserved bits read 0. -/
def readByAccess (r : RegName) (old : Nat) : Nat :=
  old &&& (accessMask r .RO ||| accessMask r .RW ||| accessMask r .W1C ||| accessMask r .RC)

/-- What a register holds after a read: RC fields clear (R10). -/
def afterRead (r : RegName) (old : Nat) : Nat := old ^^^ (old &&& accessMask r .RC)

/-- A read of a register by its access codes, and the state after it: an RC count returns its value from before the tick and stands at the
tick's new events (R10, R12). -/
def readReg (s : State) (r : RegName) (idx inst : Nat) : State × Nat :=
  let v := (reg s r idx inst).toNat
  let rc := accessMask r .RC
  let old := ((nget s.fresh (regAddr r idx inst)).map (·.old.toNat)).getD v
  (if rc = 0 then s else setReg s r (BitVec.ofNat 64 (afterRead r v ||| (freshNew s r idx inst &&& rc))) idx inst,
   readByAccess r (afterRead r v ||| (old &&& rc)))

/-! ### The word code -/

/-- The columns h[i] of the data bits (R253). -/
def codeColumns : List Nat :=
  [0x07, 0x0B, 0x0D, 0x0E, 0x13, 0x15, 0x16, 0x19, 0x1A, 0x1C, 0x23, 0x25, 0x26, 0x29, 0x2A, 0x2C,
   0x31, 0x32, 0x34, 0x38, 0x43, 0x45, 0x46, 0x49, 0x4A, 0x4C, 0x51, 0x52, 0x54, 0x58, 0x61, 0x62] ++
  [0x64, 0x68, 0x70, 0x83, 0x85, 0x86, 0x89, 0x8A, 0x8C, 0x91, 0x92, 0x94, 0x98, 0xA1, 0xA2, 0xA4,
   0xA8, 0xB0, 0xC1, 0xC2, 0xC4, 0xC8, 0xD0, 0xE0, 0x1F, 0x3E, 0x7C, 0xF8, 0xF1, 0xE3, 0xC7, 0x8F]

/-- check(d) of R253, over the bits of d from the given columns. -/
def checkBits : List Nat → Nat → Nat
  | [], _ => 0
  | h :: hs, d => (if d % 2 = 1 then h else 0) ^^^ checkBits hs (d / 2)

/-- The check byte of a word (R253). -/
def checkByte (d : Word) : Byte := BitVec.ofNat 8 (checkBits codeColumns d.toNat)

/-- A word as a writer sends it. -/
def codeWord (d : Word) : CodeWord := ⟨d, checkByte d⟩

/-- A poisoned word (R256). -/
def poisonWord (d : Word) : CodeWord := ⟨d, checkByte d ^^^ 0x7F⟩

/-- The syndrome a reader finds (R253). -/
def syndromeOf (w : CodeWord) : Byte := w.chk ^^^ checkByte w.data

/-- The classes of R254. -/
inductive WordClass where
  | clean
  | checkBit
  | dataBit (i : Nat)
  | poison
  | ue
  deriving DecidableEq, Repr

/-- Whether exactly one bit of a byte is set. -/
def oneBit (x : Nat) : Bool := [1, 2, 4, 8, 16, 32, 64, 128].contains x

/-- The class of a syndrome (R254). -/
def classOf (x : Byte) : WordClass :=
  if x = 0 then .clean
  else if oneBit x.toNat then .checkBit
  else match codeColumns.findIdx? (· == x.toNat) with
    | some i => .dataBit i
    | none => if x = 0x7F then .poison else .ue

/-- The data a reader takes from a code word, when the word is good (R254). -/
def deliveredData (w : CodeWord) : Word :=
  match classOf (syndromeOf w) with
  | .dataBit i => w.data ^^^ BitVec.ofNat 64 (2 ^ i)
  | _ => w.data

/-- Whether a syndrome is good for a reader: clean or corrected. -/
def isGood : WordClass → Bool
  | .poison => false
  | .ue => false
  | _ => true

/-! ### CRC-32 (R293, R412): polynomial 0x04C1_1DB7, reflected, initial value and final XOR 0xFFFF_FFFF -/

def crcBit (c : Nat) : Nat := if c % 2 = 1 then (c / 2) ^^^ 0xEDB88320 else c / 2

def crcByte (c : Nat) (b : Byte) : Nat :=
  crcBit (crcBit (crcBit (crcBit (crcBit (crcBit (crcBit (crcBit (c ^^^ b.toNat))))))))

def crc32 (bs : List Byte) : BitVec 32 := BitVec.ofNat 32 (bs.foldl crcByte 0xFFFFFFFF ^^^ 0xFFFFFFFF)

/-! ### Bytes of the stores -/

/-- The parts of [lo, hi) that no piece covers, as first address and length; pieces in rising order. -/
def gapsOf : Nat → Nat → List (Nat × Nat) → List (Nat × Nat)
  | lo, hi, [] => if lo < hi then [(lo, hi - lo)] else []
  | lo, hi, (a, n) :: l => (if lo < a then [(lo, min a hi - lo)] else []) ++ gapsOf (max lo (a + n)) hi l

/-- The pieces that hold a stashed tensor, by (4096 · c + t) · 2^40. -/
def piecesAt (s : State) (v : Nat) : List (Nat × Nat) :=
  match nget (ngetD .reset s.clusters (v / 2 ^ 52)).stash (v / 2 ^ 40 % 4096) with
  | some e => e.place
  | none => []

/-- The address of byte o of what pieces hold. -/
def placeIn : List (Nat × Nat) → Nat → Option Nat
  | [], _ => none
  | (a, n) :: l, o => if o < n then some (a + o) else placeIn l (o - n)

/-- The parts of pieces that hold n bytes from byte o. -/
def spansIn : List (Nat × Nat) → Nat → Nat → List (Nat × Nat)
  | [], _, _ => []
  | (a, n) :: l, o, k =>
    if k = 0 then []
    else if n ≤ o then spansIn l (o - n) k
    else
      let m := min k (n - o)
      (a + o, m) :: spansIn l 0 (k - m)

/-- Where a byte lies: a device address is its own place; an address at or above 2^48 names byte o of the tensor stashed under tag t of
cluster c, 2^48 + (4096 · c + t) · 2^40 + o, and lies in the granule that holds it (R151; assumption log 12). -/
def place (s : State) (a : Nat) : Nat :=
  if a < 0x1000000000000 then a
  else
    let v := a - 0x1000000000000
    (placeIn (piecesAt s v) (v % 2 ^ 40)).getD a

/-- The pieces of [a, a + n) that lie together, as first address and length. -/
def spans (s : State) (a n : Nat) : List (Nat × Nat) :=
  if a < 0x1000000000000 then [(a, n)]
  else
    let v := a - 0x1000000000000
    spansIn (piecesAt s v) (v % 2 ^ 40) n

/-- What an unlisted byte reads as: 0 (assumption log 4), or a free value where a channel retirement left LPDDR5X undefined (R234). -/
def backByte (lost : List (Nat × Nat × Nat)) (a : Nat) : Byte :=
  if 0x400000000000 ≤ a then 0
  else match lost.find? (fun r => r.1 ≤ a && a < r.2.1) with
    | some r => Config.lostByte r.2.2 a
    | none => 0

/-- The byte at a place of a store, as the stores hold it. -/
def rdPlace (s : State) (a : Nat) : Byte := ngetD (backByte s.lost a) s.mem a

/-- The byte at an address, of LPDDR5X from the line of an edge cache that holds its word when the line differs (R237). -/
def rdByte (s : State) (a : Nat) : Byte :=
  let a := place s a
  if a < 0x400000000000 then ngetD (rdPlace s a) s.lineBytes a else rdPlace s a

/-- n bytes from an address. -/
def rdBytes (s : State) (a n : Nat) : List Byte := (List.range n).map (fun i => rdByte s (a + i))

/-- n bytes from an address as a little-endian number (R6). -/
def rdNat (s : State) (a n : Nat) : Nat := leNat (rdBytes s a n)

/-- Place one byte of memory. -/
def memPut (lost : List (Nat × Nat × Nat)) (m : List Host.Cell) (a : Nat) (b : Byte) : List Host.Cell := nput (backByte lost a) m a b

/-- Place bytes of memory from an address up. -/
def memPuts (lost : List (Nat × Nat × Nat)) : List Host.Cell → Nat → List Byte → List Host.Cell
  | m, _, [] => m
  | m, a, b :: bs => memPuts lost (memPut lost m a b) (a + 1) bs

/-- The form that memory keeps: addresses strictly rising, no entry equal to what an unlisted byte reads as. -/
def memWf (lost : List (Nat × Nat × Nat)) (m : List Host.Cell) : Bool := nsorted m && m.all (fun c => c.2 != backByte lost c.1)

/-- The address of the word that holds a byte. -/
def wordAddr (a : Nat) : Nat := a / 8 * 8

/-- The syndrome of the stored word at an address. -/
def synAt (s : State) (a : Nat) : Byte := ngetD 0 s.syn (wordAddr (place s a))

/-- Whether the syndrome of a word outlives a write of [a, a + n): a word written whole has a valid check byte (R253, R256); one written in part
keeps an error that the written bytes do not replace (assumption log 14). -/
def keepsSyn (a n : Nat) (e : Nat × Byte) : Bool :=
  if e.1 + 8 ≤ a || a + n ≤ e.1 then true
  else if a ≤ e.1 && e.1 + 8 ≤ a + n then false
  else match classOf e.2 with
    | .clean | .checkBit => false
    | .dataBit i => !(a ≤ e.1 + i / 8 && e.1 + i / 8 < a + n)
    | .poison | .ue => true

/-- Segments of LPDDR5X that a write of [a, a + n) touches take their own tags again (R231). -/
def writeTags (s : State) (a n : Nat) : List (Nat × CodeWord) :=
  if a < 0x400000000000 then ndelRange s.tags (a / 448) ((a + n - 1) / 448 + 1) else s.tags

/-- A write of bytes at a place: the stores, and the cache line that holds the segment (R237). -/
def wrPlace (s : State) (a : Nat) (bs : List Byte) : State :=
  { s with mem := memPuts s.lost s.mem a bs, lineBytes := ndelRange s.lineBytes a (a + bs.length),
           syn := s.syn.filter (keepsSyn a bs.length), lineSyn := s.lineSyn.filter (keepsSyn a bs.length),
           tags := writeTags s a bs.length }

/-- A write of the pieces of a range. -/
def wrSpans (s : State) : List (Nat × Nat) → List Byte → State
  | [], _ => s
  | (a, m) :: l, bs => wrSpans (wrPlace s a (bs.take m)) l (bs.drop m)

/-- An ordinary write of bytes. -/
def wrBytes (s : State) (a : Nat) (bs : List Byte) : State :=
  if bs.isEmpty then s
  else if a < 0x1000000000000 then wrPlace s a bs
  else wrSpans s (spans s a bs.length) bs

/-! ### Where the bits of a segment travel (R259) -/

/-- Beat and DQ line of bit i of word w of one of bursts 0 to 6, which carries words 0 to 7 of its own. -/
def bitPlace (w i : Nat) : Nat × Nat := (i / 2, (w + 8 * 32 - 2 * (i / 2)) % 8 + 8 * (i % 2))

/-- Beat group and line of byte k of burst 7: check bytes 0 to 55, tag bytes 56 to 63. -/
def bytePlace (k : Nat) : Nat × Nat :=
  if k < 48 then (k / 16, k % 16) else if k < 56 then (3, 2 * (k - 48) + 1) else (3, 2 * (k - 56))

/-- Beat and line of bit i of byte k of burst 7. -/
def checkPlace (k i : Nat) : Nat × Nat := (4 * i + (bytePlace k).1, (bytePlace k).2)

/-- The word that burst 7 carries at byte k: a segment word whose check byte it is, or the tag, as 56. -/
def wordOfCheck (k : Nat) : Nat := min k 56

/-- Write the n low bytes of a number (R6). -/
def wrNat (s : State) (a n v : Nat) : State := wrBytes s a (leBytes n v)

/-- Mark the word that holds a byte poisoned, its data as they stand (R256). -/
def poisonAt (s : State) (a : Nat) : State :=
  let w := wordAddr (place s a)
  { s with syn := nset s.syn w 0x7F, lineSyn := ndel s.lineSyn w }

/-- Fill a range with zeros and valid check bytes (R433, R440). -/
def zeroRange (s : State) (lo hi : Nat) : State :=
  { s with mem := ndelRange s.mem lo hi, syn := ndelRange s.syn lo hi,
           lineBytes := ndelRange s.lineBytes lo hi, lineSyn := ndelRange s.lineSyn lo hi }

/-- The filling of LPDDR5X (R440): zeros, own tags, nothing undefined. -/
def fillLpddr (s : State) : State :=
  { zeroRange s 0 0x400000000000 with lost := [], tags := [] }

/-- Every line of the edge caches is invalidated (R234, R252). -/
def invalidateCaches (s : State) : State := { s with lines := [], lineBytes := [], lineSyn := [] }

/-- The next free value's number, and the state after drawing it. -/
def drawFree (s : State) : Nat × State := (s.free, { s with free := s.free + 1 })

/-- Correct a stored word in place: the correction writeback of R262. -/
def writeBack (s : State) (w : Nat) (syn : Byte) : State :=
  let s := { s with syn := ndel s.syn w }
  match classOf syn with
  | .dataBit i =>
    let a := w + i / 8
    { s with mem := memPut s.lost s.mem a (rdPlace s a ^^^ BitVec.ofNat 8 (2 ^ (i % 8))) }
  | _ => s

/-! ### Lines of the edge caches (R237, R238) -/

/-- The line that holds a segment. -/
def lineOf (s : State) (g : Nat) : Option Nat := (s.lines.find? (fun l => l.2.seg == g)).map (·.1)

/-- The syndrome of a cached word, as the line holds it. -/
def lineSynAt (s : State) (w : Nat) : Byte := ngetD (synAt s w) s.lineSyn w

/-- The tag of a segment as its 8 bytes are stored: the device address, with the check byte on top (R231; assumption log 29). -/
def tagStored (s : State) (g : Nat) : Nat :=
  let t := ngetD (codeWord (BitVec.ofNat 64 (448 * g))) s.tags g
  t.data.toNat % 2 ^ 56 + t.chk.toNat * 2 ^ 56

/-- A line's word becomes the one in LPDDR5X. -/
def refreshWord (s : State) (w : Nat) : State :=
  { s with lineBytes := ndelRange s.lineBytes w (w + 8), lineSyn := ndel s.lineSyn w }

/-- Correct a word in its line (R262). -/
def correctLine (s : State) (w : Nat) (syn : Byte) : State :=
  let s' := match classOf syn with
    | .dataBit i =>
      let a := w + i / 8
      let b := rdByte s a ^^^ BitVec.ofNat 8 (2 ^ (i % 8))
      { s with lineBytes := nput (rdPlace s a) s.lineBytes a b }
    | _ => s
  { s' with lineSyn := nput (synAt s w) s.lineSyn w 0 }

end Sys2Proof.Machine
end

