-- ==== Sys2Proof/Machine/Crypto.lean ====
section
/-! DEFINITION. The digests and the block cipher that the spec takes from FIPS 202 and FIPS 197: SHA3-512 and AES-128, and the message form of
FIPS 204 in which a signature binds its context (R444). -/

namespace Sys2Proof.Machine

/-! ### SHA3-512 (FIPS 202) -/

/-- Rotate a 64-bit lane left. -/
def rotl64 (x n : Nat) : Nat := (x * 2 ^ n) % 2 ^ 64 + x / 2 ^ (64 - n)

/-- Round constants of Keccak-f[1600]. -/
def keccakRc : List Nat :=
  [0x1, 0x8082, 0x800000000000808A, 0x8000000080008000, 0x808B, 0x80000001,
   0x8000000080008081, 0x8000000000008009, 0x8A, 0x88, 0x80008009, 0x8000000A,
   0x8000808B, 0x800000000000008B, 0x8000000000008089, 0x8000000000008003, 0x8000000000008002, 0x8000000000000080,
   0x800A, 0x800000008000000A, 0x8000000080008081, 0x8000000000008080, 0x80000001, 0x8000000080008008]

/-- Rotation offsets, lane x + 5y. -/
def keccakRot : List Nat :=
  [0, 1, 62, 28, 27, 36, 44, 6, 55, 20, 3, 10, 43, 25, 39, 41, 45, 15, 21, 8, 18, 2, 61, 56, 14]

/-- One round on 25 lanes, lane x + 5y. -/
def keccakRound (a : List Nat) (rc : Nat) : List Nat :=
  let at_ := fun (l : List Nat) (x y : Nat) => l.getD (x % 5 + 5 * (y % 5)) 0
  let c := (List.range 5).map (fun x => at_ a x 0 ^^^ at_ a x 1 ^^^ at_ a x 2 ^^^ at_ a x 3 ^^^ at_ a x 4)
  let d := (List.range 5).map (fun x => c.getD ((x + 4) % 5) 0 ^^^ rotl64 (c.getD ((x + 1) % 5) 0) 1)
  let r := (List.range 25).map (fun i => rotl64 (a.getD i 0 ^^^ d.getD (i % 5) 0) (keccakRot.getD i 0))
  let b := (List.range 25).map (fun i => at_ r (i % 5 + 3 * (i / 5)) (i % 5))
  (List.range 25).map (fun i =>
    let x := i % 5
    let y := i / 5
    let v := at_ b x y ^^^ ((2 ^ 64 - 1 - at_ b (x + 1) y) &&& at_ b (x + 2) y)
    if i = 0 then v ^^^ rc else v)

def keccakF (a : List Nat) : List Nat := keccakRc.foldl keccakRound a

/-- Absorb one block of 72 bytes. -/
def sha3Absorb (a : List Nat) (blk : List Byte) : List Nat :=
  keccakF ((List.range 25).map (fun i => a.getD i 0 ^^^ leNat ((blk.drop (8 * i)).take 8)))

/-- The padding of SHA3-512: bits 01, then 10*1, to a multiple of 72 bytes. -/
def sha3Pad (n : Nat) : List Byte :=
  if n % 72 = 71 then [0x86] else [0x06] ++ List.replicate (70 - n % 72) 0 ++ [0x80]

/-- SHA3-512 of a byte string: 64 bytes. -/
def sha3 (m : List Byte) : List Byte :=
  let s := (chunks 72 (m ++ sha3Pad m.length)).foldl sha3Absorb (List.replicate 25 0)
  (s.take 8).flatMap (leBytes 8)

/-! ### AES-128 (FIPS 197) -/

def aesSbox : List Nat :=
  [0x63, 0x7C, 0x77, 0x7B, 0xF2, 0x6B, 0x6F, 0xC5, 0x30, 0x01, 0x67, 0x2B, 0xFE, 0xD7, 0xAB, 0x76,
   0xCA, 0x82, 0xC9, 0x7D, 0xFA, 0x59, 0x47, 0xF0, 0xAD, 0xD4, 0xA2, 0xAF, 0x9C, 0xA4, 0x72, 0xC0] ++
  [0xB7, 0xFD, 0x93, 0x26, 0x36, 0x3F, 0xF7, 0xCC, 0x34, 0xA5, 0xE5, 0xF1, 0x71, 0xD8, 0x31, 0x15,
   0x04, 0xC7, 0x23, 0xC3, 0x18, 0x96, 0x05, 0x9A, 0x07, 0x12, 0x80, 0xE2, 0xEB, 0x27, 0xB2, 0x75] ++
  [0x09, 0x83, 0x2C, 0x1A, 0x1B, 0x6E, 0x5A, 0xA0, 0x52, 0x3B, 0xD6, 0xB3, 0x29, 0xE3, 0x2F, 0x84,
   0x53, 0xD1, 0x00, 0xED, 0x20, 0xFC, 0xB1, 0x5B, 0x6A, 0xCB, 0xBE, 0x39, 0x4A, 0x4C, 0x58, 0xCF] ++
  [0xD0, 0xEF, 0xAA, 0xFB, 0x43, 0x4D, 0x33, 0x85, 0x45, 0xF9, 0x02, 0x7F, 0x50, 0x3C, 0x9F, 0xA8,
   0x51, 0xA3, 0x40, 0x8F, 0x92, 0x9D, 0x38, 0xF5, 0xBC, 0xB6, 0xDA, 0x21, 0x10, 0xFF, 0xF3, 0xD2] ++
  [0xCD, 0x0C, 0x13, 0xEC, 0x5F, 0x97, 0x44, 0x17, 0xC4, 0xA7, 0x7E, 0x3D, 0x64, 0x5D, 0x19, 0x73,
   0x60, 0x81, 0x4F, 0xDC, 0x22, 0x2A, 0x90, 0x88, 0x46, 0xEE, 0xB8, 0x14, 0xDE, 0x5E, 0x0B, 0xDB] ++
  [0xE0, 0x32, 0x3A, 0x0A, 0x49, 0x06, 0x24, 0x5C, 0xC2, 0xD3, 0xAC, 0x62, 0x91, 0x95, 0xE4, 0x79,
   0xE7, 0xC8, 0x37, 0x6D, 0x8D, 0xD5, 0x4E, 0xA9, 0x6C, 0x56, 0xF4, 0xEA, 0x65, 0x7A, 0xAE, 0x08] ++
  [0xBA, 0x78, 0x25, 0x2E, 0x1C, 0xA6, 0xB4, 0xC6, 0xE8, 0xDD, 0x74, 0x1F, 0x4B, 0xBD, 0x8B, 0x8A,
   0x70, 0x3E, 0xB5, 0x66, 0x48, 0x03, 0xF6, 0x0E, 0x61, 0x35, 0x57, 0xB9, 0x86, 0xC1, 0x1D, 0x9E] ++
  [0xE1, 0xF8, 0x98, 0x11, 0x69, 0xD9, 0x8E, 0x94, 0x9B, 0x1E, 0x87, 0xE9, 0xCE, 0x55, 0x28, 0xDF,
   0x8C, 0xA1, 0x89, 0x0D, 0xBF, 0xE6, 0x42, 0x68, 0x41, 0x99, 0x2D, 0x0F, 0xB0, 0x54, 0xBB, 0x16]

def sub8 (x : Nat) : Nat := aesSbox.getD x 0

/-- Multiplication by x in GF(2^8). -/
def xtime (x : Nat) : Nat := if 128 ≤ x then (2 * x % 256) ^^^ 0x1B else 2 * x

def xorList (a b : List Nat) : List Nat := (a.zip b).map (fun x => x.1 ^^^ x.2)

/-- The next round key from the one before. -/
def nextKey (k : List Nat) (rcon : Nat) : List Nat :=
  let w := fun i => (k.drop (4 * i)).take 4
  let t := ((w 3).drop 1 ++ (w 3).take 1).map sub8
  let w0 := xorList (xorList (w 0) t) [rcon, 0, 0, 0]
  let w1 := xorList (w 1) w0
  let w2 := xorList (w 2) w1
  let w3 := xorList (w 3) w2
  w0 ++ w1 ++ w2 ++ w3

/-- SubBytes and ShiftRows; byte r + 4c is row r of column c. -/
def subShift (s : List Nat) : List Nat :=
  (List.range 16).map (fun i => sub8 (s.getD ((i + 4 * (i % 4)) % 16) 0))

def mixColumns (s : List Nat) : List Nat :=
  (List.range 16).map (fun i =>
    let c := i / 4
    let b := fun r => s.getD (4 * c + (i + r) % 4) 0
    xtime (b 0) ^^^ (xtime (b 1) ^^^ b 1) ^^^ b 2 ^^^ b 3)

def aesRcon : List Nat := [0x01, 0x02, 0x04, 0x08, 0x10, 0x20, 0x40, 0x80, 0x1B, 0x36]

/-- Rounds from a state and a round key; the last round has no MixColumns. -/
def aesRounds : List Nat → List Nat → List Nat → List Nat
  | [], s, _ => s
  | [rc], s, k => xorList (subShift s) (nextKey k rc)
  | rc :: rcs, s, k => let k' := nextKey k rc; aesRounds rcs (xorList (mixColumns (subShift s)) k') k'

/-- AES-128 of a 16-byte block under a 16-byte key, in the byte order of FIPS 197. -/
def aes128 (key blk : List Byte) : List Byte :=
  let k := key.map BitVec.toNat
  (aesRounds aesRcon (xorList (blk.map BitVec.toNat) k) k).map (BitVec.ofNat 8)

/-! ### Bytes -/

/-- n bytes at an offset as a little-endian number. -/
def bNat (l : List Byte) (off n : Nat) : Nat := leNat ((l.drop off).take n)

/-- A list with bytes replaced from an offset. -/
def bPut (l : List Byte) (off : Nat) (b : List Byte) : List Byte := l.take off ++ b ++ l.drop (off + b.length)

/-- n zero bytes. -/
def zeros (n : Nat) : List Byte := List.replicate n 0

/-- The n bytes of a number, most significant first. -/
def beBytes (n v : Nat) : List Byte := (leBytes n v).reverse

/-! ### Signed messages (R444) -/

/-- Bytes of a context string. -/
def asciiBytes (t : String) : List Byte := t.toList.map (fun c => BitVec.ofNat 8 c.toNat)

/-- M' of FIPS 204 for a context string and a message. -/
def signedForm (ctx : String) (m : List Byte) : List Byte :=
  let c := asciiBytes ctx
  [0, BitVec.ofNat 8 c.length] ++ c ++ m

/-- A list of exactly n bytes. -/
def fixLen (n : Nat) (b : List Byte) : List Byte := (b ++ List.replicate n 0).take n

end Sys2Proof.Machine
end

