-- ==== Sys2Proof/Machine/Report.lean ====
section
/-! DEFINITION. What the P40 reports: SOURCE codes (R275), the Field Book queue (R277, R278), event records to the control
node (R424), the location table (R266, R267), words in error (R262 to R264). -/

namespace Sys2Proof.Machine

/-! ### SOURCE codes (R275) -/

def srcCore (n : Nat) : Nat := n
def srcHubSeq : Nat := 0x04
def srcGovernor : Nat := 0x05
def srcSpike : Nat := 0x06
def srcSha : Nat := 0x07
def srcHubSram : Nat := 0x08
/-- Unit u (0 sequencer to 7 stash manager and stores) of cluster c on its compute die (R15). -/
def srcCluster (u c : Nat) : Nat := 0x1000 + c / 8 * 0x100 + u * 32 + c
/-- The same on the stacked SRAM die of cluster c (R15). -/
def srcStacked (u c : Nat) : Nat := 0x2000 + c / 2 * 0x100 + u * 32 + c
def srcEdge (e u : Nat) : Nat := 0x3000 + e * 0x100 + u
def srcLink (d u : Nat) : Nat := 0x4000 + d * 0x100 + u
def srcOptical : Nat := 0x5000
def srcRegulator (v dom : Nat) : Nat := 0x6000 + v * 0x100 + dom

/-- The tick counter of time stamps (R306, R462). -/
def tickNow (s : State) : Nat := (reg s .TCK_NOW).toNat

/-! ### The Field Book -/

/-- Whether entry a comes before entry b of the same tick (R277). -/
def fbBefore (a b : FbEntry) : Bool :=
  a.tick == b.tick && (a.source < b.source || (a.source == b.source && a.code < b.code))

/-- Put an entry into the queue in the order of R277. -/
def fbInsert (e : FbEntry) : List FbEntry → List FbEntry
  | [] => [e]
  | x :: xs => if fbBefore e x then e :: x :: xs else x :: fbInsert e xs

/-- Entries that may stand: the queue of 64, and those that the Field Book still accepts in the present tick, up to four (R277). -/
def fbRoom (s : State) : Nat := 68 - (if s.fbTick = s.tick then s.fbDone else 0)

/-- Offer an entry: queued in its order, or lost while the Field Book is frozen; the last in order finds the queue full (R277, R278). -/
def fbOffer (s : State) (source code a0 a1 a2 : Nat) : State :=
  let s := { s with fbOffered := s.fbOffered + 1 }
  if fbit s F.FBK_STAT.FROZEN then fsat s F.FBK_LOST.COUNT 1
  else
    let l := fbInsert ⟨tickNow s, source, code, a0, a1, a2⟩ s.fb
    if l.length ≤ fbRoom s then { s with fb := l } else fsat { s with fb := l.dropLast } F.FBK_LOST.COUNT 1

/-- Assert ALERT_n for one of its causes (R497). -/
def alert (s : State) (f : Fld) : State := fset s f

/-- The level of ALERT_n: low while any bit of HUB_ALERT is set; without power the tray pulls it up (R489, R497). -/
def alertPin (s : State) : Bool := reg s .HUB_ALERT == 0 || !s.boot.inputOn || s.freeze.lost

/-! ### Records to the control node -/

/-- i of mailbox 48 + i for a CODE (R424). -/
def recordBox (code : Nat) : Nat :=
  let hi := (code % 0x8000) / 0x100
  if hi = 3 || code = 0x0403 then 0
  else if hi = 2 || code = 0x0910 then 1
  else if hi = 7 then 2
  else if hi = 8 then 3
  else if hi = 4 then 4
  else if hi = 5 || hi = 6 then 5
  else if hi = 0xA then 6
  else 7

/-- The 64 bytes of an event record (R424). -/
def recordBytes (code source part box tick a0 a1 a2 epoch : Nat) : List Byte :=
  leBytes 2 code ++ leBytes 2 source ++ leBytes 1 part ++ leBytes 1 box ++ leBytes 2 0 ++ leBytes 8 tick ++
  leBytes 4 a0 ++ leBytes 4 0 ++ leBytes 8 a1 ++ leBytes 8 a2 ++ leBytes 8 epoch ++ leBytes 16 0

/-- Offer a record to the control node: into the ring of its mailbox, or lost when the ring is full (R424). part is 0xFF for none. -/
def offerRecord (s : State) (code source part a0 a1 a2 : Nat) : State :=
  let i := recordBox code
  let q := ngetD [] s.records i
  let s := { s with recOffered := s.recOffered + 1 }
  if 256 ≤ q.length then
    fbOffer (fset (fsat s F.MBX_LOST.COUNT 1) F.MBX_EVT.LOST) (srcCore 0) 0x0905 (48 + i) code 0
  else
    let pos := ngetD 0 s.recPos i
    let a := 0x7E0000E00000 + 0x4000 * i + 64 * pos
    let epoch := if part < 8 then (reg s .CRN_EPOCH part).toNat else 0
    let s := wrBytes s a (recordBytes code source part (48 + i) (tickNow s) a0 a1 a2 epoch)
    let s := { s with records := nset s.records i (q ++ [BitVec.ofNat 64 a]),
                      recPos := nput 0 s.recPos i ((pos + 1) % 256) }
    fput s F.MBX_QCNT.QUEUED (q.length + 1) i

/-! ### Places and the location table -/

/-- The channel, bank and row of a usable LPDDR5X address (R232); none with no channel in service. -/
def lpddrPlace (s : State) (a : Nat) : Option (Nat × Nat × Nat) :=
  let n := fget s F.HUB_MEM_STAT.ACTIVE
  if n = 0 then none
  else
    let g := a / 448
    let phys := fget s F.HUB_CHT.PHYS (g % n)
    let seg := g / n
    some (phys, seg % 16, seg / 64)

/-- KIND and LOC (R269) of the place that holds an address. -/
def placeOf (s : State) (a : Nat) : Nat × Nat :=
  if 0x7E0000000000 ≤ a then (1, srcHubSram + (a - 0x7E0000000000) / 64 * 65536)
  else if 0x410000000000 ≤ a then
    let c := (a - 0x410000000000) / 0x2000000
    (1, srcCluster 7 c + (a - 0x410000000000) % 0x2000000 / 64 * 65536)
  else if 0x400000000000 ≤ a then
    let c := (a - 0x400000000000) / 0x20000000
    (1, srcStacked 7 c + (a - 0x400000000000) % 0x20000000 / 64 * 65536)
  else match lpddrPlace s a with
    | some (ch, bank, row) => (2, ch + bank * 256 + row * 4096)
    | none => (2, 0)

/-- LOC of a line of an edge cache, named by its key: the cache of edge die e as a store, the line by its set and way (assumption log 75). -/
def cacheLoc (k : Nat) : Nat := srcEdge (k / 524288) 1 + k % 524288 * 65536

/-- LOC of the line of an accumulator memory that holds a word, by half the key of its first entry: the engines of the cluster as a store, its
four memories one after the other (assumption log 75). -/
def accLoc (c k : Nat) : Nat := srcCluster 1 c + k / 8 * 65536

/-- LOC of the line of a side memory that holds a record (assumption log 75). -/
def sideLoc (c n : Nat) : Nat := srcCluster 3 c + n / 8 * 65536

/-- The array whose CE rate and spares R267 and R268 count: the store of an SRAM line (one of four for an accumulator memory), the channel of a
row. -/
def arrayOf (kind loc : Nat) : Nat :=
  if kind = 2 then 0x10000 + loc % 256
  else if loc / 0x1000 % 16 = 1 && loc % 256 / 32 = 1 then 0x20000 + loc % 65536 * 4 + loc / 65536 / 16384
  else loc % 65536

/-- A UE as the location table takes it: the requester, the address that the entry gives, and the word. -/
structure UeAt where
  src : Nat
  addr : Nat
  word : Nat

/-- The entry of a place in the location table. -/
def placeOld (s : State) (kind loc : Nat) : Option Place := s.integ.places.find? (fun p => p.kind == kind && p.loc == loc)

/-- Enter an event in the location table (R266): opens an entry (CE_NEW or UE), drops the oldest when the table is full. -/
def enterPlace (s : State) (kind loc : Nat) (syn : Byte) (ue : Option UeAt) (repaired : Bool) : State :=
  let words := (ue.map (·.word)).toList
  match placeOld s kind loc with
  | some p =>
    let p' : Place := { p with events := p.events + 1, last := s.tick, repaired := p.repaired || repaired,
                               ueWords := p.ueWords ++ words }
    let ps := s.integ.places.map (fun q => if q.kind == kind && q.loc == loc then p' else q)
    { s with integ := { s.integ with places := ps } }
  | none =>
    let s := match ue with
      | some u => fbOffer s (srcCore 3) 0x0402 u.src u.addr syn.toNat
      | none => fbOffer s (srcCore 3) 0x0401 kind loc syn.toNat
    let s := match s.integ.places with
      | q :: rest => if 1024 ≤ s.integ.places.length
          then fbOffer { s with integ := { s.integ with places := rest } } (srcCore 3) 0x040C q.kind q.loc 0
          else s
      | [] => s
    let e : Place := ⟨kind, loc, 1, s.tick, s.tick, repaired, words, false⟩
    { s with integ := { s.integ with places := s.integ.places ++ [e] } }

/-- An event of a place that stores no words, a channel or a lane: the entry gives a free syndrome (assumption log 34). -/
def enterDevice (s : State) (kind loc : Nat) : State :=
  let (n, s) := drawFree s
  enterPlace s kind loc (BitVec.ofNat 8 (Config.freeWord n).toNat) none false

/-- The channel that a permanent row or a permanent channel has an event at. -/
def channelEvent (s : State) (kind loc : Nat) : State :=
  if kind = 2 then enterDevice s 3 (loc % 256) else if kind = 3 then enterDevice s 3 loc else s

/-- Declare a place permanently faulty (R267): PERMANENT, and its retirement waits for the next record (R268, R270). -/
def declarePermanent (s : State) (kind loc cause : Nat) : State :=
  if s.integ.pending.any (fun x => x.1 == kind && x.2.1 == loc) || s.integ.recorded.any (fun e => e.kind == kind && e.loc == loc) then s
  else
    let s := fbOffer (channelEvent s kind loc) (srcCore 3) 0x0404 kind loc cause
    let ps := s.integ.places.map (fun p => if p.kind == kind && p.loc == loc then { p with permanent := true } else p)
    let s := { s with integ := { s.integ with pending := s.integ.pending ++ [(kind, loc, cause)], places := ps } }
    if kind = 3 then fput s F.HUB_MEM_STAT.PENDING 1 else s

/-- Rows of a channel declared permanent while their entries live (R267). -/
def permanentRows (s : State) (ch : Nat) : Nat :=
  (s.integ.places.filter (fun p => p.kind == 2 && p.permanent && p.loc % 256 == ch)).length

/-- Rows of a bank that a record lists or that wait for one (R235, R267). -/
def listedRows (s : State) (ch bank : Nat) : Nat :=
  let here := fun loc => loc % 256 == ch && loc / 256 % 16 == bank
  (s.integ.entries.filter (fun e => e.kind == 2 && here e.loc)).length +
  (s.integ.pending.filter (fun d => d.1 == 2 && here d.2.1)).length

/-- A channel that its rows condemn: four permanent rows, or more rows of a bank than soft PPR repairs (R267). -/
def channelByRows (s : State) (loc : Nat) : State :=
  let ch := loc % 256
  if 4 ≤ permanentRows s ch || Config.pprRows ch (loc / 256 % 16) < listedRows s ch (loc / 256 % 16)
  then declarePermanent s 3 ch 1 else s

/-- An event at a place, and the places that it makes permanent (R266, R267). -/
def placeEvent (s : State) (kind loc : Nat) (syn : Byte) (ue : Option UeAt) (repaired : Bool) : State :=
  let t := enterPlace s kind loc syn ue repaired
  match placeOld s kind loc with
  | some p =>
    if p.repaired then declarePermanent t kind loc 1
    else if ue.any (fun u => p.ueWords.contains u.word) then declarePermanent t kind loc 4
    else t
  | none => t

/-- The rate rules of R267 after one CE in an array: more than 256 in an SRAM array, more than 1024 on a channel, within 1 s. -/
def ceRate (s : State) (kind loc : Nat) : State :=
  let arr := arrayOf kind loc
  let hist := (s.integ.ceHist ++ [(arr, s.tick)]).filter (fun x => s.tick < x.2 + 125000000)
  let s := { s with integ := { s.integ with ceHist := hist } }
  let n := (hist.filter (fun x => x.1 == arr)).length
  if kind = 2 then (if 1024 < n then declarePermanent s 3 (loc % 256) 2 else s)
  else if 256 < n then
    (s.integ.places.filter (fun p => p.kind == 1 && arrayOf 1 p.loc == arr)).foldl
      (fun s p => declarePermanent s 1 p.loc 2) s
  else s

/-- A corrected word is counted and its place entered (R262, R266). -/
def enterCe (s : State) (kind loc : Nat) (syn : Byte) (repaired : Bool) : State :=
  let s := placeEvent (fadd s F.ECC_CECNT.COUNT 1) kind loc syn none repaired
  let s := ceRate s kind loc
  if kind = 2 then channelByRows s loc else s

/-- A word uncorrectable after its retry is counted and its place entered (R263, R266). -/
def enterUe (s : State) (u : UeAt) (kind loc : Nat) (syn : Byte) : State :=
  let s := placeEvent (fadd s F.ECC_UECNT.COUNT 1) kind loc syn (some u) false
  if kind = 2 then channelByRows s loc else s

/-- A corrected word of a store: counted, entered, written back (R262, R266). -/
def reportCe (s : State) (w : Nat) (syn : Byte) : State :=
  let (kind, loc) := placeOf s w
  writeBack (enterCe s kind loc syn true) w syn

/-- A word of a store uncorrectable after its retry (R263, R266). -/
def reportUe (s : State) (src w : Nat) (syn : Byte) : State :=
  let (kind, loc) := placeOf s w
  enterUe s ⟨src, w, w⟩ kind loc syn

/-! ### Words in error (R254, R262 to R265) -/

/-- A reader's state: the machine, and the first bad word met with its event, 1 uncorrectable after retry, 2 poisoned (R265). -/
abbrev Met := State × Option (Nat × Nat)

/-- A word delivered poisoned, at once or by a retry (R263). -/
def metPoison (st : Met) (w : Nat) : Met := (fadd st.1 F.ECC_POISONCNT.COUNT 1, st.2.or (some (w, 2)))

/-- A word still uncorrectable after its retry (R263). -/
def metUe (src : Nat) (st : Met) (w : Nat) (syn : Byte) : Met := (reportUe st.1 src w syn, st.2.or (some (w, 1)))

/-- A retry that succeeds (R263). -/
def retried (s : State) : State := fadd s F.ECC_RTRYCNT.COUNT 1

/-- A reader meets a word of a store with its syndrome (R254, R262, R263). -/
def meetWord (src : Nat) (st : Met) (e : Nat × Byte) : Met :=
  match classOf e.2 with
  | .clean => st
  | .poison => metPoison st e.1
  | .ue =>
    let (n, s) := drawFree st.1
    let syn := Config.retrySyndrome n e.1 e.2
    (match classOf syn with
    | .clean => ({ retried s with syn := ndel s.syn e.1 }, st.2)
    | .poison => metPoison ({ s with syn := nset s.syn e.1 0x7F }, st.2) e.1
    | .ue => metUe src (s, st.2) e.1 syn
    | _ => (reportCe (retried s) e.1 syn, st.2))
  | _ => (reportCe st.1 e.1 e.2, st.2)

/-- A reader meets a word of a memory that has no device address: word n of its unit, in the line loc; addr names it in reports. Answers the word
as the memory then holds it. -/
def meetCell (src addr word loc : Nat) (st : Met) (w : CodeWord) : Met × CodeWord :=
  let syn := syndromeOf w
  match classOf syn with
  | .clean => (st, w)
  | .poison => (metPoison st addr, w)
  | .ue =>
    let (n, s) := drawFree st.1
    let syn := Config.retrySyndrome n addr syn
    let w' : CodeWord := ⟨w.data, checkByte w.data ^^^ syn⟩
    (match classOf syn with
    | .clean => ((retried s, st.2), w')
    | .poison => (metPoison (s, st.2) addr, w')
    | .ue => ((enterUe s ⟨src, addr, word⟩ 1 loc syn, st.2.or (some (addr, 1))), w)
    | _ => ((enterCe (retried s) 1 loc syn true, st.2), codeWord (deliveredData w')))
  | _ => ((enterCe st.1 1 loc syn true, st.2), codeWord (deliveredData w))

/-- Whether a stored tag is a segment's own, as the word code delivers it (R231). -/
def tagOwn (g : Nat) (t : CodeWord) : Bool :=
  isGood (classOf (syndromeOf t)) && deliveredData t == BitVec.ofNat 64 (g * 448)

/-- Whether the tag of a segment of LPDDR5X mismatches. -/
def tagBad (s : State) (g : Nat) : Bool := match nget s.tags g with
  | some t => !tagOwn g t
  | none => false

/-- A reader compares the tag of a segment of LPDDR5X: a correctable one counts a CE, a mismatch is retried, and one that stays is a UE of each
of the 56 words (R231, R263). Answers whether the tag is the segment's own. -/
def meetTag (src : Nat) (s : State) (g : Nat) : State × Bool :=
  match nget s.tags g with
  | none => (s, true)
  | some t =>
    let syn := syndromeOf t
    if tagOwn g t then
      let (kind, loc) := placeOf s (g * 448)
      ({ enterCe s kind loc syn true with tags := ndel s.tags g }, true)
    else
      let (n, s) := drawFree s
      if Config.retryTag n g then ({ retried s with tags := ndel s.tags g }, true)
      else (foldRange 56 (fun s k => reportUe s src (g * 448 + 8 * k) syn) s, false)

/-- A reader meets a word of a cached segment, in the line of key k: an uncorrectable one is read again from LPDDR5X (R238, R263). -/
def meetLineWord (src k : Nat) (st : Met) (e : Nat × Byte) : Met :=
  match classOf e.2 with
  | .clean => st
  | .poison => metPoison st e.1
  | .ue =>
    let d := synAt st.1 e.1
    let (s, own) := meetTag src (refreshWord st.1 e.1) (e.1 / 448)
    if !own then (s, st.2.or (some (e.1, 1)))
    else (match classOf d with
    | .clean => (retried s, st.2)
    | .poison => metPoison (s, st.2) e.1
    | .ue => metUe src (s, st.2) e.1 d
    | _ => (reportCe (retried s) e.1 d, st.2))
  | _ => (correctLine (enterCe st.1 1 (cacheLoc k) e.2 true) e.1 e.2, st.2)

/-- The words of stores in [lo, hi) whose syndrome is not clean, in address order. -/
def storedIn (s : State) (lo hi : Nat) : List (Nat × Byte) := s.syn.filter (fun e => wordAddr lo ≤ e.1 && e.1 < hi)

/-- The same as a reader finds them, from the lines of the edge caches where they hold the segment. -/
def listedIn (s : State) (lo hi : Nat) : List (Nat × Byte) :=
  (s.lineSyn.filter (fun e => wordAddr lo ≤ e.1 && e.1 < hi)).foldl (fun l e => nset l e.1 e.2) (storedIn s lo hi)

/-- A reader meets segment g of LPDDR5X, where it reads [lo, hi). -/
def meetSegment (src lo hi : Nat) (st : Met) (g : Nat) : Met :=
  let a := max lo (g * 448)
  let l := fun (s : State) => listedIn s a (min hi (g * 448 + 448))
  match lineOf st.1 g with
  | some k => (l st.1).foldl (meetLineWord src k) st
  | none =>
    let (s, own) := meetTag src st.1 g
    if own then (l s).foldl (meetWord src) (s, st.2) else (s, st.2.or (some (wordAddr a, 1)))

/-- The segments of [lo, hi) in which something is in error, in address order. -/
def badSegments (s : State) (lo hi : Nat) : List Nat :=
  let words := (listedIn s lo hi).map (fun e => e.1 / 448)
  let tags := (s.tags.map (·.1)).filter (fun g => lo / 448 ≤ g && g * 448 < hi)
  ((words ++ tags).foldl (fun l g => nset l g ()) []).map (·.1)

/-! ### Filling the edge caches (R237) -/

/-- Whether reads of an address allocate: its window has CACHE = 1. -/
def cacheOn (s : State) (a : Nat) : Bool :=
  (List.range 8).any (fun p => fbit s F.HUB_WIN.CACHE p &&
    fget s F.HUB_WIN.BASE p * 0x100000 ≤ a && a < (fget s F.HUB_WIN.BASE p + fget s F.HUB_WIN.SIZE p) * 0x100000)

/-- Edge die that drives the channel of an address of LPDDR5X (R232). -/
def edgeOf (s : State) (a : Nat) : Nat := match lpddrPlace s a with
  | some (ch, _, _) => ch / 32
  | none => 0

/-- The line that a segment is filled into: the first empty way of its set, else the one used least recently; none where every way is disabled. -/
def victimOf (s : State) (g : Nat) : Option Nat :=
  let base := (edgeOf s (g * 448) * 32768 + Config.cacheSet g % 32768) * 16
  let ways := ((List.range 16).map (base + ·)).filter (fun k => !s.waysOff.contains k)
  let used : Nat → Nat := fun k => match nget s.lines k with
    | some l => l.used + 1
    | none => 0
  ways.foldl (fun best k => match best with
    | none => some k
    | some b => if used k < used b then some k else some b) none

/-- A line is emptied. -/
def dropLine (s : State) (k : Nat) : State :=
  match nget s.lines k with
  | none => s
  | some l =>
    let lo := l.seg * 448
    { s with lines := ndel s.lines k, lineBytes := ndelRange s.lineBytes lo (lo + 448), lineSyn := ndelRange s.lineSyn lo (lo + 448) }

/-- A read uses the line of a segment, or fills one where it allocates. -/
def useLine (alloc : Bool) (s : State) (g : Nat) : State :=
  let put := fun (s : State) (k : Nat) => { s with lines := nset s.lines k ⟨g, s.lineUse⟩, lineUse := s.lineUse + 1 }
  match lineOf s g with
  | some k => put s k
  | none => if !alloc || !cacheOn s (g * 448) then s else match victimOf s g with
      | some k => put (dropLine s k) k
      | none => s

/-- The lines after a read of [lo, hi); hub DMA does not allocate. -/
def touchLines (src : Nat) (s : State) (lo hi : Nat) : State :=
  let alloc := 0x1000 ≤ src && (List.range 8).any (fun p => fbit s F.HUB_WIN.CACHE p)
  if !alloc && s.lines.isEmpty then s
  else foldRange ((hi - 1) / 448 + 1 - lo / 448) (fun s i => useLine alloc s (lo / 448 + i)) s

/-! ### Reads of ranges -/

/-- A unit reads one piece of a range: corrections, retries, counts, and the first bad word. -/
def checkSpan (src : Nat) (st : Met) (r : Nat × Nat) : Met :=
  let (lo, hi) := (r.1, r.1 + r.2)
  if hi ≤ lo then st
  else if 0x400000000000 ≤ lo then (storedIn st.1 lo hi).foldl (meetWord src) st
  else
    let st := (badSegments st.1 lo hi).foldl (meetSegment src lo hi) st
    (touchLines src st.1 lo hi, st.2)

/-- A unit reads every word of [lo, hi). -/
def checkRange (src : Nat) (st : Met) (lo hi : Nat) : Met :=
  if hi ≤ lo then st else (spans st.1 lo (hi - lo)).foldl (checkSpan src) st

/-- A unit reads several ranges, in order. -/
def checkRanges (src : Nat) (s : State) (rs : List (Nat × Nat)) : Met :=
  rs.foldl (fun st r => checkRange src st r.1 r.2) (s, none)

/-- Whether a segment of [lo, hi) has a tag that is not its own, and no cache line (R231, R272). -/
def badTagIn (s : State) (lo hi : Nat) : Bool :=
  s.tags.any (fun t => lo / 448 ≤ t.1 && t.1 * 448 < hi && !tagOwn t.1 t.2 && (lineOf s t.1).isNone)

/-- Whether a word of [lo, hi) is bad as it stands (after checkRange, a poisoned or uncorrectable word). -/
def badIn (s : State) (lo hi : Nat) : Bool :=
  lo < hi && (spans s lo (hi - lo)).any (fun r =>
    (listedIn s r.1 (r.1 + r.2)).any (fun e => !isGood (classOf e.2)) || badTagIn s r.1 (r.1 + r.2))

end Sys2Proof.Machine
end

