-- ==== Sys2Proof/Machine/Ops.lean ====
section
/-! DEFINITION. The named operations over clusters, partitions, tokens, mailboxes and address windows, and the two ways in
which a run is cut short: a trap of a cluster (R184, R185), the block's counterpart of taking an exception, and the
abandonment of a partition's run. -/

namespace Sys2Proof.Machine

/-- The outcome type of every meaning. -/
abbrev Out := Host.Outcome State Fault Refusal

/-! ### Clusters, streams, partitions -/

def clu (s : State) (c : Nat) : Cluster := ngetD .reset s.clusters c
def setClu (s : State) (c : Nat) (x : Cluster) : State := { s with clusters := nset s.clusters c x }
def modClu (s : State) (c : Nat) (f : Cluster → Cluster) : State := setClu s c (f (clu s c))

def part (s : State) (p : Nat) : Part := ngetD .reset s.parts p
def setPart (s : State) (p : Nat) (x : Part) : State := { s with parts := nset s.parts p x }
def modPart (s : State) (p : Nat) (f : Part → Part) : State := setPart s p (f (part s p))

def core (s : State) (n : Nat) : Core := ngetD .reset s.cores n
def modCore (s : State) (n : Nat) (f : Core → Core) : State := { s with cores := nset s.cores n (f (core s n)) }

/-- A stream of a cluster. -/
def str (k : Cluster) : Stream → StreamState
  | .F => k.F
  | .B => k.B

def setStr (k : Cluster) (st : Stream) (x : StreamState) : Cluster :=
  match st with
  | .F => { k with F := x }
  | .B => { k with B := x }

/-- Change a stream of a cluster. -/
def modStr (s : State) (c : Nat) (st : Stream) (f : StreamState → StreamState) : State :=
  modClu s c (fun k => setStr k st (f (str k st)))

def stream (s : State) (c : Nat) (st : Stream) : StreamState := str (clu s c) st

/-- s[n]: s0 reads 0 (R167). -/
def sreg (x : StreamState) (n : Nat) : Word := if n = 0 then 0 else ngetD 0 x.sreg n
/-- Write s[n]: writes to s0 are ignored (R167). -/
def setSreg (x : StreamState) (n : Nat) (v : Word) : StreamState :=
  if n = 0 then x else { x with sreg := nput 0 x.sreg n v }
def areg (x : StreamState) (n : Nat) : Word := ngetD 0 x.areg n
def setAreg (x : StreamState) (n : Nat) (v : Word) : StreamState := { x with areg := nput 0 x.areg n v }
/-- p[n]: p0 reads 1 (R167). -/
def preg (x : StreamState) (n : Nat) : Bool := if n = 0 then true else ngetD false x.preg n
/-- Write p[n]: writes to p0 are ignored (R167). -/
def setPreg (x : StreamState) (n : Nat) (v : Bool) : StreamState :=
  if n = 0 then x else { x with preg := nput false x.preg n v }

/-- td[n] (R168). -/
def tdReg (k : Cluster) (n : Nat) : BitVec 512 := ngetD 0 k.td n
def setTd (s : State) (c n : Nat) (v : BitVec 512) : State := modClu s c (fun k => { k with td := nput 0 k.td n v })

/-- The program counter register of a stream (R191). -/
def pcFld : Stream → Fld
  | .F => F.SEQ_PC_F.PC
  | .B => F.SEQ_PC_B.PC
def pcOf (s : State) (c : Nat) (st : Stream) : Nat := fget s (pcFld st) 0 c
def setPc (s : State) (c : Nat) (st : Stream) (v : Nat) : State := fput s (pcFld st) v 0 c

/-- The partition that holds a cluster (R31, R32: at most one). -/
def partOf (s : State) (c : Nat) : Option Nat :=
  (List.range 8).find? (fun p => natBit (fget s F.HUB_PART.CLUSTERS p) c)

/-- The clusters of a partition, ascending. -/
def clustersOf (s : State) (p : Nat) : List Nat := indicesWhere 32 (natBit (fget s F.HUB_PART.CLUSTERS p))

/-- Image cluster index of a cluster: its rank among the partition's clusters (R188). -/
def imageIndex (s : State) (p c : Nat) : Nat := ((clustersOf s p).filter (fun d => d < c)).length

/-! ### Address windows (R169, R203, R225, R229) -/

def deepBase (c : Nat) : Nat := 0x400000000000 + 0x20000000 * c
def nearBase (c : Nat) : Nat := 0x410000000000 + 0x2000000 * c

/-- The address by which the model names the bytes of a stashed tensor, wherever they lie (assumption log 12). -/
def stashBase (c t : Nat) : Nat := 0x1000000000000 + (c * 4096 + t) * 2 ^ 40

/-- First address of the stash region of a cluster's deep store (R151). -/
def stashStart (s : State) (c : Nat) : Nat := deepBase c + 0x20000000 - (clu s c).stashLimit * 4096

def MiB : Nat := 0x100000

/-- [a, a + n) lies in [lo, hi). -/
def within (a n lo hi : Nat) : Bool := lo ≤ a && a + n ≤ hi

/-- [a, a + n) and [lo, hi) share a byte. -/
def overlaps (a n lo hi : Nat) : Bool := a < hi && lo < a + n

/-- The LPDDR5X window of a partition: base and end (R229). -/
def winLo (s : State) (p : Nat) : Nat := fget s F.HUB_WIN.BASE p * MiB
def winHi (s : State) (p : Nat) : Nat := (fget s F.HUB_WIN.BASE p + fget s F.HUB_WIN.SIZE p) * MiB

/-- [a, a + n) lies in one window that the partition owns, outside every stash region (R169, R229). -/
def inWindows (s : State) (p a n : Nat) : Bool :=
  within a n (winLo s p) (winHi s p) ||
  (clustersOf s p).any (fun c => within a n (nearBase c) (nearBase c + 0x2000000) ||
    within a n (deepBase c) (stashStart s c))

/-- [a, a + n) lies in the near or deep store of one cluster, outside its stash (R208). -/
def inOwnStores (s : State) (c a n : Nat) : Bool :=
  within a n (nearBase c) (nearBase c + 0x2000000) || within a n (deepBase c) (stashStart s c)

/-- [a, a + n) touches the code region of the partition's running image (R179). -/
def inCode (s : State) (p a n : Nat) : Bool :=
  match (part s p).image with
  | some im => overlaps a n im.codeBase (im.codeBase + im.codeSize)
  | none => false

/-- Any partition's address space holds the range, outside stash regions and code regions (R249). -/
def remoteAccepts (s : State) (a n : Nat) : Bool :=
  (List.range 8).any (fun p => inWindows s p a n) && !(List.range 8).any (fun p => inCode s p a n)

/-- Usable top of LPDDR5X (R225, R233). -/
def memTop (s : State) : Nat := fget s F.HUB_MEM_TOP.BYTES

/-- [a, a + n) lies in one row of R225 other than the control registers. -/
def inOneRow (s : State) (a n : Nat) : Bool :=
  within a n 0 (memTop s) || within a n 0x7E0000000000 0x7E0001000000 ||
  (List.range 32).any (fun c => within a n (deepBase c) (deepBase c + 0x20000000) ||
    within a n (nearBase c) (nearBase c + 0x2000000))

/-! ### What clusters see of each other's writes (R179) -/

/-- The writes of a cluster's completed operations and stores become visible: its fence.g, or its arrival at a barrier. -/
def fenceWrites (s : State) (c : Nat) : State := modClu s c (fun k => { k with fences := k.fences + 1 })

/-- A cluster is ordered after what has become visible: it waited on a barrier generation, or got a doorbell. -/
def seeWrites (s : State) (c : Nat) : State :=
  modClu s c (fun k => { k with seen := (s.clusters.filter (fun x => x.2.fences ≠ 0)).map (fun x => (x.1, x.2.fences)) })

/-- Bytes that cluster c need not see yet, with what it may see instead. -/
def hiddenFrom (s : State) (c : Nat) : List (Nat × Byte) :=
  (s.unseen.filter (fun e => e.2.writer ≠ c && ngetD 0 (clu s c).seen e.2.writer ≤ e.2.fence)).map (fun e => (e.1, e.2.old))

/-- Places where two lists of cells differ, with the byte of the first; fuel bounds them. -/
def cellDiff (back : Nat → Byte) : Nat → List Host.Cell → List Host.Cell → List (Nat × Byte)
  | 0, _, _ => []
  | _, [], [] => []
  | k + 1, (a, x) :: l, [] => (a, x) :: cellDiff back k l []
  | k + 1, [], (b, _) :: m => (b, back b) :: cellDiff back k [] m
  | k + 1, (a, x) :: l, (b, y) :: m =>
    if a < b then (a, x) :: cellDiff back k l ((b, y) :: m)
    else if b < a then (b, back b) :: cellDiff back k ((a, x) :: l) m
    else if x = y then cellDiff back k l m
    else (a, x) :: cellDiff back k l m

/-- The byte that a reader who need not see a write yet may still see, from the byte that stood there: as the word code delivers it (R254). A word
that was poisoned or uncorrectable is met as it stands now. -/
def staleByte (s t : State) (e : Nat × Byte) : Option (Nat × Byte) :=
  let b := match classOf (synAt s e.1) with
    | .dataBit i => if e.1 % 8 = i / 8 then some (e.2 ^^^ BitVec.ofNat 8 (2 ^ (i % 8))) else some e.2
    | .poison | .ue => none
    | _ => some e.2
  match b with
  | some x => if x = rdPlace t e.1 then none else some (e.1, x)
  | none => none

/-- The bytes that differ from s to t are writes of cluster c. -/
def noteWrites (s t : State) (c : Nat) : State :=
  let d := (cellDiff (backByte s.lost) (s.mem.length + t.mem.length) s.mem t.mem).filterMap (staleByte s t)
  { t with unseen := d.foldl (fun l e => nset l e.1 ⟨c, (clu t c).fences, e.2⟩) t.unseen }

/-- The stores as cluster c sees them: a byte that it need not see yet is the old one or the new one, by a free value. -/
def viewOf (s : State) (h : List (Nat × Byte)) : State :=
  let (n, s) := drawFree s
  h.foldl (fun s e => if Config.seesNew n e.1 then s else { s with mem := memPut s.lost s.mem e.1 e.2 }) s

/-- After work of a cluster on its view v of s: bytes that the work left alone are those of s. -/
def restoreView (s v t : State) (h : List (Nat × Byte)) : State :=
  h.foldl (fun t e => if rdPlace t e.1 = rdPlace v e.1 then { t with mem := memPut t.lost t.mem e.1 (rdPlace s e.1) } else t) t

/-- Work of cluster c on the stores: it reads them as it sees them, and its writes are not visible to others yet. -/
def throughView (c : Nat) (work : State → State) (s : State) : State :=
  let h := hiddenFrom s c
  if h.isEmpty then noteWrites s (work s) c
  else
    let v := viewOf s h
    noteWrites s (restoreView s v (work v) h) c

/-! ### Tokens (R172) -/

def tokCount (s : State) (c k : Nat) : Nat := fget s F.SEQ_TOK.COUNT k c
def tokPending (s : State) (c k : Nat) : Nat := fget s F.SEQ_TOK.PENDING k c
def setTokCount (s : State) (c k v : Nat) : State := fput s F.SEQ_TOK.COUNT v k c
def setTokPending (s : State) (c k v : Nat) : State := fput s F.SEQ_TOK.PENDING v k c

/-- COUNT + PENDING + the increment would exceed 0xFFFF. -/
def tokFull (s : State) (c k n : Nat) : Bool := 0xFFFF < tokCount s c k + tokPending s c k + n

/-- Held doorbell rings are applied as room frees, in ascending order (R426); applied whenever COUNT falls in a run. -/
def applyBells (s : State) (c : Nat) : State :=
  (clu s c).bells.foldl (fun s b =>
    let k := 192 + b.1
    let room := 0xFFFF - (tokCount s c k + tokPending s c k)
    let n := min room b.2
    let s := setTokCount (if n = 0 then s else seeWrites s c) c k (tokCount s c k + n)
    let s := modClu s c (fun x => { x with bells := nput 0 x.bells b.1 (b.2 - n) })
    let pend := (reg s .MBX_DB_PEND c).toNat
    setReg s .MBX_DB_PEND (BitVec.ofNat 64 (natPut pend b.1 b.1 (if b.2 - n = 0 then 0 else 1))) c) s

/-! ### Mailboxes of the clusters (R421, R422) -/

def mbxFull (s : State) (n : Nat) : Bool := fbit s F.MBX_STAT.FULL n
def mbxClosed (s : State) (n : Nat) : Bool := fbit s F.MBX_STAT.CLOSED n

/-- Post a notice to an empty mailbox (R422): DATA and PEEK hold it, SSTAT pending. -/
def mbxPost (s : State) (n : Nat) (notice : Word) (skind sender : Nat) : State :=
  let s := setReg s .MBX_DATA notice n
  let s := setReg s .MBX_PEEK notice n
  let s := fput s F.MBX_STAT.FULL 1 n
  let s := fput s F.MBX_STAT.SSTAT 1 n
  let s := fput s F.MBX_STAT.SEQ (bitsOf notice 55 48) n
  let s := fput s F.MBX_STAT.SKIND skind n
  fput s F.MBX_STAT.SENDER sender n

/-- A notice of the sequencer: VER 1, KIND, SEQ the low 8 bits of the count of notices of the run, ADDR 0 (R421). The notice of a trap has
no place for the cause that R184 mentions; the layout of R421 stands (assumption log 84). -/
def noticeWord (kind seq : Nat) : Word := BitVec.ofNat 64 (2 ^ 60 + kind * 2 ^ 56 + seq % 256 * 2 ^ 48)

/-- The sequencer of cluster c places a notice in the private mailbox; it waits while the mailbox is full or closed (R422). -/
def seqNotice (s : State) (c kind : Nat) : State :=
  let k := clu s c
  let w := noticeWord kind k.noticeSeq
  let s := modClu s c (fun k => { k with noticeSeq := k.noticeSeq + 1 })
  if mbxFull s c || mbxClosed s c || !k.notices.isEmpty
  then modClu s c (fun k => { k with notices := k.notices ++ [w] })
  else mbxPost s c w 0 c

/-- Space in a private mailbox of a cluster: the oldest waiting notice of the sequencer is posted (R422). -/
def postWaiting (s : State) (c : Nat) : State :=
  match (clu s c).notices with
  | w :: rest =>
    if mbxFull s c || mbxClosed s c then s
    else mbxPost (modClu s c (fun k => { k with notices := rest })) c w 0 c
  | [] => s

/-! ### Accumulator words (R80) -/

/-- Word n of the accumulator memories of a cluster: entries 2n and 2n + 1. -/
def accCell (k : Cluster) (n : Nat) : CodeWord :=
  let d := (ngetD 0 k.acc (2 * n + 1)).zeroExtend 64 <<< 32 ||| (ngetD 0 k.acc (2 * n)).zeroExtend 64
  ⟨d, checkByte d ^^^ ngetD 0 k.accSyn n⟩

/-- Place an accumulator word. -/
def setAccCell (k : Cluster) (n : Nat) (w : CodeWord) : Cluster :=
  { k with acc := nput 0 (nput 0 k.acc (2 * n) (w.data.setWidth 32)) (2 * n + 1) ((w.data >>> 32).setWidth 32),
           accSyn := nput 0 k.accSyn n (syndromeOf w) }

/-! ### The stash (R152, R153) -/

/-- Release a tag: its granules and its side-memory records (R152, R153). -/
def releaseTag (s : State) (c t : Nat) : State :=
  match nget (clu s c).stash t with
  | none => s
  | some e =>
    let s := modClu s c (fun k => { k with stash := ndel k.stash t,
                                           side := k.side.filter (fun r => !e.recs.contains r.1) })
    let s := fsub s F.SEQ_STH_TAGS.LIVE (if e.foot = 0 then 0 else 1) 0 c
    let s := fsub s F.SEQ_ROW_STAT.SIDE_USED e.recs.length 0 c
    if e.spill then
      let s := fsub s F.SEQ_STH_SPILLG.GRAN e.gran 0 c
      match partOf s c with
      | some p => fsub s F.HUB_STH_SPILLUSED.GRAN e.gran p
      | none => s
    else fsub s F.SEQ_STH_USED.GRAN e.gran 0 c

/-- Every tag is released and the stash and side memory are emptied (R152, R153). -/
def emptyStash (s : State) (c : Nat) : State :=
  let s := (clu s c).stash.foldl (fun s e => releaseTag s c e.1) s
  modClu s c (fun k => { k with stash := [], side := [] })

/-! ### Cutting a run short -/

/-- No token of the cluster is reserved any more (R175). -/
def clearReservations (s : State) (c : Nat) : State := foldRange 256 (fun s k => setTokPending s c k 0) s

/-- Engine e and channel e of the cluster have nothing queued and nothing running. -/
def discardUnit (c : Nat) (s : State) (e : Nat) : State :=
  let s := fput s F.SEQ_MX_STAT.QUEUED 0 e c
  let s := fput s F.SEQ_MX_STAT.BUSY 0 e c
  let s := fput s F.SEQ_MX_STAT.RAMP 0 e c
  let s := fput s F.SEQ_DMA_STAT.QUEUED 0 e c
  if fget s F.SEQ_DMA_STAT.STATE e c = 1 then fput s F.SEQ_DMA_STAT.STATE 0 e c else s

/-- The cluster's engine starts leave the wake queue (R398). -/
def withdrawStarts (s : State) (c : Nat) : State :=
  let q := s.power.queue.filter (fun r => r.code < 64 + 4 * c || 64 + 4 * c + 3 < r.code)
  fput { s with power := { s.power with queue := q } } F.PWR_TOK_STAT.QUEUED q.length

/-- WRITE packets of the cluster's operations are forgotten. -/
def dropSent (s : State) (c : Nat) : State := { s with sent := s.sent.filter (fun x => !(x.2.kind == 0 && x.2.who == c)) }

/-- Discard the operations in flight of a cluster with their token reservations; no token rises (R175, R185). -/
def discardOps (s : State) (c : Nat) : State :=
  let s := fput (fput (clearReservations s c) F.SEQ_STAT.INFL_F 0 0 c) F.SEQ_STAT.INFL_B 0 0 c
  let s := fput (foldRange 4 (discardUnit c) s) F.SEQ_ROW_STAT.BUSY 0 0 c
  modClu (dropSent (withdrawStarts s c) c) c (fun k => { k with inflight := [], tiles := [], ramp := [] })

/-- Both streams of a cluster stop issuing; nothing they waited for remains (R185). -/
def stopStreams (s : State) (c : Nat) : State :=
  let s := modStr s c .F (fun x => { x with running := false, lastCycle := false, block := none, stalled := none, load := none })
  let s := modStr s c .B (fun x => { x with running := false, lastCycle := false, block := none, stalled := none, load := none })
  let s := fput s F.SEQ_STAT.BLOCK_F 0 0 c
  fput s F.SEQ_STAT.BLOCK_B 0 0 c

def otherStream : Stream → Stream
  | .F => .B
  | .B => .F

/-- The trapping stream stops at its instruction; the other one has the rest of the cycle (R185 step 1, R193). -/
def trapStreams (s : State) (c : Nat) (st : Stream) : State :=
  let x := stream s c (otherStream st)
  modStr (stopStreams s c) c (otherStream st) (fun y => { y with lastCycle := x.running && !x.ended, block := x.block })

/-- The trap registers of a cluster take a trap (R184, R185 step 2). -/
def recordTrap (s : State) (c : Nat) (st : Stream) (pc cause info : Nat) (deferred : Bool) : State :=
  let s := fput s F.SEQ_TRAP_CAUSE.VALID 1 0 c
  let s := fput s F.SEQ_TRAP_CAUSE.DEFERRED (b2n deferred) 0 c
  let s := fput s F.SEQ_TRAP_CAUSE.STREAM (if st = .B then 1 else 0) 0 c
  let s := fput s F.SEQ_TRAP_CAUSE.CAUSE cause 0 c
  let s := fput s F.SEQ_TRAP_PC.PC pc 0 c
  setReg s .SEQ_TRAP_INFO (BitVec.ofNat 64 info) 0 c

/-- A trap after the recorded one counts in MORE; one of F in the cycle of a recorded trap of B takes its place (R185, R193). -/
def laterTrap (s : State) (c : Nat) (st : Stream) (pc cause info : Nat) (deferred : Bool) : State :=
  let s := fsat s F.SEQ_TRAP_CAUSE.MORE 1 0 c
  if st = .F && (stream s c .F).lastCycle then recordTrap s c st pc cause info deferred else s

/-- A cluster traps (R184, R185 steps 1 to 3): the first trap of a run is recorded in SEQ_TRAP_CAUSE, SEQ_TRAP_PC and SEQ_TRAP_INFO,
later ones count in MORE; the streams stop, operations in flight are discarded, a TRAP notice is placed. -/
def takeTrap (s : State) (c : Nat) (st : Stream) (pc cause info : Nat) (deferred : Bool) : State :=
  if fbit s F.SEQ_TRAP_CAUSE.VALID 0 c then laterTrap s c st pc cause info deferred
  else
    let s := trapStreams (recordTrap s c st pc cause info deferred) c st
    let s := discardOps s c
    let s := fput s F.SEQ_STAT.STATE 2 0 c
    seqNotice s c 2

/-- The cycle in which a cluster trapped ends for a stream that had the rest of it; what it issued in it is discarded too (R185). -/
def endCycle (s : State) (c : Nat) : State := discardOps (stopStreams s c) c

/-- Close every accumulator slot of a cluster: open slots of discarded work are discarded (R100; assumption log 13). -/
def closeSlots (s : State) (c : Nat) : State :=
  let s := foldRange 4 (fun s e => fput s F.SEQ_MX_STAT.OPEN 0 e c) s
  modClu s c (fun k => { k with slots := [] })

/-- Every cluster of the partition stops; operations in flight and their reservations are discarded, the open slots too (R100, R185). -/
def stopRun (s : State) (p : Nat) : State :=
  let s := (clustersOf s p).foldl (fun s c =>
    let s := closeSlots (discardOps (stopStreams s c) c) c
    if fget s F.SEQ_STAT.STATE 0 c = 1 then fput s F.SEQ_STAT.STATE 0 0 c else s) s
  modPart s p (fun x => { x with running := false, abandoned := true, updates := [] })

/-- Step 4 of R185: the clusters stop, and the stash and side memory are emptied. -/
def abandonRun (s : State) (p : Nat) : State := (clustersOf s p).foldl emptyStash (stopRun s p)

/-- The step of partition p is faulted: the first word met gives the entry (R265). src: the requester, addr: the word, event: 1 to 4. -/
def stepFault (s : State) (p src addr event : Nat) : State :=
  match (part s p).fault with
  | some _ => s
  | none => modPart s p (fun x => { x with fault := some (src, addr, event) })

/-- The step of the cluster's partition is faulted when a bad word was met. -/
def faultFor (s : State) (c src : Nat) (bad : Option (Nat × Nat)) : State :=
  match bad, partOf s c with
  | some (a, ev), some p => stepFault s p src a ev
  | _, _ => s

/-- Management core n reads ranges for an act. On a bad word the act is not done, and the hub sequencer resets the core (R264). -/
def coreReads (n : Nat) (rs : List (Nat × Nat)) (act : State → State) (s : State) : State :=
  match checkRanges (srcCore n) s rs with
  | (s, none) => act s
  | (s, some (a, _)) => modCore s n (fun x => { x with met := some (a, (ngetD (synAt s a) s.lineSyn a).toNat) })

/-! ### Trouble counters (R109 to R112) -/

def troubleBase (p : Nat) : Nat := 0x7E0000800000 + 0x20000 * p

/-- Layers of the partition's image; 0 with none. -/
def layersOf (s : State) (p : Nat) : Nat := match (part s p).image with
  | some im => im.layers
  | none => 0

/-- The record that counts for a layer number (R110). -/
def troubleRecord (s : State) (p layer : Nat) : Nat :=
  troubleBase p + 64 * (if layer < layersOf s p && layer ≠ 0x7FF then layer else 0x7FF)

/-- Add to a 32-bit count of a trouble record, saturating (R112). -/
def troubleAdd (s : State) (p layer off n : Nat) : State :=
  if n = 0 then s
  else
    let a := troubleRecord s p layer + off
    wrNat s a 4 (satAdd 32 (rdNat s a 4) n)

/-- The first counted event of a record sets FIRST (R112): the event counts are still 0, and FIRST too. A LOSS_SPIKE sets none, and a FIRST
whose 32 bits of tick are 0 counts as not set (assumption log 73). -/
def troubleFirst (s : State) (p layer : Nat) : State :=
  let a := troubleRecord s p layer
  if rdNat s a 24 = 0 && rdNat s (a + 44) 4 = 0 then wrNat s (a + 44) 4 (tickNow s % 2 ^ 32) else s

/-- Count trouble events: kind 0 NONFINITE, 1 SPILL, 2 CRUSH, 3 SCALE_RANGE, 4 LONGSUM, 5 SCALE_MISS; the first sets FIRST
(R109, R112). -/
def troubleEvent (s : State) (p layer kind n : Nat) : State :=
  if n = 0 then s else troubleAdd (troubleFirst s p layer) p layer (4 * kind) n

/-- Raise AMAX of a role (0 W, 1 X, 2 G) to a magnitude (R112). -/
def troubleAmax (s : State) (p layer role : Nat) (v : Num) : State :=
  if numIsFinite v && !numIsZero v then
    let a := troubleRecord s p layer + 32 + 4 * role
    if numLt (f32Of (BitVec.ofNat 32 (rdNat s a 4))) (numAbs v)
    then wrNat s a 4 (f32Bits (toF32 (numAbs v))).toNat else s
  else s

/-! ### Conditions on the whole device -/

/-- Clocks stopped by a freeze (R472). -/
def isFrozen (s : State) : Bool := s.freeze.frozen

/-- The P40 is stopped (R403). -/
def isStopped (s : State) : Bool := fbit s F.PWR_STOP_STAT.STOPPED

/-- Core n runs (R24); until firmware starts only HC0 does, in ROM (R436). -/
def coreRuns (s : State) (n : Nat) : Bool := fget s F.HUB_CORE_STAT.STATE n == 0 && (s.boot.fwRuns || n == 0)

/-- A command that only acts while the clocks run: without effect on a frozen P40 (R473). -/
def unlessFrozen (s : State) (t : State) : Out := .next (if isFrozen s then s else t)

end Sys2Proof.Machine
end

