-- ==== Sys2Proof/Machine/Operands.lean ====
section
/-! DEFINITION. Operand forms: the fields of the instruction formats (R196, R208 to R223), tensor descriptors and their checks (R168, R169,
R201), where elements, scales and outlier maps lie (R42, R47, R48), reading an element (R49, R57, R58) and writing a tensor
(R51 to R56). -/

namespace Sys2Proof.Machine

/-! ### Instruction fields -/

/-- Bits hi down to lo of the operand fields of an instruction. -/
def fieldOf (i : Issue) (hi lo : Nat) : Nat := natBits i.f.toNat hi lo

/-- Formats R, I, M, D, J (R196). -/
def fRD (i : Issue) : Nat := fieldOf i 51 46
def fRA (i : Issue) : Nat := fieldOf i 45 40
def fRB (i : Issue) : Nat := fieldOf i 39 34
def fCCR (i : Issue) : Nat := fieldOf i 33 30
def fCCI (i : Issue) : Nat := fieldOf i 39 36
def fIMM (i : Issue) : BitVec 32 := BitVec.ofNat 32 (fieldOf i 31 0)
def fOFF (i : Issue) : BitVec 32 := BitVec.ofNat 32 (fieldOf i 31 0)
def fFIELD (i : Issue) : Nat := fieldOf i 39 35
/-- Format Y (R196). -/
def fK (i : Issue) : Nat := fieldOf i 47 40
def fKIND (i : Issue) : Nat := fieldOf i 39 38
def fBAR (i : Issue) : Nat := fieldOf i 37 32
def fV (i : Issue) : Nat := fieldOf i 15 0
/-- Format X (R196). -/
def fSELF (i : Issue) : Nat := fieldOf i 45 45
def fMB (i : Issue) : Nat := fieldOf i 44 39
/-- Format Z (R196). -/
def fIMM48 (i : Issue) : Nat := fieldOf i 47 0
/-- The token of every tensor format (R195). -/
def fTok (i : Issue) : Nat := fieldOf i 7 0

/-! ### Descriptors (R168) -/

/-- Bits hi down to lo of word w of a descriptor. -/
def dField (d : BitVec 512) (w hi lo : Nat) : Nat := natBits d.toNat (64 * w + hi) (64 * w + lo)

/-- A descriptor as an operation uses it: where the bytes lie is resolved (a stashed tensor lies where the stash manager put it). -/
structure Tens where
  code : Nat
  fmt : Fmt
  layout : Nat
  ndim : Nat
  base : Nat
  n0 : Nat
  n1 : Nat
  n2 : Nat
  n3 : Nat
  st1 : Nat
  st2 : Nat
  st3 : Nat
  hasMap : Bool
  omap : Nat
  scaleBits : BitVec 32
  tag : Nat
  rel : Bool
  trq : Bool
  deriving DecidableEq, Repr

/-- Bytes of n elements along dimension 0 (R42). -/
def elemBytes (f : Fmt) (n : Nat) : Nat := n * fmtBits f / 8

/-- Element footprint in bytes (R47). -/
def footOf (t : Tens) : Nat :=
  elemBytes t.fmt t.n0 + (t.n1 - 1) * t.st1 + (t.n2 - 1) * t.st2 + (t.n3 - 1) * t.st3

/-- First byte of the scale array (R47): after the elements' footprint in whole 64 bytes from BASE, as the pseudocode has it; where BASE is not
64-byte aligned the text's first aligned address differs (assumption log 77). -/
def scaleBase (t : Tens) : Nat := t.base + 64 * cdiv (footOf t) 64

/-- Bytes of the scale array (R47). -/
def scaleBytes (t : Tens) : Nat :=
  if t.layout = 1 then t.n0 * t.n1 * t.n2 * t.n3 / 32
  else if t.layout = 2 then t.n0 * t.n1 * t.n2 * t.n3 / 1024
  else 0

/-- Slices of the outlier map (R48). -/
def mapSlices (t : Tens) : Nat := cdiv t.n0 128

/-- Bytes of the outlier map (R48). -/
def mapBytes (t : Tens) : Nat :=
  64 * cdiv (16 * mapSlices t) 64 + 16 * mapSlices t * t.n1 * t.n2 * t.n3

/-- The descriptor as used by an operation of cluster c. A stride above NDIM is ignored (R169). A stashed tensor's map follows
its scale array (assumption log 12). -/
def tensOf (c : Nat) (d : BitVec 512) : Tens :=
  let nd := dField d 0 59 58
  let tag := dField d 6 59 48
  let code := dField d 0 53 48
  let t : Tens :=
    { code := code, fmt := (fmtOfCode code).getD .none, layout := dField d 0 55 54, ndim := nd,
      base := if tag = 0 then dField d 0 47 0 else stashBase c tag,
      n0 := dField d 1 31 0, n1 := dField d 1 63 32, n2 := dField d 2 31 0, n3 := dField d 2 63 32,
      st1 := if 1 ≤ nd then dField d 3 47 0 else 0, st2 := if 2 ≤ nd then dField d 4 47 0 else 0,
      st3 := if 3 ≤ nd then dField d 5 47 0 else 0,
      hasMap := dField d 6 47 0 ≠ 0, omap := dField d 6 47 0, scaleBits := BitVec.ofNat 32 (dField d 7 31 0),
      tag := tag, rel := dField d 0 57 57 = 1, trq := dField d 0 56 56 = 1 }
  if tag = 0 then t else { t with omap := 64 * cdiv (scaleBase t + scaleBytes t) 64 }

/-- Footprint of a stashed tensor: elements, scale array, outlier map (R152). -/
def stashFoot (t : Tens) : Nat :=
  let e := if t.layout = 0 then footOf t else 64 * cdiv (footOf t) 64 + scaleBytes t
  if t.hasMap then 64 * cdiv e 64 + mapBytes t else e

/-- Whether a descriptor is absent in a position that allows it (R37). -/
def isAbsent (d : BitVec 512) : Bool := dField d 0 53 48 = 0

/-! ### Descriptor checks (R201) -/

/-- What an operand position asks of its descriptor. -/
structure Position where
  dest : Bool
  fmts : List Fmt
  layouts : List Nat
  noMap : Bool := false
  needMap : Bool := false
  multiple32 : Bool := false
  rowLimit : Bool := false

/-- Reserved bits of a descriptor are 0 and VER is 1 (R168, R169). -/
def descVersionOk (d : BitVec 512) : Bool :=
  dField d 0 63 60 = 1 && dField d 3 63 48 = 0 && dField d 4 63 48 = 0 && dField d 5 63 48 = 0 &&
  dField d 6 63 60 = 0 && dField d 7 63 32 = 0

/-- Lengths by NDIM (R169). -/
def descDimsOk (t : Tens) : Bool :=
  1 ≤ t.n0 && (if 1 ≤ t.ndim then 1 ≤ t.n1 else t.n1 = 1) && (if 2 ≤ t.ndim then 1 ≤ t.n2 else t.n2 = 1) &&
  (if 3 ≤ t.ndim then 1 ≤ t.n3 else t.n3 = 1)

/-- Lengths that are the multiples R42 and R46 require; R134 where the position says so. -/
def descMultipleOk (pos : Position) (t : Tens) : Bool :=
  (fmtBits t.fmt ≠ 4 || t.n0 % 2 = 0) &&
  (t.layout ≠ 1 || t.n0 % 32 = 0) &&
  (t.layout ≠ 2 || (t.n0 % 32 = 0 && t.n1 % 32 = 0)) &&
  (!pos.multiple32 || (t.n0 % 32 = 0 && t.n1 % 32 = 0))

/-- SCALE under layout 0 is finite, normal and not zero (R169). -/
def descScaleOk (t : Tens) : Bool :=
  t.layout ≠ 0 || (let e := bitsOf t.scaleBits 30 23; e ≠ 0 && e ≠ 255)

/-- BASE and the strides are multiples of the element size (R169). -/
def descAlignOk (t : Tens) : Bool :=
  let sz := max 1 (fmtBits t.fmt / 8)
  (t.tag ≠ 0 || t.base % sz = 0) && t.st1 % sz = 0 && t.st2 % sz = 0 && t.st3 % sz = 0

/-- The strides of a destination keep its elements apart (R169). -/
def descStridesOk (pos : Position) (t : Tens) : Bool :=
  !pos.dest || ((t.ndim < 1 || elemBytes t.fmt t.n0 ≤ t.st1) && (t.ndim < 2 || t.n1 * t.st1 ≤ t.st2) &&
    (t.ndim < 3 || t.n2 * t.st2 ≤ t.st3))

/-- The outlier-map address: aligned, present or absent as the position asks (R48, R101). -/
def descMapOk (pos : Position) (d : BitVec 512) : Bool :=
  let o := dField d 6 47 0
  o % 64 = 0 && !(pos.noMap && o ≠ 0) && !(pos.needMap && o = 0)

/-- The first failing check of R201 among 1 to 10 and 14, in ascending number. -/
def firstCheck (pos : Position) (d : BitVec 512) : Option Nat :=
  let t := tensOf 0 d
  if !descVersionOk d then some 1
  else if !descDimsOk t then some 2
  else if (fmtOfCode t.code).isNone then some 3
  else if !pos.fmts.contains t.fmt || t.fmt = .none then some 4
  else if !layoutAllowed t.fmt t.layout || !pos.layouts.contains t.layout then some 5
  else if !descMultipleOk pos t then some 6
  else if !descScaleOk t then some 7
  else if !descAlignOk t then some 8
  else if !descStridesOk pos t then some 9
  else if !descMapOk pos d then some 10
  else if pos.rowLimit && 32768 < t.n0 then some 14
  else none

/-- The footprint, scale array and map of an operand, as address ranges, for a tensor that is not stashed (R169). -/
def operandRanges (t : Tens) : List (Nat × Nat) :=
  [(t.base, footOf t)] ++ (if t.layout = 0 then [] else [(scaleBase t, scaleBytes t)]) ++
  (if t.hasMap then [(t.omap, mapBytes t)] else [])

/-- End of the range of a list that an address lies in; the address where it lies in none. -/
def endIn (l : List (Nat × Nat)) (a : Nat) : Nat := l.foldl (fun m r => if r.1 ≤ a && a < r.2 then max m r.2 else m) a

/-- The near store of a cluster and its deep store outside the stash (R229). -/
def ownStores (s : State) (c : Nat) : List (Nat × Nat) := [(nearBase c, nearBase c + 0x2000000), (deepBase c, stashStart s c)]

/-- The first byte of [a, a + n) outside the window that a lies in, or in the code region for a destination (R169, R179). -/
def rangeBreach (s : State) (p a n : Nat) (dest : Bool) : Option Nat :=
  let out := if inWindows s p a n then none else some (endIn ((winLo s p, winHi s p) :: (clustersOf s p).flatMap (ownStores s)) a)
  let code := match (part s p).image with
    | some im => if dest && inCode s p a n then some (max a im.codeBase) else none
    | none => none
  match out, code with
  | some x, some y => some (min x y)
  | x, y => x.or y

/-- The first address of an operand that its partition may not touch so (R169, R179). -/
def operandBreach (s : State) (p : Nat) (t : Tens) (dest : Bool) : Option Nat :=
  if t.tag ≠ 0 then none else (operandRanges t).findSome? (fun r => rangeBreach s p r.1 r.2 dest)

/-! ### Where elements lie -/

/-- Byte address of an element's first bit (R42, R47). -/
def elemAddr (t : Tens) (i0 i1 i2 i3 : Nat) : Nat :=
  t.base + i0 * fmtBits t.fmt / 8 + i1 * t.st1 + i2 * t.st2 + i3 * t.st3

/-- Address of the scale byte of an element (R47). -/
def scaleAddr (t : Tens) (i0 i1 i2 i3 : Nat) : Nat :=
  let b0 := t.n0 / 32
  if t.layout = 1 then scaleBase t + i0 / 32 + b0 * (i1 + t.n1 * (i2 + t.n2 * i3))
  else scaleBase t + i0 / 32 + b0 * (i1 / 32 + t.n1 / 32 * (i2 + t.n2 * i3))

/-- Address of side value m of slice j of a row (R48). -/
def sideAddr (t : Tens) (j m i1 i2 i3 : Nat) : Nat :=
  t.omap + 64 * cdiv (16 * mapSlices t) 64 + 16 * (j + mapSlices t * (i1 + t.n1 * (i2 + t.n2 * i3))) + 2 * m

/-- An element's code (R42). -/
def readCode (s : State) (t : Tens) (i0 i1 i2 i3 : Nat) : Nat :=
  let a := elemAddr t i0 i1 i2 i3
  if fmtBits t.fmt = 4 then
    let b := (rdByte s a).toNat
    if i0 % 2 = 0 then b % 16 else b / 16
  else rdNat s a (fmtBits t.fmt / 8)

/-- Write an element's code (R42). -/
def writeCode (s : State) (t : Tens) (i0 i1 i2 i3 code : Nat) : State :=
  let a := elemAddr t i0 i1 i2 i3
  if fmtBits t.fmt = 4 then
    let b := (rdByte s a).toNat
    wrNat s a 1 (if i0 % 2 = 0 then b / 16 * 16 + code % 16 else code % 16 * 16 + b % 16)
  else wrNat s a (fmtBits t.fmt / 8) code

/-- The index table of the map: for each slice the offsets of its channels (R48). -/
def loadMap (s : State) (t : Tens) : List (List Nat) :=
  if t.hasMap then
    (List.range (mapSlices t)).map (fun j =>
      let n := (rdByte s (t.omap + 16 * j)).toNat
      (List.range (min n 8)).map (fun m => (rdByte s (t.omap + 16 * j + 1 + m)).toNat))
  else []

/-- Whether offsets rise strictly. -/
def risesStrictly : List Nat → Bool
  | a :: b :: t => a < b && risesStrictly (b :: t)
  | _ => true

/-- R49: every entry of the index table holds. -/
def mapValid (s : State) (t : Tens) : Bool :=
  !t.hasMap || (List.range (mapSlices t)).all (fun j =>
    let n := (rdByte s (t.omap + 16 * j)).toNat
    let idx := (List.range (min n 8)).map (fun m => (rdByte s (t.omap + 16 * j + 1 + m)).toNat)
    n ≤ 8 && risesStrictly idx && idx.all (fun x => x < 128 && x < t.n0 - 128 * j))

/-- Position of a channel among the listed ones of its slice. -/
def listedAt (mp : List (List Nat)) (i0 : Nat) : Option Nat := (nth mp (i0 / 128) []).findIdx? (· == i0 % 128)

/-- An element as a unit reads it: value, whether a bad word took part, whether SCALE_RANGE was met (R58). -/
structure Elem where
  v : Num
  bad : Bool
  sr : Bool
  deriving DecidableEq, Repr

def zeroElem : Elem := ⟨numZero, false, false⟩

/-- Whether an index lies inside a tensor. -/
def inTens (t : Tens) (i0 i1 i2 i3 : Nat) : Bool := i0 < t.n0 && i1 < t.n1 && i2 < t.n2 && i3 < t.n3

/-- R57: decode an element; a position beyond a length is +0 and its scale is not read (R199). exact: keep a block-scaled value
exact, beyond FP32 too (R137). -/
def readElem (s : State) (t : Tens) (mp : List (List Nat)) (exact inf : Bool) (i0 i1 i2 i3 : Nat) : Elem :=
  if !inTens t i0 i1 i2 i3 then zeroElem
  else
    match listedAt mp i0 with
    | some m =>
      let a := sideAddr t (i0 / 128) m i1 i2 i3
      let o := bf16Of (rdNat s a 2)
      ⟨if t.layout = 0 then f32Mul o (f32Of t.scaleBits) else o, badIn s a (a + 2), false⟩
    | none =>
      let a := elemAddr t i0 i1 i2 i3
      let q := readCode s t i0 i1 i2 i3
      let bad := badIn s a (a + max 1 (fmtBits t.fmt / 8))
      if t.layout = 0 then ⟨f32Mul (elemValue t.fmt false q) (f32Of t.scaleBits), bad, false⟩
      else
        let sa := scaleAddr t i0 i1 i2 i3
        let e := (rdByte s sa).toNat
        let bad := bad || badIn s sa (sa + 1)
        if exact then ⟨if e = 0xFF then .nan else numScale (elemValue t.fmt true q) ((e : Int) - 127), bad, false⟩
        else let (v, sr) := decodeBlockElem t.fmt inf e q; ⟨v, bad, sr⟩

/-- The index table of a tensor's outlier map. -/
def mapRanges (t : Tens) : List (Nat × Nat) := if t.hasMap then [(t.omap, t.omap + 16 * mapSlices t)] else []

/-- Address ranges that reading a window [i0, i0 + w) × [i1, i1 + h) of every (i2, i3) given touches, clipped to the lengths: rows of
elements, their scale bytes and their side values. -/
def windowParts (t : Tens) (i0 w i1 h i2 k2 i3 k3 : Nat) : List (Nat × Nat) :=
  let w := min w (t.n0 - i0)
  let h := min h (t.n1 - i1)
  let k2 := min k2 (t.n2 - i2)
  let k3 := min k3 (t.n3 - i3)
  if w = 0 then []
  else
    (List.range k3).flatMap (fun c => (List.range k2).flatMap (fun b => (List.range h).flatMap (fun a =>
      let r1 := i1 + a; let r2 := i2 + b; let r3 := i3 + c
      let lo := elemAddr t i0 r1 r2 r3
      let hi := elemAddr t (i0 + w - 1) r1 r2 r3 + max 1 (fmtBits t.fmt / 8)
      [(lo, hi)] ++
      (if t.layout = 0 then [] else [(scaleAddr t i0 r1 r2 r3, scaleAddr t (i0 + w - 1) r1 r2 r3 + 1)]) ++
      (if t.hasMap then [(sideAddr t (i0 / 128) 0 r1 r2 r3, sideAddr t ((i0 + w - 1) / 128) 7 r1 r2 r3 + 2)] else []))))

/-- The same with the whole index table (R49). -/
def windowRanges (t : Tens) (i0 w i1 h i2 k2 i3 k3 : Nat) : List (Nat × Nat) :=
  if min w (t.n0 - i0) = 0 then [] else mapRanges t ++ windowParts t i0 w i1 h i2 k2 i3 k3

/-- Ranges of a whole tensor. -/
def wholeRanges (t : Tens) : List (Nat × Nat) := windowRanges t 0 t.n0 0 t.n1 0 t.n2 0 t.n3

/-! ### Writing a tensor -/

/-- What encoding has produced so far: the state, words to poison, counts of NONFINITE, CRUSH and blocks, the largest magnitude. -/
structure Enc where
  s : State
  bads : List Nat
  nf : Nat
  cr : Nat
  bl : Nat
  amax : Num

def encStart (s : State) : Enc := ⟨s, [], 0, 0, 0, numZero⟩

/-- The larger of a running maximum and a finite magnitude. -/
def amaxOf (a v : Num) : Num := if numIsFinite v && numLt a (numAbs v) then numAbs v else a

/-- A value with its place along dimensions 0 and 1, and whether a bad word took part. -/
structure Placed where
  i0 : Nat
  i1 : Nat
  v : Num
  bad : Bool

/-- Write one element under layout 0 (R52, R53, R60 to R62). -/
def storeScalar (t : Tens) (wrap inf : Bool) (i2 i3 : Nat) (e : Enc) (x : Placed) : Enc :=
  let c := encodeScalar t.fmt (f32Of t.scaleBits) wrap inf x.v
  { e with s := writeCode e.s t x.i0 x.i1 i2 i3 c.code,
           bads := if x.bad then elemAddr t x.i0 x.i1 i2 i3 :: e.bads else e.bads,
           nf := e.nf + b2n c.made, amax := amaxOf e.amax x.v }

/-- Write one block or sheet (R52 to R56); an element that falls outside the lengths is not written. -/
def storeBlock (t : Tens) (inf : Bool) (i2 i3 : Nat) (e : Enc) (xs : List Placed) : Enc :=
  match xs with
  | [] => e
  | x0 :: _ =>
    let b := encodeBlock t.fmt inf (xs.map (·.v))
    let bad := xs.any (·.bad)
    let s := (xs.zip b.codes).foldl (fun s y =>
      if inTens t y.1.i0 y.1.i1 i2 i3 then writeCode s t y.1.i0 y.1.i1 i2 i3 y.2 else s) e.s
    let sa := scaleAddr t x0.i0 x0.i1 i2 i3
    let s := if inTens t x0.i0 x0.i1 i2 i3 then wrNat s sa 1 b.scale else s
    let bads := if bad then sa :: xs.map (fun x => elemAddr t x.i0 x.i1 i2 i3) ++ e.bads else e.bads
    { e with s := s, bads := bads, nf := e.nf + b2n b.nonfinite, cr := e.cr + b2n b.crush.isSome, bl := e.bl + 1,
             amax := xs.foldl (fun a x => amaxOf a x.v) e.amax }

/-- Write the window [i0, i0 + w) × [i1, i1 + h) of a tensor from a function of places, by its layout. -/
def storeWindow (t : Tens) (wrap inf : Bool) (i0 w i1 h i2 i3 : Nat) (val : Nat → Nat → Num × Bool) (e : Enc) : Enc :=
  let at_ := fun x y => let r := val x y; Placed.mk x y r.1 r.2
  if t.layout = 0 then
    (List.range h).foldl (fun e b => (List.range w).foldl (fun e a =>
      if i0 + a < t.n0 && i1 + b < t.n1 then storeScalar t wrap inf i2 i3 e (at_ (i0 + a) (i1 + b)) else e) e) e
  else
    let bh := if t.layout = 2 then 32 else 1
    (List.range (cdiv h bh)).foldl (fun e b => (List.range (cdiv w 32)).foldl (fun e a =>
      if i0 + 32 * a < t.n0 && i1 + bh * b < t.n1 then
        storeBlock t inf i2 i3 e ((List.range bh).flatMap (fun y => (List.range 32).map (fun x =>
          at_ (i0 + 32 * a + x) (i1 + bh * b + y))))
      else e) e) e

/-- Write a whole tensor from a function of all four places. -/
def storeAll (t : Tens) (wrap inf : Bool) (val : Nat → Nat → Nat → Nat → Num × Bool) (e : Enc) : Enc :=
  (List.range t.n3).foldl (fun e c => (List.range t.n2).foldl (fun e b =>
    storeWindow t wrap inf 0 t.n0 0 t.n1 b c (fun x y => val x y b c) e) e) e

/-- Poison the words that hold output derived from bad words (R96, R256). -/
def finishEnc (e : Enc) : State := e.bads.foldl poisonAt e.s

end Sys2Proof.Machine
end

