-- ==== Sys2Proof/Machine/Recipe.lean ====
section
/-! DEFINITION. Recipe entries and scale state (R115 to R121). -/

namespace Sys2Proof.Machine

def rcpAddr (s : State) (p l : Nat) : Nat := fget s F.HUB_RCP_BASE.ADDR p + 8 * l
def sclAddr (s : State) (p l : Nat) : Nat := fget s F.HUB_SCL_BASE.ADDR p + 16 * l

/-- Live entry of a layer (R116). -/
def rcp (s : State) (p l : Nat) : Nat := rdNat s (rcpAddr s p l) 8

/-- Live and staged entries, scale state and trouble records of the layers of a partition, which HC1 reads (R109 to R124). -/
def policyTables (s : State) (p : Nat) : List (Nat × Nat) :=
  let n := layersOf s p
  [(rcpAddr s p 0, rcpAddr s p n), (rcpAddr s p 0 + 0x4000, rcpAddr s p n + 0x4000), (sclAddr s p 0, sclAddr s p n),
   (troubleBase p, troubleBase p + 64 * n), (troubleBase p + 64 * 0x7FF, troubleBase p + 0x20000)]

def rcpLevel (e : Nat) : Nat := natBits e 37 36
def rcpBase (e : Nat) : Nat := natBits e 35 34
def rcpMax (e : Nat) : Nat := natBits e 33 32

/-- The 8-bit form of a weight format (R117). -/
def form8 : Fmt → Fmt
  | .e2m1 => .e4m3
  | .int4 => .int8
  | f => f

/-- Format and layout of role W (the forward copy), X or G at the entry's level (R117). -/
def roleForm (e role : Nat) : Fmt × Nat :=
  if 2 ≤ rcpLevel e then (.bf16, 0)
  else
    let w := (fmtOfCode (natBits e 63 58)).getD .none
    match role with
    | 0 => (if rcpLevel e = 0 then w else form8 w, natBits e 45 44)
    | 1 => ((fmtOfCode (natBits e 57 52)).getD .none, natBits e 43 42)
    | _ => ((fmtOfCode (natBits e 51 46)).getD .none, natBits e 41 40)

/-- Format and layout of the backward copy (R117). -/
def backForm (e : Nat) : Fmt × Nat :=
  if 2 ≤ rcpLevel e then (.bf16, 0)
  else
    let w := (fmtOfCode (natBits e 63 58)).getD .none
    (if w = .int8 || w = .int4 then .int8 else .e4m3, natBits e 45 44)

/-- A role whose scale R121 computes. -/
def isScaled (e role : Nat) : Bool := (roleForm e role).2 = 0 && (roleForm e role).1 ≠ .bf16

/-- Largest value of a format as m · 2^e (R121). -/
def fmaxOf : Fmt → Nat × Int
  | .e4m3 => (7, 6)
  | .e5m2 => (7, 13)
  | .e2m1 => (3, 1)
  | .int8 => (127, 0)
  | .int4 => (7, 0)
  | _ => (1, 0)

/-- The scale of R121 as an FP32 pattern, for amax m · 2^e. -/
def scaleFor (m : Nat) (e : Int) (h : Nat) (f : Fmt) : Nat :=
  let b := fmaxOf f
  let e := e + h
  let k := magLog2 m e - magLog2 b.1 b.2
  let k := if magLt b.1 (b.2 + k) m e then k + 1 else k
  ((max (-126) (min 127 k)) + 127).toNat * 2 ^ 23

/-- s_r of every scaled role from the trouble record's AMAX, with headroom h (R121). -/
def rescale (s : State) (p l h : Nat) : State :=
  let e := rcp s p l
  (List.range 3).foldl (fun s role =>
    if isScaled e role then
      match f32Of (BitVec.ofNat 32 (rdNat s (troubleBase p + 64 * l + 32 + 4 * role) 4)) with
      | .fin _ m x => if m = 0 then s else wrNat s (sclAddr s p l + 4 * role) 4 (scaleFor m x h (roleForm e role).1)
      | _ => s
    else s) s

/-- Headroom, threshold and generation of a layer (R120). -/
def sclOT (s : State) (p l : Nat) : Nat := rdNat s (sclAddr s p l + 12) 1 % 8
def sclH (s : State) (p l : Nat) : Nat := rdNat s (sclAddr s p l + 13) 1 % 4
def sclGEN (s : State) (p l : Nat) : Nat := rdNat s (sclAddr s p l + 14) 1
def putScl (s : State) (p l ot h gen : Nat) : State :=
  let a := sclAddr s p l
  wrNat (wrNat (wrNat s (a + 12) 1 ot) (a + 13) 1 h) (a + 14) 1 gen

end Sys2Proof.Machine
end

