-- ==== Sys2Proof/Machine/Flags.lean ====
section
/-! DEFINITION. Conditions and event flags: the comparison codes of cmp and cmpi, the logic codes of pop (R202), and the counting of
trouble events by engines, drains and the other units of a cluster (R79, R98, R109, R110). -/

namespace Sys2Proof.Machine

/-- cond(CC, a, b) of R202; codes 6 to 15 are reserved. -/
def condOf (cc : Nat) (a b : Word) : Option Bool :=
  match cc with
  | 0 => some (a == b)
  | 1 => some (a != b)
  | 2 => some (a.slt b)
  | 3 => some (!a.slt b)
  | 4 => some (a.ult b)
  | 5 => some (!a.ult b)
  | _ => none

/-- The logic codes of pop (R202); codes 4 to 15 are reserved. -/
def popOf (cc : Nat) (a b : Bool) : Option Bool :=
  match cc with
  | 0 => some (a && b)
  | 1 => some (a || b)
  | 2 => some (a != b)
  | 3 => some (a && !b)
  | _ => none

/-- Role of a stream's operations: 1 X for F, 2 G for B (R110). -/
def roleOf : Stream → Nat
  | .F => 1
  | .B => 2

/-- Layer register of a stream (R111). -/
def layerFld : Stream → Fld
  | .F => F.SEQ_TRB_LAYERF.LAYER
  | .B => F.SEQ_TRB_LAYERB.LAYER

/-- Count a trouble event of an operation of cluster c (R109, R110). -/
def opEvent (s : State) (c layer kind n : Nat) : State :=
  match partOf s c with
  | some p => troubleEvent s p layer kind n
  | none => s

/-- Count blocks encoded or slices (offset 28 BLOCKS, 24 SLICES) of an operation of cluster c (R112). -/
def opCount (s : State) (c layer off n : Nat) : State :=
  match partOf s c with
  | some p => troubleAdd s p layer off n
  | none => s

/-- Largest magnitude that an operation of cluster c encoded (R112). -/
def opAmax (s : State) (c layer : Nat) (st : Stream) (v : Num) : State :=
  match partOf s c with
  | some p => troubleAmax s p layer (roleOf st) v
  | none => s

/-- NONFINITE counted by engine e or its drain: count register, sticky bit, trouble counter (R79, R98). -/
def engNonfinite (s : State) (c e layer n : Nat) : State :=
  if n = 0 then s
  else opEvent (fset (fsat s F.SEQ_MX_NFCNT.COUNT n e c) F.SEQ_MX_EVT.NONFINITE 1 e c) c layer 0 n

/-- SCALE_RANGE counted by engine e (R79, R98). -/
def engScaleRange (s : State) (c e layer n : Nat) : State :=
  if n = 0 then s
  else opEvent (fset (fsat s F.SEQ_MX_SRCNT.COUNT n e c) F.SEQ_MX_EVT.SCALE_RANGE 1 e c) c layer 3 n

/-- LONGSUM counted for a slot of engine e (R84, R98). -/
def engLongsum (s : State) (c e layer slot : Nat) : State :=
  let s := fset s F.SEQ_MX_LSUM.SLOTS (2 ^ slot) e c
  opEvent (fset s F.SEQ_MX_EVT.LONGSUM 1 e c) c layer 4 1

/-- CRUSH counted by a drain of engine e (R98). -/
def engCrush (s : State) (c e layer n : Nat) : State :=
  if n = 0 then s else opEvent (fset s F.SEQ_MX_EVT.CRUSH 1 e c) c layer 2 n

end Sys2Proof.Machine
end

