-- ==== Sys2Proof/Machine/Barrier.lean ====
section
/-! DEFINITION. The barrier network of this station (R181 to R183, R304, R305): arrivals, completion, release, and the packets it
sends. Barriers 0 to 62 are keyed by number, the instance of barrier 63 of partition p by 64 + p. -/

namespace Sys2Proof.Machine

def bar (s : State) (k : Nat) : BarState := ngetD .reset s.bars k
def setBar (s : State) (k : Nat) (x : BarState) : State := { s with bars := nset s.bars k x }
def modBar (s : State) (k : Nat) (f : BarState → BarState) : State := setBar s k (f (bar s k))

def barKey : BarrierId → Nat
  | .prog b => b.val
  | .verdict p => 64 + p.val

/-- Configuration and status of a barrier (R310): LNK_BARCFGb and LNK_BARSTb, or LNK_VBARCFGp and LNK_VBARSTp. -/
def barEnabled (s : State) (k : Nat) : Bool :=
  if k < 63 then sbit s F.LNK_BARCFG.ENABLE k else sbit s F.LNK_VBARCFG.ENABLE (k - 64)
def barRoot (s : State) (k : Nat) : Bool :=
  if k < 63 then sbit s F.LNK_BARCFG.ROOT k else sbit s F.LNK_VBARCFG.ROOT (k - 64)
def barChildren (s : State) (k : Nat) : Nat :=
  if k < 63 then sget s F.LNK_BARCFG.CHILDREN k else sget s F.LNK_VBARCFG.CHILDREN (k - 64)
def barParent (s : State) (k : Nat) : Nat :=
  if k < 63 then sget s F.LNK_BARCFG.PARENT k else sget s F.LNK_VBARCFG.PARENT (k - 64)
def barGen (s : State) (k : Nat) : Nat :=
  if k < 63 then fget s F.LNK_BARST.GEN k else fget s F.LNK_VBARST.GEN (k - 64)
def setBarGen (s : State) (k v : Nat) : State :=
  if k < 63 then fput s F.LNK_BARST.GEN v k else fput s F.LNK_VBARST.GEN v (k - 64)
def setBarUps (s : State) (k v : Nat) : State :=
  if k < 63 then fput s F.LNK_BARST.UPS v k else fput s F.LNK_VBARST.UPS v (k - 64)
def setBarLocal (s : State) (k v : Nat) : State :=
  if k < 63 then fput s F.LNK_BARST.LOCAL v k else fput s F.LNK_VBARST.LOCAL v (k - 64)

/-- The partition whose image lists barrier b (R181: at most one). -/
def barPart (s : State) (b : Nat) : Option Nat :=
  (List.range 8).find? (fun p => match (part s p).image with
    | some im => natBit im.barriers.toNat b
    | none => false)

/-- Clusters that take part in barrier b: the entry of the participant table, on the image's clusters (R181, R187). -/
def barMembers (s : State) (p b : Nat) : List Nat :=
  match (part s p).image with
  | some im =>
    let mask := rdNat s (im.barPart + 4 * b) 4
    (clustersOf s p).filter (fun c => natBit mask (imageIndex s p c))
  | none => []

/-- Every local participant has arrived: clusters for a program barrier, the hub for an instance of barrier 63 (R304 step 1). -/
def barLocalDone (s : State) (k : Nat) : Bool :=
  if k < 63 then
    match barPart s k with
    | some p => (barMembers s p k).all (fun c => (bar s k).locals.contains c)
    | none => false
  else !(bar s k).locals.isEmpty

/-- VID of an instance of barrier 63; 0 for a program barrier (R296, R305). -/
def barVid (s : State) (k : Nat) : Nat := if k < 63 then 0 else sget s F.LNK_VBARCFG.VID (k - 64)

/-- This station's number (R302). -/
def station (s : State) : Nat := fget s F.LNK_STATION.STATION

/-- Header word 0 of a packet (R296): the VC is set at each hop. -/
def packetHead (dst src type vc len tid : Nat) : Word :=
  BitVec.ofNat 64 (dst % 65536 * 2 ^ 48 + src % 65536 * 2 ^ 32 + type % 16 * 2 ^ 28 + vc % 8 * 2 ^ 25 + len % 256 * 2 ^ 17 + tid % 2 ^ 17)

/-- A packet of this station with good check bytes. -/
def mkPacket (s : State) (dst type tid : Nat) (w1 : Word) (payload : List CodeWord) : Packet :=
  ⟨codeWord (packetHead dst (station s) type 0 payload.length tid), codeWord w1, payload, false⟩

def pDOWN : Nat := 0
def pDETECT : Nat := 1
def pTRAIN : Nat := 2
def pINIT : Nat := 3
def pACTIVE : Nat := 4
def pRETRAIN : Nat := 5
def pDISABLED : Nat := 6
def pFAILED : Nat := 7

/-- A field of port n, which is local port n mod 6 of link die n div 6 (R286). -/
def pget (s : State) (f : Fld) (n : Nat) : Nat := fget s f (n % 6) (n / 6)

/-- A setting of port n as its unit samples it (R466). -/
def psget (s : State) (f : Fld) (n : Nat) : Nat := sget s f (n % 6) (n / 6)

/-- State of a port (R289); none has a number above 23. -/
def pState (s : State) (n : Nat) : Nat := if n < 24 then pget s F.LNK_PSTAT.STATE n else pDOWN

/-- Link die where a packet is routed; a local unit's packets use die 0. -/
def dieOf (port : Nat) : Nat := if port < 24 then port / 6 else 0

/-- The output port of R299, from the table of the die where the packet arrives, as it stood before the present tick (R303). -/
def routeOf (s : State) (die dst : Nat) : Option Nat :=
  let e := regBefore s .LNK_RTE dst die
  let at_ := fun (f : Fld) => bitsOf e f.hi f.lo
  if at_ F.LNK_RTE.VALID = 0 then none
  else if pState s (at_ F.LNK_RTE.PORT) = pACTIVE then some (at_ F.LNK_RTE.PORT)
  else if at_ F.LNK_RTE.ALTV = 1 && pState s (at_ F.LNK_RTE.ALT) = pACTIVE then some (at_ F.LNK_RTE.ALT)
  else none

/-- Where a packet goes whose header has come by an input: 24 this station (R299). -/
def wayOf (s : State) (input dst : Nat) : Option Nat :=
  if dst = station s && fbit s F.LNK_STATION.ASSIGNED then some 24 else routeOf s (dieOf input) dst

/-- A packet of a local unit as the switch takes it; input 24 is the local unit. -/
def localQueued (s : State) (p : Packet) : Queued := ⟨p, 24, 7, wayOf s 24 (bitsOf (deliveredData p.h0) 63 48), s.tick, true, none⟩

/-- Hand a packet of a local unit to the switch (R299). -/
def sendPacket (s : State) (p : Packet) : State := { s with switch := s.switch ++ [localQueued s p] }

/-- Payload words of barrier 63: 1 KiB as 128 words (R304). Words are kept where they are not 0. -/
def payloadWords (m : List (Nat × Nat)) (lo n : Nat) : List CodeWord :=
  (List.range n).map (fun i => codeWord (BitVec.ofNat 64 (ngetD 0 m (lo + i))))

/-- Bitwise OR of payloads. -/
def payloadOr (a b : List (Nat × Nat)) : List (Nat × Nat) :=
  b.foldl (fun m x => nput 0 m x.1 (ngetD 0 m x.1 ||| x.2)) a

/-- The version agreed toward a station: the VERSION of the port that R299 routes to; version 2 when none is known. -/
def versionToward (s : State) (dst : Nat) : Nat :=
  match routeOf s 0 dst with
  | some n => if pget s F.LNK_PSTAT.VERSION n = 1 then 1 else 2
  | none => 2

/-- Word 1 of BAR_UP and BAR_DOWN (R296). -/
def barWord1 (b gen frag vid : Nat) : Word :=
  BitVec.ofNat 64 (b % 64 + gen % 65536 * 2 ^ 6 + frag % 16 * 2 ^ 22 + vid % 8 * 2 ^ 26)

/-- The number of the barrier in packets: 63 for an instance of barrier 63. -/
def barNumber (k : Nat) : Nat := if k < 63 then k else 63

/-- Send a packet that its unit can send again on an E_NAK (R297). -/
def sendKept (s : State) (dst type : Nat) (w1 : Word) (payload : List CodeWord) : State :=
  let tid := s.nextTid
  let p := mkPacket s dst type tid w1 payload
  sendPacket { s with nextTid := (tid + 1) % 131072, resend := s.resend ++ [(tid, p)] } p

/-- Code words of the largest payload toward a station (R292). -/
def maxPayload (s : State) (dst : Nat) : Nat := if versionToward s dst = 1 then 8 else 64

/-- BAR_UP to the parent (R304 step 2): barrier 63 carries the combined payload, in fragments of the largest packet payload of the
version (R292). -/
def sendBarUp (s : State) (k : Nat) : State :=
  let dst := barParent s k
  let gen := barGen s k
  let b := barNumber k
  let s := modBar s k (fun x => { x with sentUp := true })
  if k < 63 then sendKept s dst 6 (barWord1 b gen 0 0) []
  else
    let n := maxPayload s dst
    (List.range (128 / n)).foldl (fun s f =>
      sendKept s dst 6 (barWord1 b gen f (barVid s k)) (payloadWords (bar s k).payload (n * f) n)) s

/-- The combined verdict payload, 8-word group by group from lo, on its way down to the stations counted, as BAR_DOWN packets of more than one
word (assumption log 20). -/
def sendDownPayload (s : State) (k lo n : Nat) : State :=
  (bar s k).ups.foldl (fun s dst =>
    let m := min n (maxPayload s dst)
    (List.range (cdiv n m)).foldl (fun s f =>
      sendKept s dst 7 (barWord1 63 (barGen s k) ((lo + m * f) / 8) (barVid s k)) (payloadWords (bar s k).payload (lo + m * f) m)) s) s

/-- BAR_DOWN to every station counted (R304 step 4): the release tick in word 2. -/
def sendBarDown (s : State) (k tr : Nat) : State :=
  (bar s k).ups.foldl (fun s dst =>
    sendKept s dst 7 (barWord1 (barNumber k) (barGen s k) 0 (barVid s k)) [codeWord (BitVec.ofNat 64 tr)]) s

/-- The generation completes: the station knows its release tick, and takes its offset then in force (R304, R399; assumption log 76). -/
def barComplete (s : State) (k tr : Nat) : State :=
  modBar s k (fun x => { x with release := some tr, offset := sget s F.PWR_BAR_OFFSET.TICKS })

/-- R304 steps 1 to 3: act once the station is complete for the current generation. -/
def barProgress (s : State) (k : Nat) : State :=
  let b := bar s k
  let s := if barLocalDone s k then setBarLocal s k 1 else s
  if !barLocalDone s k || b.release.isSome || b.sentUp then s
  else if !barEnabled s k then barComplete s k (tickNow s)
  else if b.ups.length < barChildren s k then s
  else if barRoot s k then
    let margin := if barChildren s k = 0 then 0 else sget s F.LNK_BAR_MARGIN.TICKS
    let tr := tickNow s + margin
    let s := barComplete s k tr
    sendBarDown (if 64 ≤ k && barGen s k = 0 then sendDownPayload s k 0 128 else s) k tr
  else sendBarUp s k

/-- A cluster arrives at barrier b (R182): it is counted for the current generation, which becomes its last arrival. -/
def barArrive (s : State) (c b : Nat) : State :=
  let gen := barGen s b
  let s := modBar s b (fun x => { x with locals := x.locals ++ [c] })
  let s := modClu s c (fun k => { k with barLast := nset k.barLast b gen })
  barProgress s b

/-- Whether the generation of the cluster's last arrival has completed (R182); no arrival leaves nothing to wait for (assumption log
21). -/
def barPassed (s : State) (c b : Nat) : Bool :=
  match nget (clu s c).barLast b with
  | some g => barGen s b != g
  | none => true

/-- The hub arrives at instance p of barrier 63 with a payload (R304): a second arrival in a generation, or one after the station left
the barrier, is counted in LNK_BAR_DISC. -/
def hubArrive (s : State) (p : Nat) (payload : List (Nat × Nat)) : State :=
  let k := 64 + p
  if !(bar s k).locals.isEmpty || (bar s k).left then fsat s F.LNK_BAR_DISC.COUNT 1
  else
    let s := modBar s k (fun x => { x with locals := [0], payload := payloadOr x.payload payload })
    barProgress s k

/-- A packet kept for a resend that belongs to another generation of the barrier than g. -/
def staleBarPacket (s : State) (k g : Nat) (p : Packet) : Bool :=
  let h := deliveredData p.h0
  let w := deliveredData p.h1
  (bitsOf h 31 28 == 6 || bitsOf h 31 28 == 7) && bitsOf w 5 0 == barNumber k && (k < 63 || bitsOf w 28 26 == barVid s k) && bitsOf w 21 6 != g

/-- Release of the current generation (R304 step 5): GEN advances, arrivals start anew; packets of earlier generations are not kept longer. -/
def barRelease (s : State) (k : Nat) : State :=
  let g := barGen s k
  let s := { s with resend := s.resend.filter (fun x => !staleBarPacket s k g x.2) }
  let s := setBarGen s k ((g + 1) % 65536)
  let s := setBarUps s k 0
  let s := setBarLocal s k 0
  setBar s k .reset

end Sys2Proof.Machine
end

