-- ==== Sys2Proof/Machine/BucketTable.lean ====
section
/-! DEFINITION. The bucket table of a partition (R314 to R316). -/

namespace Sys2Proof.Machine

/-- An entry of the bucket table, and this station's place in the ring. -/
structure BucketEntry where
  layer : Nat
  upd : Bool
  gather : Bool
  n : Nat
  p : Nat
  ring : Nat
  shards : Nat
  stable : Nat
  pos : Nat
  deriving DecidableEq, Repr

/-- All of the bytes are 0. -/
def zeroBytes (s : State) (a n : Nat) : Bool := rdNat s a n = 0

/-- Bytes of one half of a bucket's scale table (R320). -/
def scaleHalf (blocks : Nat) : Nat := 64 + 64 * cdiv blocks 64

/-- No element repeats. -/
def noRepeat : List Nat → Bool
  | [] => true
  | x :: xs => !xs.contains x && noRepeat xs

/-- The station at a ring position. -/
def ringAt (s : State) (e : BucketEntry) (q : Nat) : Nat := rdNat s (e.ring + 2 * (q % e.p)) 2

/-- Address of the entry of a tag in the table in force, and of its status record (R314). -/
def entryAddr (s : State) (p tag : Nat) : Nat := (part s p).redTable + 64 * tag
def statusAddr (s : State) (p tag : Nat) : Nat := (part s p).redTable + 0x40000 + 64 * tag

/-- What an entry names lies in the partition's window: it, its status record, ring list, shard records and both halves of the scale table (R33, R314;
assumption log 80). -/
def entryInside (s : State) (p tag ring shards stable np blocks : Nat) : Bool :=
  let inWin := fun a n => within a n (winLo s p) (winHi s p)
  inWin (entryAddr s p tag) 64 && inWin (statusAddr s p tag) 64 && inWin ring (2 * np) && inWin shards (8 * np) &&
  inWin stable (2 * scaleHalf blocks)

/-- The entry of a tag, when one holds (R315 but for its last point). -/
def bucketEntry (s : State) (p tag : Nat) : Option BucketEntry :=
  if (part s p).redTable = 0 then none
  else
    let a := entryAddr s p tag
    let l := rdNat s a 2
    let fl := rdNat s (a + 2) 1
    let n := rdNat s (a + 4) 4
    let np := rdNat s (a + 8) 2 + 1
    let ring := rdNat s (a + 16) 8
    let stations := (List.range np).map (fun q => rdNat s (ring + 2 * q) 2)
    if natBit l 15 && natBits l 14 11 = 0 && natBits fl 7 2 = 0 && zeroBytes s (a + 3) 1 && zeroBytes s (a + 10) 6 &&
       zeroBytes s (a + 40) 24 && n % 256 = 0 && 256 ≤ n && n ≤ 2 ^ 28 && noRepeat stations &&
       entryInside s p tag ring (rdNat s (a + 24) 8) (rdNat s (a + 32) 8) np (n / 256) then
      match stations.findIdx? (· == fget s F.LNK_STATION.STATION) with
      | some q => some ⟨natBits l 10 0, natBit fl 0, natBit fl 1, n, np, ring, rdNat s (a + 24) 8, rdNat s (a + 32) 8, q⟩
      | none => none
    else none

/-- Wire blocks of a bucket (R316). -/
def blocksOf (e : BucketEntry) : Nat := e.n / 256

/-- First wire block of shard j; of shard j + 1 for its end (R316). -/
def shardLo (e : BucketEntry) (j : Nat) : Nat := j * blocksOf e / e.p

/-- Wire blocks of shard j. -/
def shardLen (e : BucketEntry) (j : Nat) : Nat := shardLo e (j + 1) - shardLo e j

/-- The shard that holds wire block b. -/
def shardOf (e : BucketEntry) (b : Nat) : Nat :=
  ((List.range e.p).find? (fun j => shardLo e j ≤ b && b < shardLo e (j + 1))).getD 0

end Sys2Proof.Machine
end

