-- ==== Sys2Proof/Machine/Wire.lean ====
section
/-! DEFINITION. What travels between stations: packets as they arrive (R296, R297), the digest of R326, RED and RTRL packets with their
resend window (R324, R325, R327). -/

namespace Sys2Proof.Machine

/-! ### Packets as they arrive -/

def pktDst (p : Packet) : Nat := bitsOf (deliveredData p.h0) 63 48
def pktSrc (p : Packet) : Nat := bitsOf (deliveredData p.h0) 47 32
def pktType (p : Packet) : Nat := bitsOf (deliveredData p.h0) 31 28
def pktTid (p : Packet) : Nat := bitsOf (deliveredData p.h0) 16 0
/-- A field of header word 1. -/
def pktW1 (p : Packet) (hi lo : Nat) : Nat := bitsOf (deliveredData p.h1) hi lo
/-- Payload word k as data; 0 beyond the payload. -/
def pktWord (p : Packet) (k : Nat) : Nat := (deliveredData (nth p.payload k (codeWord 0))).toNat

/-- A payload word is uncorrectable, or the packet was cut short (R297). -/
def pktBad (p : Packet) : Bool := p.trunc || p.payload.any (fun w => classOf (syndromeOf w) = .ue)

def isCorrected : WordClass → Bool
  | .checkBit => true
  | .dataBit _ => true
  | _ => false

/-- Words that the destination corrects count CE, poisoned ones POISON (R254, R257). -/
def countPayload (s : State) (p : Packet) : State :=
  let n := (p.payload.filter (fun w => isCorrected (classOf (syndromeOf w)))).length
  let k := (p.payload.filter (fun w => classOf (syndromeOf w) = .poison)).length
  let s := if n = 0 then s else fadd s F.ECC_CECNT.COUNT n
  if k = 0 then s else fadd s F.ECC_POISONCNT.COUNT k

/-- A bad packet is discarded: E_NAK the first time, REFUSE with cause 2 the second (R263, R297). -/
def nakPacket (s : State) (p : Packet) : State :=
  let key := (pktSrc p, pktTid p)
  if s.nakSeen.contains key then
    let s := { s with nakSeen := s.nakSeen.filter (· != key) }
    sendPacket (fadd s F.ECC_UECNT.COUNT 1) (mkPacket s (pktSrc p) 3 0 (BitVec.ofNat 64 (pktTid p + 2 * 2 ^ 21)) [])
  else
    let s := { s with nakSeen := s.nakSeen ++ [key] }
    sendPacket s (mkPacket s (pktSrc p) 9 0 (BitVec.ofNat 64 (pktTid p)) [])

/-- A good packet: its words are counted, and a resend that succeeded counts as a retry (R263). -/
def acceptPacket (s : State) (p : Packet) : State :=
  let key := (pktSrc p, pktTid p)
  let s := countPayload s p
  if s.nakSeen.contains key then fadd { s with nakSeen := s.nakSeen.filter (· != key) } F.ECC_RTRYCNT.COUNT 1 else s

/-- Take the first packet that satisfies p out of a list. -/
def takeFirst (p : Packet → Bool) : List (Packet × Nat) → Option (Packet × List (Packet × Nat))
  | [] => none
  | x :: xs => if p x.1 then some (x.1, xs) else (takeFirst p xs).map (fun r => (r.1, x :: r.2))

/-- The first delivered packet of a kind that is bad, or that the station can act on now, is taken: a bad one draws E_NAK or REFUSE. -/
def receivePacket (kind ok : Packet → Bool) (use : Packet → State → State) (s : State) : State :=
  if isFrozen s || isStopped s then s
  else match takeFirst (fun p => kind p && (pktBad p || ok p)) s.arrived with
    | none => s
    | some (p, rest) =>
      let s := { s with arrived := rest }
      if pktBad p then nakPacket s p else use p (acceptPacket s p)

/-! ### CRC-64/ECMA-182 (R326) -/

def crc64Bit (c : Nat) : Nat := if c / 2 ^ 63 % 2 = 1 then (c * 2 % 2 ^ 64) ^^^ 0x42F0E1EBA9EA3693 else c * 2 % 2 ^ 64

def crc64Byte (c : Nat) (b : Byte) : Nat :=
  crc64Bit (crc64Bit (crc64Bit (crc64Bit (crc64Bit (crc64Bit (crc64Bit (crc64Bit (c ^^^ (b.toNat * 2 ^ 56)))))))))

def crc64 (bs : List Byte) : Nat := bs.foldl crc64Byte 0

/-! ### RED and RTRL packets -/

/-- Link die that handles a bucket, and the SOURCE of its reduction unit (R317, R336). -/
def redDie (tag : Nat) : Nat := tag % 4
def srcRed (tag : Nat) : Nat := srcLink (redDie tag) 0x20

/-- Bytes of a packet in a resend window. -/
def packetBytes (p : Packet) : Nat := 8 * (2 + p.payload.length)

/-- Keep the newest packets of a die within 2 MiB (R327); the oldest stand first. -/
def trimResend (die : Nat) (l : List (Nat × Packet)) : List (Nat × Packet) :=
  (l.foldr (fun x (r : List (Nat × Packet) × Nat) =>
    if 6 ≤ pktType x.2 || redDie (pktW1 x.2 63 52) ≠ die then (x :: r.1, r.2)
    else
      let n := r.2 + packetBytes x.2
      if n ≤ 2 * MiB then (x :: r.1, n) else (r.1, n)) ([], 0)).1

/-- Send a packet of a reduction unit, kept in the resend window of its die (R327). -/
def sendRedPacket (s : State) (dst type : Nat) (w1 : Word) (words : List CodeWord) : State :=
  let s := sendKept s dst type w1 words
  { s with resend := trimResend (redDie (bitsOf w1 63 52)) s.resend }

/-- Word 1 of a RED packet (R324). -/
def redWord1 (tag kind run shard off : Nat) : Word :=
  BitVec.ofNat 64 (tag % 4096 * 2 ^ 52 + kind % 4 * 2 ^ 50 + run % 8 * 2 ^ 47 + shard % 65536 * 2 ^ 31 + off % 2 ^ 31)

/-- Word 1 of an RTRL packet (R325). -/
def rtrlWord1 (tag kind run pos index : Nat) : Word :=
  BitVec.ofNat 64 (tag % 4096 * 2 ^ 52 + kind % 16 * 2 ^ 48 + run % 8 * 2 ^ 45 + pos % 65536 * 2 ^ 29 + index % 2 ^ 29)

/-- Send words of a shard's stream from an offset (R324). -/
def sendStream (s : State) (dst tag kind run shard off : Nat) (ws : List CodeWord) : State :=
  let n := maxPayload s dst
  ((chunks n ws).zip (List.range (cdiv ws.length n))).foldl (fun s x =>
    sendRedPacket s dst 4 (redWord1 tag kind run shard (off + 8 * n * x.2)) x.1) s

/-- Bytes as words, 8 per word, the last padded with 0x00 (R325). -/
def packBytes (bs : List Nat) : List CodeWord :=
  (chunks 8 bs).map (fun l => codeWord (BitVec.ofNat 64 (leNat (l.map (BitVec.ofNat 8)))))

/-- Send table bytes of blocks from index up (R325). -/
def sendTable (s : State) (dst tag kind run pos index : Nat) (bs : List Nat) : State :=
  let n := maxPayload s dst
  ((chunks (8 * n) bs).zip (List.range (cdiv bs.length (8 * n)))).foldl (fun s x =>
    sendRedPacket s dst 5 (rtrlWord1 tag kind run pos (index + 8 * n * x.2)) (packBytes x.1)) s

/-- The table bytes that a packet carries, not beyond n blocks: block and byte. -/
def tableBytes (p : Packet) (n : Nat) : List (Nat × Nat) :=
  let i := pktW1 p 28 0
  (List.range (min (8 * p.payload.length) (n - i))).map (fun k => (i + k, pktWord p (k / 8) / 2 ^ (8 * (k % 8)) % 256))

end Sys2Proof.Machine
end

