-- ==== Sys2Proof/Machine/Gather.lean ====
section
/-! DEFINITION. The copies of update descriptors (R243, R244), which emits and gathers a boundary starts (R246, R332, R333), and the gathers
themselves. -/

namespace Sys2Proof.Machine

/-! ### Copies -/

/-- Address of the update descriptor of shard j; 0 with none (R314). -/
def shardDesc (s : State) (e : BucketEntry) (j : Nat) : Nat := rdNat s (e.shards + 8 * j) 8

/-- A copy as the update units write it (a pair without a map address leaves OUTL = 1 without effect: nothing is nominated; DESIGN CHOICE, assumption
log 73): base, shape, strides and OMAP from the pair, format and layout by R117, the scale S_W, or 1.0
at L2 (R244). fwd: the forward copy, with a map while the recipe puts the outlier path on the weights (R106, R108). -/
def copyTens (s : State) (p desc parity : Nat) (fwd : Bool) : Tens :=
  let layer := rdNat s desc 2 % 2048
  let e := rcp s p layer
  let pair := rdNat s (desc + (if fwd then 56 else 64)) 8 % 2 ^ 48
  let t := tensOf 0 (BitVec.ofNat 512 (rdNat s (pair + 64 * parity) 64))
  let form := if fwd then roleForm e 0 else backForm e
  let outl := fwd && rcpLevel e < 2 && natBits e 39 38 = 1 && t.omap ≠ 0
  { t with code := 0, fmt := form.1, layout := form.2, hasMap := outl,
           scaleBits := if 2 ≤ rcpLevel e then 0x3F800000 else BitVec.ofNat 32 (rdNat s (sclAddr s p layer) 4) }

/-- The footprint of a copy: elements, scale array, outlier map (R332). -/
def copyPiecesOf (t : Tens) : List (Nat × Nat) :=
  (t.base, footOf t) :: (if t.layout = 0 then [] else [(scaleBase t, scaleBytes t)]) ++
  (if t.hasMap then [(t.omap, mapBytes t)] else [])

/-- The gather stream of a shard: forward copy, then backward copy (R332). -/
def gatherPieces (s : State) (p desc parity : Nat) : List (Nat × Nat) :=
  copyPiecesOf (copyTens s p desc parity true) ++ copyPiecesOf (copyTens s p desc parity false)

def piecesLen (l : List (Nat × Nat)) : Nat := (l.map (·.2)).sum

/-- A shard record's descriptor, its pairs and its copies of a parity lie in the partition's windows; nothing else is read or written through it
(R33; assumption log 80). -/
def copiesInside (s : State) (p desc parity : Nat) : Bool :=
  let inWin := fun a n => within a n (winLo s p) (winHi s p)
  inWin desc 128 && inWin (rdNat s (desc + 56) 8) 128 && inWin (rdNat s (desc + 64) 8) 128 &&
  (gatherPieces s p desc parity).all (fun x => inWindows s p x.1 x.2 && !inCode s p x.1 x.2)

/-- Address of byte k of a stream. -/
def pieceAddr : List (Nat × Nat) → Nat → Option Nat
  | [], _ => none
  | x :: xs, k => if k < x.2 then some (x.1 + k) else pieceAddr xs (k - x.2)

/-! ### What a boundary starts -/

/-- What the copies of a layer depend on: LEVEL, OT and, where R124 may have changed it, the layout-0 scale (R246). -/
def copyKey (s : State) (p l : Nat) (flip : Bool) : Nat × Nat × Nat :=
  (rcpLevel (rcp s p l), rdNat s (sclAddr s p l + 12) 1 % 8, if flip then 0 else rdNat s (sclAddr s p l) 4)

/-- Layers whose copies a boundary made stale (R246). -/
def changedLayers (s0 s : State) (p : Nat) (flip : Bool) : List Nat :=
  (List.range (layersOf s p)).filter (fun l => copyKey s0 p l flip ≠ copyKey s p l flip)

/-- Entries of the table in force, with their tags. -/
def tableEntries (s : State) (p : Nat) : List (Nat × BucketEntry) :=
  (List.range 4096).filterMap (fun t => (bucketEntry s p t).map (fun e => (t, e)))

/-- Owned shards of the layers, with their descriptors: what emit has to write (R246). -/
def ownedShards (s : State) (p : Nat) (ls : Nat → Bool) : List (Nat × Nat) :=
  (tableEntries s p).filterMap (fun x =>
    let d := shardDesc s x.2 x.2.pos
    if ls x.2.layer && shardLen x.2 x.2.pos ≠ 0 && d ≠ 0 then some (x.1, d) else none)

/-- HUB_RED_STAT.GATHER_PEND: gathers sent or expected and not yet complete (R337). -/
def countGathers (s : State) (p : Nat) : State :=
  fput s F.HUB_RED_STAT.GATHER_PEND (min 65535 ((part s p).gathers.filter (fun g => !g.2.complete && !g.2.early)).length) p

def gatherKey (tag shard : Nat) : Nat := tag * 65536 + shard

/-- The gathers of the layers start at a flip or boundary: every non-empty shard of each bucket with GATHER = 1 (R332, R333). What
arrived before the station's own flip counts. -/
def expectGathers (s : State) (p : Nat) (ls : Nat → Bool) (epoch : Nat) : State :=
  let keys := (tableEntries s p).flatMap (fun x =>
    if x.2.gather && x.2.p ≠ 1 && ls x.2.layer then
      (List.range x.2.p).filterMap (fun j =>
        if shardLen x.2 j ≠ 0 && shardDesc s x.2 j ≠ 0 then some (gatherKey x.1 j, j == x.2.pos) else none)
    else [])
  let s := modPart s p (fun y => { y with gathers := keys.foldl (fun m k =>
    match nget m k.1 with
    | some g => if g.early && g.epoch = epoch then nset m k.1 { g with early := false, since := s.tick }
                else nset m k.1 ⟨k.2, false, epoch, s.tick, [], false, false, false⟩
    | none => nset m k.1 ⟨k.2, false, epoch, s.tick, [], false, false, false⟩) y.gathers })
  countGathers s p

/-- Emits of the changed layers (R246). -/
def addEmits (s : State) (p : Nat) (ls : List Nat) : State :=
  let l := ownedShards s p (fun l => ls.contains l)
  modPart s p (fun x => { x with emits := x.emits ++ l.filter (fun e => !x.emits.contains e) })

/-- A boundary without a flip: emits of the changed layers and their gathers, at the present epoch (R246, R332). -/
def noteChanged (s0 s : State) (p : Nat) (flip : Bool) : State :=
  let ls := changedLayers s0 s p flip
  if ls.isEmpty then s
  else expectGathers (addEmits s p ls) p (fun l => ls.contains l) (fget s F.CRN_EPOCH.EPOCH p)

/-! ### Sending and receiving -/

/-- The data word k of a stream, poisoned when a byte of it lies in a bad word (R264). -/
def streamWord (s : State) (pieces : List (Nat × Nat)) (k : Nat) : CodeWord :=
  let as_ := (List.range 8).map (fun i => pieceAddr pieces (8 * k + i))
  let w := BitVec.ofNat 64 (leNat (as_.map (fun a => match a with | some a => rdByte s a | none => 0)))
  if as_.any (fun a => match a with | some a => badIn s a (a + 1) | none => false) then poisonWord w else codeWord w

/-- Write data word k of a stream where its bytes belong; a poisoned word poisons the words it touches. -/
def putStreamWord (pieces : List (Nat × Nat)) (k : Nat) (w : CodeWord) (s : State) : State :=
  let d := deliveredData w
  let bad := !isGood (classOf (syndromeOf w))
  foldRange 8 (fun s i =>
    match pieceAddr pieces (8 * k + i) with
    | some a =>
      let s := wrNat s a 1 (bitsOf d (8 * i + 7) (8 * i))
      if bad then poisonAt s a else s
    | none => s) s

/-- The digest word and the byte count of a stream (R326, R332). -/
def trailerWords (digest n : Nat) : List CodeWord := [codeWord (BitVec.ofNat 64 digest), codeWord (BitVec.ofNat 64 n)]

def setGather (s : State) (p key : Nat) (g : Gather) : State :=
  countGathers (modPart s p (fun x => { x with gathers := nset x.gathers key g })) p

/-- GATHER_FAIL: the doorbell stays held and the control node is told (R333, R336). cause: 1 digest, 2 timeout. -/
def failGather (s : State) (p tag shard cause : Nat) : State :=
  let key := gatherKey tag shard
  match nget (part s p).gathers key with
  | none => s
  | some g =>
    let s := setGather s p key { g with failed := true }
    let s := fset s F.LNK_RED_EVT.GATHER_FAIL 1 0 (redDie tag)
    let s := fbOffer s (srcRed tag) 0x0606 tag shard cause
    offerRecord s 0x0606 (srcRed tag) p tag shard cause

/-- The owner of a shard sends its stream to the next station of the ring (R332). -/
def execGatherStart (p : PartIx) (tag : BitVec 12) (s : State) : Out :=
  match bucketEntry s p tag.toNat with
  | none => .next s
  | some e =>
    let key := gatherKey tag.toNat e.pos
    match nget (part s p).gathers key with
    | none => .next s
    | some g =>
      let busy := (part s p).emits.any (fun x => (bucketEntry s p x.1).any (fun y => y.layer = e.layer))
      if isFrozen s || isStopped s || !g.sending || g.started || g.early || g.failed || busy ||
         !copiesInside s p (shardDesc s e e.pos) (g.epoch % 2) then .next s
      else
        let ps := gatherPieces s p (shardDesc s e e.pos) (g.epoch % 2)
        let (s, bad) := checkRanges (srcRed tag.toNat) s (ps.map (fun x => (x.1, x.1 + x.2)))
        let s := match bad with
          | some b => stepFault s p (srcRed tag.toNat) b.1 b.2
          | none => s
        let n := piecesLen ps
        let ws := (List.range (cdiv n 8)).map (streamWord s ps)
        let bytes := (ws.flatMap (fun w => leBytes 8 w.data.toNat)).take n
        let dst := ringAt s e (e.pos + 1)
        let s := sendStream s dst tag.toNat 2 0 e.pos 0 ws
        let s := sendRedPacket s dst 5 (rtrlWord1 tag.toNat 7 0 e.pos 0) (trailerWords (crc64 bytes) n)
        .next (setGather s p key { g with started := true, complete := true })

/-- A gather of another station's shard that bytes may still enter: one this station expects, or, while it waits to flip, the one of the
step that is committing. -/
def gatherOpen (s : State) (p tag shard : Nat) : Option Gather :=
  let x := part s p
  let fresh : Option Gather := if x.committing then some ⟨false, false, x.step, s.tick, [], false, false, true⟩ else none
  match nget x.gathers (gatherKey tag shard) with
  | some g => if !g.sending && !g.complete && !g.failed then some g else if x.committing && g.epoch ≠ x.step then fresh else none
  | none => fresh

/-- The partition and entry whose ring hands gather packets of a tag from a station to this one. -/
def gatherRing (s : State) (tag src : Nat) : Option (Nat × BucketEntry) :=
  (List.range 8).findSome? (fun p => match bucketEntry s p tag with
    | some e => if e.gather && e.p ≠ 1 && ringAt s e (e.pos + e.p - 1) = src then some (p, e) else none
    | none => none)

def gatherReady (s : State) (k : Packet) : Bool :=
  match gatherRing s (pktW1 k 63 52) (pktSrc k) with
  | some (p, e) => pktW1 k 46 31 < e.p && (gatherOpen s p (pktW1 k 63 52) (pktW1 k 46 31)).isSome
  | none => false

/-- Gather bytes are written to the copy buffers and forwarded (R332). -/
def takeGather (k : Packet) (s : State) : State :=
  let tag := pktW1 k 63 52
  let j := pktW1 k 46 31
  match gatherRing s tag (pktSrc k) with
  | none => s
  | some (p, e) => match gatherOpen s p tag j with
    | none => s
    | some g =>
      let ps := gatherPieces s p (shardDesc s e j) (g.epoch % 2)
      let n := cdiv (piecesLen ps) 8
      let base := pktW1 k 30 0 / 8
      let ws := (k.payload.zip (List.range k.payload.length)).filter (fun x => base + x.2 < n)
      let s := if copiesInside s p (shardDesc s e j) (g.epoch % 2) then ws.foldl (fun s x => putStreamWord ps (base + x.2) x.1 s) s else s
      let g := { g with got := ws.foldl (fun m x => nset m (base + x.2) (deliveredData x.1)) g.got }
      let s := setGather s p (gatherKey tag j) g
      let s := if k.payload.any (fun w => classOf (syndromeOf w) = .poison) then
          let d := drawFree s
          stepFault d.2 p (srcRed tag) ((Config.freeWord d.1).toNat % 2 ^ 48) 2
        else s
      if (e.pos + 1) % e.p = j then s else sendStream s (ringAt s e (e.pos + 1)) tag 2 0 j (8 * base) k.payload

/-- Gather bytes arrive (R332). -/
def execRedGatherReceive (s : State) : Out :=
  .next (receivePacket (fun k => pktType k = 4 && pktW1 k 51 50 = 2) (gatherReady s) takeGather s)

/-- The digest of a gather whose words have all arrived. -/
def gatherDigest (s : State) (p : Nat) (e : BucketEntry) (j : Nat) (g : Gather) : Option (Nat × Nat) :=
  let n := piecesLen (gatherPieces s p (shardDesc s e j) (g.epoch % 2))
  if g.got.length = cdiv n 8 then some (crc64 ((g.got.flatMap (fun w => leBytes 8 w.2.toNat)).take n), n) else none

/-- The gathers from the station before, in the order of its hop stream (R326): shards q - 1, q - 2, …, without this station's own. -/
def openGathers (s : State) (p tag : Nat) (e : BucketEntry) : List (Nat × Gather) :=
  (List.range (e.p - 1)).filterMap (fun k =>
    let j := (e.pos + e.p - 1 - k) % e.p
    match nget (part s p).gathers (gatherKey tag j) with
    | some g => if !g.sending && !g.complete && !g.failed then some (j, g) else none
    | none => none)

/-- The gather that a trailer ends. GATHER_HOP names no shard: it ends the first whose words are all there and whose digest agrees; when
every open gather has its words and none agrees, the first has failed (assumption log 37). -/
def gatherMatch (s : State) (p tag : Nat) (e : BucketEntry) (digest : Nat) : Option (Nat × Bool) :=
  let l := openGathers s p tag e
  match l.find? (fun x => (gatherDigest s p e x.1 x.2).any (fun d => d.1 = digest)) with
  | some x => some (x.1, true)
  | none => if l.all (fun x => (gatherDigest s p e x.1 x.2).isSome) then l.head?.map (fun x => (x.1, false)) else none

def gatherHopReady (s : State) (k : Packet) : Bool :=
  match gatherRing s (pktW1 k 63 52) (pktSrc k) with
  | some (p, e) => (gatherMatch s p (pktW1 k 63 52) e (pktWord k 0)).isSome
  | none => false

/-- A gather trailer is compared; the station's own trailer follows (R332, R333). -/
def takeGatherHop (k : Packet) (s : State) : State :=
  let tag := pktW1 k 63 52
  match gatherRing s tag (pktSrc k) with
  | none => s
  | some (p, e) => match gatherMatch s p tag e (pktWord k 0) with
    | none => s
    | some (j, ok) => match nget (part s p).gathers (gatherKey tag j) with
      | none => s
      | some g =>
        let d := (gatherDigest s p e j g).getD (0, 0)
        let s := if (e.pos + 1) % e.p = j then s
          else sendRedPacket s (ringAt s e (e.pos + 1)) 5 (rtrlWord1 tag 7 0 e.pos 0) (trailerWords d.1 d.2)
        if ok then setGather s p (gatherKey tag j) { g with complete := true, got := [] } else failGather s p tag j 1

/-- A gather hop trailer arrives (R332). -/
def execGatherHopReceive (s : State) : Out :=
  .next (receivePacket (fun k => pktType k = 5 && pktW1 k 51 48 = 7) (gatherHopReady s) takeGatherHop s)

/-- A gather of the tag is not complete within LNK_RED_TMO ticks of the flip or boundary (R333). -/
def execGatherTimeout (p : PartIx) (tag : BitVec 12) (s : State) : Out :=
  if isFrozen s || isStopped s then .next s
  else
    let lim := sget s F.LNK_RED_TMO.TICKS
    let l := (part s p).gathers.filter (fun g => g.1 / 65536 = tag.toNat && !g.2.complete && !g.2.failed && !g.2.early && g.2.since + lim ≤ s.tick)
    .next (l.foldl (fun s g => failGather s p tag.toNat (g.1 % 65536) 2) s)

end Sys2Proof.Machine
end

