-- ==== Sys2Proof/Machine/Policy.lean ====
section
/-! DEFINITION. The trouble policy: staged recipe entries (R118, R119), the loss-spike detector (R113, R114), the step
verdict and what follows from it (R122 to R128, R156, R186). -/

namespace Sys2Proof.Machine

/-- The firmware of core n acts (R20, R26, R472). -/
def coreActs (s : State) (n : Nat) : Bool := !isFrozen s && coreRuns s n

/-! ### Staged entries (R118, R119) -/

/-- R118: the staged entry may be applied. -/
def stagedOk (e : Nat) : Bool :=
  let w := natBits e 63 58
  let a := natBits e 57 52
  let g := natBits e 51 46
  [4, 5, 6, 7, 8].contains w && [4, 5, 7].contains a && [4, 5, 7].contains g &&
  natBits e 45 44 ≠ 3 && natBits e 43 42 ≠ 3 && natBits e 41 40 ≠ 3 && natBits e 39 38 ≠ 3 &&
  rcpLevel e ≠ 3 && rcpBase e ≠ 3 && rcpMax e ≠ 3 &&
  rcpBase e ≤ rcpLevel e && rcpLevel e ≤ rcpMax e

/-- Apply one staged entry, or reject it (R118). -/
def applyStaged (s : State) (p l : Nat) : State × Bool :=
  let a := rcpAddr s p l + 0x4000
  let e := rdNat s a 8
  if !natBit e 30 then (s, false)
  else
    let live := natPut e 30 30 0
    let s := wrNat s a 8 live
    if stagedOk e then
      (putScl (wrNat s (rcpAddr s p l) 8 live) p l (natBits e 29 27) (natBits e 26 25) 0, true)
    else (fbOffer (fset s F.HUB_TRB_EVT.RCP_REJECT 1 p) (srcCore 1) 0x0202 l e 0, false)

/-- RECIPE_ALL, once, when every layer lies above BASE or at 2 (R127). -/
def checkAll (s : State) (p : Nat) : State :=
  let n := layersOf s p
  if n = 0 || (part s p).rcpAllPosted ||
     !(List.range n).all (fun l => let e := rcp s p l; rcpBase e < rcpLevel e || rcpLevel e = 2) then s
  else
    let s := modPart s p (fun x => { x with rcpAllPosted := true })
    let s := fbOffer (fset s F.HUB_TRB_EVT.RECIPE_ALL 1 p) (srcCore 1) 0x0205 p (part s p).step 0
    offerRecord s 0x0205 (srcCore 1) p p (part s p).step 0

/-- Staged entries at a boundary, when APPLY armed them (R119). -/
def stageAll (s : State) (p : Nat) : State :=
  if !fbit s F.HUB_TRB_STAT.APPLY_PENDING p then s
  else
    let s := fput s F.HUB_TRB_STAT.APPLY_PENDING 0 p
    let (s, got) := (List.range 2048).foldl (fun x l =>
      let y := applyStaged x.1 p l
      (y.1, x.2 || y.2)) (s, false)
    if got then checkAll (modPart s p (fun x => { x with rcpAllPosted := false })) p else s

/-! ### Recompute and fallback (R124) -/

/-- The bits of a layer in a payload (R122). -/
def layerBits (m : List (Nat × Nat)) (l : Nat) : Nat := natBits (ngetD 0 m (l / 16)) (l % 16 * 4 + 3) (l % 16 * 4)

/-- Put bits of a layer into a payload. -/
def orLayer (m : List (Nat × Nat)) (l b : Nat) : List (Nat × Nat) :=
  nput 0 m (l / 16) (ngetD 0 m (l / 16) ||| (b * 2 ^ (l % 16 * 4)))

/-- Outcome of R124 over the layers: some layer fell a level, stuck layers with their levels. -/
structure Recompute where
  s : State
  fell : Bool
  stuck : List (Nat × Nat)

/-- R124 for one layer. -/
def recomputeLayer (p : Nat) (pay : List (Nat × Nat)) (replays : Nat) (x : Recompute) (l : Nat) : Recompute :=
  let b := layerBits pay l
  if b % 8 = 0 then x
  else
    let s := x.s
    let e := rcp s p l
    let ot := sclOT s p l
    let h := sclH s p l
    let up := natBit b 1 && ot < 7
    let hu := natBit b 0 && (List.range 3).any (isScaled e) && h < 3
    let ot := if up then ot + 1 else ot
    let h := if hu then h + 1 else h
    let s := if natBit b 0 then rescale s p l h else s
    let changed := up || hu
    let gen := if changed then min (sclGEN s p l + 1) 0xFF else sclGEN s p l
    if !changed || replays = 3 then
      if rcpLevel e < rcpMax e then
        let s := wrNat s (rcpAddr s p l) 8 (natPut e 37 36 (rcpLevel e + 1))
        let s := fbOffer s (srcCore 1) 0x0203 l (rcpLevel e + 1) (part s p).step
        { x with s := putScl s p l (natBits e 29 27) (natBits e 26 25) 0, fell := true }
      else { x with s := putScl s p l ot h gen, stuck := x.stuck ++ [(l, rcpLevel e)] }
    else { x with s := putScl s p l ot h gen }

/-- R124 over every layer of a payload. -/
def recompute (s : State) (p : Nat) (pay : List (Nat × Nat)) : Recompute :=
  let replays := fget s F.HUB_TRB_STAT.REPLAYS p
  (List.range (layersOf s p)).foldl (recomputeLayer p pay replays) ⟨s, false, []⟩

/-- Field Book entries of stuck layers (R124, R128). -/
def logStuck (s : State) (p : Nat) (l : List (Nat × Nat)) : State :=
  l.foldl (fun s x => fbOffer s (srcCore 1) 0x0204 x.1 x.2 (part s p).step) s

/-- A REPLAY outcome's recompute: the changes and REPLAYS (R124), which stays at 3 (DESIGN CHOICE, log 73). -/
def applyRecompute (s : State) (p : Nat) (r : Recompute) : State :=
  let n := fget s F.HUB_TRB_STAT.REPLAYS p
  let s := fput r.s F.HUB_TRB_STAT.REPLAYS (if r.fell then 0 else min 3 (n + 1)) p
  checkAll s p

/-! ### The data streams (R356) -/

def dstrAddr (s : State) (p : Nat) : Nat := sget s F.CRN_DSTR.ADDR p * 1024

/-- Each enabled data stream's CURSOR advances by SAMPLES (R126, R356). -/
def advanceCursors (s : State) (p : Nat) : State :=
  if dstrAddr s p = 0 then s
  else (List.range 16).foldl (fun s i =>
    let a := dstrAddr s p + 64 * i
    if rdNat s (a + 40) 1 % 2 = 1 then wrNat s (a + 8) 8 (rdNat s (a + 8) 8 + rdNat s (a + 32) 8) else s) s

/-! ### Outcomes -/

def holding (s : State) (p : Nat) : Bool := fbit s F.HUB_TRB_STAT.HOLDING p

/-- HOLD with its notice (R123, R128, R156, R186, R424). cause: 1 watched layer or HOLDREQ, 2 stuck, 3 trap, 4 stash exhaustion. -/
def holdRun (s : State) (p cause : Nat) : State :=
  let s := fput s F.HUB_TRB_STAT.VERDICT 2 p
  let s := fput s F.HUB_TRB_STAT.HOLDING 1 p
  let s := fset s F.HUB_TRB_EVT.HOLD 1 p
  let s := modPart s p (fun x => { x with holdCause := cause })
  offerRecord s 0x0910 (srcCore 0) p p cause (part s p).step

/-- A boundary without a commit: staged entries (R119), then the next run is wanted (R189). -/
def rerun (s0 s : State) (p : Nat) : State :=
  let s := noteChanged s0 (stageAll s p) p false
  modPart s p (fun x => { x with wanted := true })

/-- A REPLAY outcome: the step runs again. spike: the next run is a spike replay (R123, R124). -/
def replayStep (s0 s : State) (p : Nat) (spike : Bool) : State :=
  let s := fput s F.HUB_TRB_STAT.VERDICT 1 p
  let s := fput s F.HUB_TRB_STAT.SPIKE_RUN (b2n spike) p
  rerun s0 s p

/-- A SKIP outcome (R126). -/
def skipStep (s0 s : State) (p : Nat) : State :=
  let s := fbOffer s (srcCore 1) 0x0207 p (part s p).step (fget s F.HUB_TRB_STAT.REPLAYS p)
  let s := fput s F.HUB_TRB_STAT.VERDICT 3 p
  let s := fput s F.HUB_TRB_STAT.REPLAYS 0 p
  let s := fput s F.HUB_TRB_STAT.SPIKE_RUN 0 p
  let s := fsat s F.HUB_TRB_SKIPS.COUNT 1 p
  rerun s0 (advanceCursors s p) p

/-- CLEAN, or a COMMIT answer: the station is to arrive at the commit barrier (R123, R125). VERDICT stays HOLD at a COMMIT answer (DESIGN
CHOICE, log 73). -/
def commitStep (s : State) (p : Nat) (clean : Bool) : State :=
  let s := if clean then fput s F.HUB_TRB_STAT.VERDICT 0 p else s
  modPart s p (fun x => { x with committing := true, cleanAnswer := clean, arrived := false, commitSince := 0, timeoutSent := false })

/-- Bits of entry 0x7FF (R122, R155, R186). -/
def gSpike : Nat := 1
def gHoldreq : Nat := 2
def gExhaust : Nat := 4
def gTrapped : Nat := 8

/-- A layer bit that calls for a replay, or for a hold, in a payload (R123). -/
def anyLayer (m : List (Nat × Nat)) (mask : Nat) : Bool := (List.range 2047).any (fun l => layerBits m l &&& mask ≠ 0)

/-- The outcome of a combined verdict (R123, R124, R156, R186). -/
def decideVerdict (s : State) (p : Nat) (pay : List (Nat × Nat)) : State :=
  let g := layerBits pay 0x7FF
  let s := fput s F.HUB_TRB_STAT.FIRST_LAYER (((List.range 2047).find? (fun l => layerBits pay l ≠ 0)).getD 0x7FF) p
  let spikeRun := fbit s F.HUB_TRB_STAT.SPIKE_RUN p
  if g &&& gTrapped ≠ 0 then holdRun s p 3
  else if g &&& gExhaust ≠ 0 then
    let s := fput s F.HUB_STH_PLAN.EXHAUSTS (min 0xFFFF (fget s F.HUB_STH_PLAN.EXHAUSTS p + 1)) p
    let s := if g &&& gHoldreq ≠ 0 then modPart s p (fun x => { x with holdreq := true }) else s
    if ((part s p).image.map (·.alt)).getD false && !fbit s F.HUB_STH_PLAN.ALT p
    then replayStep s (fput s F.HUB_STH_PLAN.ALT 1 p) p spikeRun
    else holdRun s p 4
  else if anyLayer pay 8 || g &&& gHoldreq ≠ 0 then holdRun s p 1
  else if anyLayer pay 7 then
    let r := recompute s p pay
    match r.stuck with
    | [] => replayStep s (applyRecompute s p r) p false
    | (l, lv) :: _ =>
      let s := logStuck (fset s F.HUB_TRB_EVT.STUCK 1 p) p r.stuck
      let s := offerRecord s 0x0204 (srcCore 1) p l lv (part s p).step
      holdRun s p 2
  else if g &&& gSpike ≠ 0 then
    if !sbit s F.HUB_TRB_CFG.SPIKE_POL p && !spikeRun
    then replayStep s (fput s F.HUB_TRB_STAT.REPLAYS (min 3 (fget s F.HUB_TRB_STAT.REPLAYS p + 1)) p) p true
    else skipStep s s p
  else commitStep s p true

/-- On completion of the verdict barrier the station derives the outcome from the combined payload (R123). -/
def execVerdict (p : PartIx) (s : State) : Out :=
  if !coreActs s 1 || !(part s p).verdictReady then .next s
  else
    let s := modPart s p (fun x => { x with verdictReady := false, atVerdict := false })
    .next (coreReads 1 (policyTables s p) (fun s => decideVerdict s p (part s p).combined) s)

/-! ### Answers (R125) -/

/-- The answer is taken: the partition holds, and a COMMIT is not one to a trap or an exhausted stash (R125, R156, R186). -/
def answerTaken (s : State) (p answer : Nat) : Bool :=
  holding s p && !(answer = 1 && ((part s p).holdCause = 3 || (part s p).holdCause = 4))

/-- ANSWER_IGNORED (R125). -/
def ignoreAnswer (s : State) (p answer : Nat) : State := fbOffer s (srcCore 1) 0x0206 p answer 0

/-- Only a Meridian WRITE reaches the register (R130); nothing happens on a frozen P40 (R473). -/
def answerFrom (src : Source) (s : State) : Bool := src = .meridian && !isFrozen s

/-- R124 for the ordinary layers of the verdict held, on a REPLAY or SKIP answer (R125, R131). Layer bits of a verdict with TRAPPED or
EXHAUST are discarded, and an EXHAUST leaves REPLAYS alone (R156, R186). A layer found stuck here is logged and no more (DESIGN CHOICE,
log 73). -/
def answerRecompute (s : State) (p : Nat) : State :=
  let x := part s p
  if x.holdCause = 4 then s
  else
    let r := recompute s p (if x.holdCause = 3 then [] else x.combined)
    let t := applyRecompute s p r
    if x.holdCause = 1 then logStuck t p r.stuck else t

/-- HC1 acts on an answer (R125, R126): 1 COMMIT discards the recompute changes and goes on to the commit, 2 REPLAY, 3 SKIP. -/
def actAnswer (s : State) (p a : Nat) : State :=
  if !answerTaken s p a then ignoreAnswer s p a
  else
    coreReads 1 (policyTables s p) (fun s =>
    let s := fput s F.HUB_TRB_STAT.HOLDING 0 p
    match a with
    | 1 => commitStep (fput s F.HUB_TRB_STAT.REPLAYS 0 p) p false
    | 2 => replayStep s (answerRecompute s p) p false
    | _ => skipStep s (answerRecompute s p) p) s

/-- An answer is written: HC1 acts on it, at its restart when it does not run (R20, R27; assumption log 46). -/
def takeAnswer (src : Source) (p a : Nat) (s : State) : State :=
  if !answerFrom src s then s
  else if coreRuns s 1 then actAnswer s p a
  else modPart s p (fun x => { x with answers := x.answers ++ [a] })

/-- HC1 runs again and acts on the answers that wait. -/
def waitingAnswers (s : State) (p : Nat) : State :=
  (part s p).answers.foldl (fun s a => actAnswer s p a) (modPart s p (fun x => { x with answers := [] }))

/-- COMMIT (R125). -/
def execAnswerCommit (src : Source) (p : PartIx) (s : State) : Out := .next (takeAnswer src p 1 s)

/-- REPLAY (R125). -/
def execAnswerReplay (src : Source) (p : PartIx) (s : State) : Out := .next (takeAnswer src p 2 s)

/-- SKIP (R125, R126). -/
def execAnswerSkip (src : Source) (p : PartIx) (s : State) : Out := .next (takeAnswer src p 3 s)

/-- APPLY = 1 arms staging for the next boundary (R119, R130). -/
def execApply (src : Source) (p : PartIx) (s : State) : Out :=
  if answerFrom src s then .next (fput s F.HUB_TRB_STAT.APPLY_PENDING 1 p) else .next s

/-- HOLD_NEXT sets HOLDREQ in the next verdict payload (R130). -/
def execHoldNext (src : Source) (p : PartIx) (s : State) : Out :=
  if answerFrom src s then .next (modPart s p (fun x => { x with holdreq := true })) else .next s

end Sys2Proof.Machine
end

