-- ==== Sys2Proof/Machine/Energy.lean ====
section
/-! DEFINITION. Energy reports (R388) and the accounts they give (R385). -/

namespace Sys2Proof.Machine

/-- An account of a partition: category 0 CORE, 1 DMA, 2 LINK, 3 RED, 4 UPD (R385). -/
def acctFld : Nat → Fld
  | 0 => F.PWR_ACCT_CORE.UJ
  | 1 => F.PWR_ACCT_DMA.UJ
  | 2 => F.PWR_ACCT_LINK.UJ
  | 3 => F.PWR_ACCT_RED.UJ
  | _ => F.PWR_ACCT_UPD.UJ

def acct (s : State) (p cat : Nat) : Nat := fget s (acctFld cat) p

/-- The five accounts of a partition together (R420). -/
def acctSum (s : State) (p : Nat) : Nat := ((List.range 5).map (acct s p)).sum

/-- The 128 bytes of a report: cause 1 flip, 2 halt (R388). -/
def reportBytes (s : State) (p cause : Nat) : List Byte :=
  leBytes 4 0x5045524B ++ leBytes 2 1 ++ leBytes 1 p ++ leBytes 1 cause ++ leBytes 8 (fget s F.CRN_EPOCH.EPOCH p) ++
  leBytes 8 (tickNow s) ++ (List.range 5).flatMap (fun c => leBytes 8 (acct s p c)) ++ leBytes 8 (fget s F.PWR_POOL.UJ) ++
  leBytes 8 (fget s F.PWR_TOTAL.UJ) ++ leBytes 8 (fget s F.PWR_IN.UJ) ++ leBytes 8 (station s) ++ zeros 32

/-- HC3 writes a report to PWR_EREP_ADDRp, provided that it is not zero and the report lies in the partition's window (R388). -/
def energyReport (s : State) (p cause : Nat) : State :=
  let a := sget s F.PWR_EREP_ADDR.ADDR p * 128
  if a = 0 || !coreActs s 3 || !within a 128 (winLo s p) (winHi s p) then s else wrBytes s a (reportBytes s p cause)

end Sys2Proof.Machine
end

