-- ==== Sys2Proof/Machine/Issue.lean ====
section
/-! DEFINITION. Issue of one instruction: when a stream issues, the fetch rule (R500, R264), the predicate (R194), the reserved
fields (R195), precise traps (R184). -/

namespace Sys2Proof.Machine

/-- The instruction word of a command (R194). -/
def instrWord (opc : Nat) (i : Issue) : Nat := opc * 2 ^ 56 + b2n i.pn * 2 ^ 55 + i.pr.val * 2 ^ 52 + i.f.toNat

/-- The issuing stream's registers. -/
def strOf (s : State) (i : Issue) : StreamState := stream s i.cl i.st

/-- The program counter of the issuing stream. -/
def pcNow (s : State) (i : Issue) : Nat := pcOf s i.cl i.st

/-- Whether a stream takes its next instruction: it runs, or has the rest of the cycle in which the other stream trapped, and neither blocks,
stalls nor waits for data (R163, R165, R180, R185, R190, R198). -/
def canIssue (s : State) (i : Issue) : Bool :=
  let x := strOf s i
  !isFrozen s && !isStopped s && (x.running || x.lastCycle) && !x.ended && x.block.isNone && x.stalled.isNone && x.load.isNone

/-- The address from which a stream fetches. -/
def fetchAt (s : State) (i : Issue) : Nat := pcNow s i + (strOf s i).pcHigh * 2 ^ 48

/-- An address of the code region of the cluster's image, 8-byte aligned (R500). -/
def inCodeRegion (s : State) (c a : Nat) : Bool :=
  a % 8 = 0 && (match partOf s c with
    | some p => match (part s p).image with
      | some im => within a 8 im.codeBase (im.codeBase + im.codeSize)
      | none => false
    | none => false)

/-- A precise trap of the issuing stream at its instruction (R184, R185). -/
def precise (s : State) (i : Issue) (cause info : Nat) : State := takeTrap s i.cl i.st (pcNow s i) cause info false

/-- The stream goes on at the next word. -/
def advance (s : State) (i : Issue) : State := setPc s i.cl i.st (pcNow s i + 8)

/-- Whether the instruction executes: p[PR] XOR PN is 1 (R194). -/
def predicateOn (s : State) (i : Issue) : Bool := preg (strOf s i) i.pr.val != i.pn

/-- One instruction at the head of a stream that issues: ADDR_FAULT or FETCH_UE by the fetch; one issue cycle where the predicate is 0; ILLEGAL
where a field is reserved; else the body. -/
def issueNow (opc : Nat) (legal : Bool) (body : State → State) (i : Issue) (s : State) : State :=
  if !inCodeRegion s i.cl (fetchAt s i) then precise s i 0x04 (fetchAt s i)
  else
    match checkRange (srcCluster 0 i.cl) (s, none) (pcNow s i) (pcNow s i + 8) with
    | (t, some bad) => faultFor (precise t i 0x0C (pcNow t i)) i.cl (srcCluster 0 i.cl) (some bad)
    | (t, none) =>
      if !predicateOn t i then advance t i
      else if !legal then precise t i 0x01 (instrWord opc i)
      else body t

/-- One instruction: nothing where the stream does not issue; the cycle of the other stream's trap ends with it (R185). -/
def issue (opc : Nat) (legal : Bool) (body : State → State) (i : Issue) (s : State) : Out :=
  if !canIssue s i then .next s
  else if (strOf s i).running then .next (issueNow opc legal body i s)
  else .next (endCycle (issueNow opc legal body i s) i.cl)

/-- Field limits of R195. -/
def isS (n : Nat) : Bool := n ≤ 31
def isA (n : Nat) : Bool := n ≤ 15
def isP (n : Nat) : Bool := n ≤ 7

/-- Reserved bits hi down to lo are 0. -/
def zeroBits (i : Issue) (hi lo : Nat) : Bool := fieldOf i hi lo = 0

/-- Change the issuing stream's registers and go on. -/
def retire (f : StreamState → StreamState) (s : State) (i : Issue) : State :=
  advance (modStr s i.cl i.st f) i

end Sys2Proof.Machine
end

