-- ==== Sys2Proof/Machine/Tensor.lean ====
section
/-! DEFINITION. Issue of tensor operations (R164, R165, R170, R172, R199 to R201, R208 to R223): the operands of each opcode and their
checks, slots at issue (R81, R200, R216), the copies an operation takes and its token reservation. -/

namespace Sys2Proof.Machine

/-! ### Operands -/

/-- A descriptor that an operation names, with what its position asks; more: further checks of R201, by number, that fail. -/
structure Operand where
  reg : Nat
  desc : BitVec 512
  pos : Position
  optional : Bool
  addr : Bool
  own : Bool
  more : List (Nat × Bool)

/-- The lowest of two optional numbers. -/
def lower : Option Nat → Option Nat → Option Nat
  | none, b => b
  | a, none => a
  | some a, some b => some (min a b)

/-- The first failing check of an operand (R201). -/
def operandFail (o : Operand) : Option Nat :=
  if o.optional && isAbsent o.desc then none
  else o.more.foldl (fun acc m => if m.2 then lower acc (some m.1) else acc) (firstCheck o.pos o.desc)

/-- The first failing operand: SEQ_TRAP_INFO of DESC_FAULT (R184, R201). -/
def descFail (os : List Operand) : Option Nat :=
  os.findSome? (fun o => (operandFail o).map (fun n => o.reg + 256 * n))

/-- The first address outside what an operand may touch (R169, R208). -/
def addrFail (s : State) (c : Nat) (os : List Operand) : Option Nat :=
  os.findSome? (fun o =>
    if !o.addr || (o.optional && isAbsent o.desc) then none
    else
      let t := tensOf c o.desc
      match partOf s c with
      | none => some t.base
      | some p =>
        match operandBreach s p t o.pos.dest with
        | some a => some a
        | none => if o.own && t.tag = 0 then
            (operandRanges t).findSome? (fun r => if inOwnStores s c r.1 r.2 then none else some (endIn (ownStores s c) r.1))
          else none)

def allFmts : List Fmt := [.fp32, .bf16, .fp16, .e4m3, .e5m2, .e2m1, .int8, .int4, .uint8]
def narrowFmts : List Fmt := [.e4m3, .e5m2, .e2m1, .int8, .int4]
def rowFmts : List Fmt := [.fp32, .bf16, .e4m3, .e5m2]
def allLayouts : List Nat := [0, 1, 2]

/-- A position that takes any format. -/
def anyPos (dest : Bool) : Position := { dest := dest, fmts := allFmts, layouts := allLayouts }

def mkOperand (s : State) (c reg : Nat) (pos : Position) (more : List (Nat × Bool)) (optional : Bool := false) : Operand :=
  ⟨reg, tdReg (clu s c) reg, pos, optional, true, false, more⟩

/-! ### Windows (R199) -/

def winI0 (w : Word) : Nat := bitsOf w 23 0
def winI1 (w : Word) : Nat := bitsOf w 47 24
def winI2 (w : Word) : Nat := bitsOf w 63 48

/-- Offsets of a copy's window are off their multiples (R209). -/
def windowOff (t : Tens) (w : Word) : Bool :=
  (t.layout ≠ 0 && winI0 w % 32 ≠ 0) || (t.layout = 2 && winI1 w % 32 ≠ 0) || (t.hasMap && winI0 w % 128 ≠ 0)

/-- A TRQ combination that R136 refuses. -/
def trqRefused (t : Tens) : Bool := t.trq != (t.layout = 1 || t.hasMap)

/-- Number of elements. -/
def countOf (t : Tens) : Nat := t.n0 * t.n1 * t.n2 * t.n3

/-- Rows: indices of dimensions 1 to 3 (R222). -/
def rowsOf (t : Tens) : Nat := t.n1 * t.n2 * t.n3

def sameShape (a b : Tens) : Bool := a.n0 = b.n0 && a.n1 = b.n1 && a.n2 = b.n2 && a.n3 = b.n3

/-! ### What an operation takes at issue -/

/-- What issue of an operation gives: the operands in the order of R201, the scalar words copied, the slots used, the slots' new
issue state, and whether ACC_SLOT is raised (its information). -/
structure Plan where
  opnds : List Operand
  words : List Word
  uses : List SlotUse := []
  slots : List (Nat × Slot) := []
  accSlot : Option Nat := none
  early : Option Nat := none

/-! ### Format L -/

def lD (i : Issue) : Nat := fieldOf i 49 44
def lS (i : Issue) : Nat := fieldOf i 43 38
def lRW (i : Issue) : Nat := fieldOf i 37 32
def lREM (i : Issue) : Bool := fieldOf i 31 31 = 1
def lCH (i : Issue) : Nat := fieldOf i 51 50

/-- A stash descriptor's or plain descriptor's view at a register. -/
def tensAt (s : State) (c n : Nat) : Tens := tensOf c (tdReg (clu s c) n)

def planCopy (op : TOp) (i : Issue) (s : State) : Plan :=
  let c := i.cl.val
  let w := sreg (strOf s i) (lRW i)
  let d := tensAt s c (lD i)
  let x := tensAt s c (lS i)
  let agree : List (Nat × Bool) :=
    [(10, d.hasMap != x.hasMap), (13, d.fmt ≠ x.fmt || d.layout ≠ x.layout)]
  match op with
  | .ldt =>
    { opnds := [{ mkOperand s c (lD i) (anyPos true) agree with own := true },
                mkOperand s c (lS i) (anyPos false) [(12, winI2 w ≥ x.n2 || windowOff x w)]], words := [w] }
  | .ldtTr =>
    { opnds := [{ mkOperand s c (lD i) (anyPos true)
                   [(10, d.hasMap), (13, d.fmt ≠ x.fmt || d.layout ≠ (if x.trq then 1 else x.layout))] with own := true },
                mkOperand s c (lS i) { anyPos false with multiple32 := true }
                   [(11, trqRefused x), (12, winI2 w ≥ x.n2 || windowOff x w)]], words := [w] }
  | .stt =>
    { opnds := [mkOperand s c (lD i) (anyPos true) (agree ++
                   [(12, winI2 w ≥ d.n2 || windowOff d w || d.n0 < winI0 w + x.n0 || d.n1 < winI1 w + x.n1 ||
                         d.n2 < winI2 w + x.n2 || d.n3 < x.n3)]),
                { mkOperand s c (lS i) (anyPos false) [] with own := true }], words := [w] }
  | _ =>
    { opnds := [{ mkOperand s c (lD i) (anyPos true) (agree ++ [(13, !sameShape d x)]) with addr := !lREM i },
                mkOperand s c (lS i) (anyPos false) []], words := [w] }

/-! ### Format E -/

def eE (i : Issue) : Nat := fieldOf i 51 50
def eSL (i : Issue) : Nat := fieldOf i 49 46
def eST (i : Issue) : Nat := fieldOf i 45 44
def eTA (i : Issue) : Bool := fieldOf i 43 43 = 1
def eTB (i : Issue) : Bool := fieldOf i 42 42 = 1
def eBSRC (i : Issue) : Bool := fieldOf i 41 41 = 1
def eTDA (i : Issue) : Nat := fieldOf i 40 35
def eTDB (i : Issue) : Nat := fieldOf i 34 29
def eSWA (i : Issue) : Nat := fieldOf i 28 24
def eSWB (i : Issue) : Nat := fieldOf i 23 19
def eSC (i : Issue) : Nat := fieldOf i 18 14
def eTDL (i : Issue) : Nat := fieldOf i 13 8

/-- The formats that an operand class of R65 takes: E4M3 or E5M2 for f8. -/
def mmaFmts : Fmt → List Fmt
  | .e4m3 => [.e4m3, .e5m2]
  | f => [f]

/-- The FP32 scale that an operand brings to the slot: its SCALE under layout 0, 1.0 otherwise and after the requantiser (R81, R137). -/
def pairScale (t : Tens) (tr : Bool) : BitVec 32 :=
  if t.layout = 0 && !(tr && t.trq) then t.scaleBits else 0x3F800000

/-- A slot of engine e. -/
def slotOf (s : State) (c e sl : Nat) : Slot := ngetD .reset (clu s c).slots (16 * e + sl)

/-- Physical rows of a slot: [base, end). -/
def slotEnd (x : Slot) : Nat := x.base + (if x.comp then 2 * x.rows else x.rows)

/-- Open rows of the engine overlap [lo, hi). -/
def slotsOverlap (s : State) (c e lo hi : Nat) : Bool :=
  (List.range 16).any (fun k => let x := slotOf s c e k; x.isOpen && x.base < hi && lo < slotEnd x)

def planMma (b a : Fmt) (i : Issue) (s : State) : Plan :=
  let c := i.cl.val
  let e := eE i
  let r := sreg (strOf s i)
  let wa := r (eSWA i)
  let wb := r (eSWB i)
  let sc := r (eSC i)
  let ta := tensAt s c (eTDA i)
  let tb := tensAt s c (eTDB i)
  let tl := tensAt s c (eTDL i)
  let comp := bitOf sc 21
  let m := bitsOf sc 20 10
  let base := bitsOf sc 9 0
  let old := slotOf s c e (eSL i)
  let sA := pairScale ta (eTA i)
  let sB := pairScale tb (eTB i)
  let opened : Slot := { old with isOpen := true, base := base, rows := m, comp := comp, sA := sA, sB := sB }
  let cur := if eST i = 0 then old else opened
  let n1 := if eTA i then ta.n0 else ta.n1
  let badOpen := bitsOf sc 63 22 ≠ 0 || old.isOpen || m = 0 || base % (if comp then 64 else 32) ≠ 0 ||
    (if comp then 512 else 1024) < m || 1024 < slotEnd opened || slotsOverlap s c e base (slotEnd opened)
  let badCont := !old.isOpen || old.sA ≠ sA || old.sB ≠ sB
  let bad := (if eST i = 0 then badCont else badOpen) || n1 < winI1 wa + cur.rows
  { opnds := [mkOperand s c (eTDA i) { anyPos false with fmts := mmaFmts a, multiple32 := eTA i }
                [(11, eTA i && trqRefused ta), (12, winI0 wa % 128 ≠ 0 || winI2 wa ≥ ta.n2)],
              mkOperand s c (eTDB i) { anyPos false with fmts := mmaFmts b, multiple32 := eTB i }
                [(10, ta.hasMap && tb.hasMap), (11, eTB i && trqRefused tb),
                 (12, !eBSRC i && (winI0 wb % 128 ≠ 0 || winI1 wb % 32 ≠ 0 || winI2 wb ≥ tb.n2))]] ++
             (if eST i = 2 then
                [mkOperand s c (eTDL i) { anyPos false with fmts := [.fp32] }
                   [(4, tl.layout ≠ 0), (13, tl.n0 ≠ 256 || tl.n1 ≠ (if comp then 2 * m else m))]] else []),
    words := [wa, wb, sc],
    uses := [⟨eSL i, cur.base, cur.rows, cur.comp, cur.sA, cur.sB⟩],
    slots := if eST i = 0 then [] else [(16 * e + eSL i, opened)],
    accSlot := if bad then some (e + 16 * eSL i) else none }

/-! ### Format G -/

def gREL (i : Issue) : Bool := fieldOf i 45 45 = 1
def gFN (i : Issue) : Nat := fieldOf i 44 42
def gPS (i : Issue) : Nat := fieldOf i 41 40
def gTO (i : Issue) : Nat := fieldOf i 39 34
def gTX1 (i : Issue) : Nat := fieldOf i 33 28
def gTX2 (i : Issue) : Nat := fieldOf i 27 22
def gTO2 (i : Issue) : Nat := fieldOf i 21 16
def gGSL (i : Issue) : Nat := fieldOf i 21 18
def gSW (i : Issue) : Nat := fieldOf i 15 11
def gWRAP (i : Issue) : Bool := fieldOf i 10 10 = 1
def gINF (i : Issue) : Bool := fieldOf i 9 9 = 1

/-- Parallel parts by PS (R214). -/
def gParts (i : Issue) : Nat := 2 ^ gPS i

/-- Numbers of the slots a drain names: the parts from SL, then for drain.gate the gate parts. -/
def drainSlots (op : TOp) (i : Issue) : List Nat :=
  (List.range (gParts i)).map (eSL i + ·) ++
  (if op = .drainGate then (List.range (gParts i)).map (gGSL i + ·) else [])

/-- ACC_SLOT of a drain (R215, R216). -/
def drainSlotBad (s : State) (c e : Nat) (op : TOp) (i : Issue) : Bool :=
  let ns := drainSlots op i
  let xs := ns.map (slotOf s c e)
  let m := ((xs.head?).getD .reset).rows
  let same := fun (l : List Slot) => match l with
    | x :: t => t.all (fun y => y.sA = x.sA && y.sB = x.sB)
    | [] => true
  ns.any (15 < ·) || !noRepeat ns || xs.any (fun x => !x.isOpen || x.rows ≠ m) ||
  !same (xs.take (gParts i)) || !same (xs.drop (gParts i))

/-- Checks on the output window of a drain (R95, R199, R215). -/
def drainWindow (w : Word) (o : Tens) (m rows : Nat) : List (Nat × Bool) :=
  [(6, o.layout = 2 && m % 32 ≠ 0),
   (12, winI2 w ≥ o.n2 || o.n1 < winI1 w + rows || (o.layout ≠ 0 && winI0 w % 32 ≠ 0) ||
        (o.layout = 2 && winI1 w % 32 ≠ 0))]

def planDrain (op : TOp) (i : Issue) (s : State) : Plan :=
  let c := i.cl.val
  let e := eE i
  let w := sreg (strOf s i) (gSW i)
  let first := slotOf s c e (eSL i)
  let m := if first.isOpen then first.rows else 0
  let rows := if op = .drainRaw && first.comp && gPS i = 0 then 2 * m else m
  let o := tensAt s c (gTO i)
  let o2 := tensAt s c (gTO2 i)
  let out := mkOperand s c (gTO i) (anyPos true)
    ([(4, op = .drainRaw && (gFN i ≠ 0 || o.fmt ≠ .fp32 || o.layout ≠ 0))] ++ drainWindow w o m rows)
  let biasPos : Position := { dest := false, fmts := [.fp32, .bf16], layouts := [0] }
  let bias := fun r => mkOperand s c r biasPos [(13, (tensAt s c r).ndim ≠ 0)] true
  let src := fun r => mkOperand s c r (anyPos false) []
  let rest : List Operand := match op with
    | .drainAct => [bias (gTX1 i)]
    | .drainGate => [bias (gTX1 i), bias (gTX2 i)]
    | .drainDact => [src (gTX1 i), bias (gTX2 i)]
    | .drainDgate => [mkOperand s c (gTO2 i) (anyPos true)
        ([(13, o2.fmt ≠ o.fmt || o2.layout ≠ o.layout)] ++ drainWindow w o2 m rows), src (gTX1 i), src (gTX2 i)]
    | _ => []
  let ns := drainSlots op i
  { opnds := out :: rest, words := [w],
    uses := ns.map (fun k => let x := slotOf s c e k; ⟨k, x.base, x.rows, x.comp, x.sA, x.sB⟩),
    slots := if gREL i then ns.map (fun k => (16 * e + k, { slotOf s c e k with isOpen := false })) else [],
    accSlot := if drainSlotBad s c e op i then some (e + 16 * eSL i) else none }

/-! ### Formats Q, W, V, C -/

def planQz (sheet : Bool) (i : Issue) (s : State) : Plan :=
  let c := i.cl.val
  let d := tensAt s c (fieldOf i 51 46)
  let x := tensAt s c (fieldOf i 45 40)
  let om := fieldOf i 39 38
  { opnds := [mkOperand s c (fieldOf i 51 46)
                { dest := true, fmts := narrowFmts, layouts := [if sheet then 2 else 1], noMap := om = 0, needMap := om ≠ 0 }
                [(13, !sameShape d x)],
              mkOperand s c (fieldOf i 45 40) { dest := false, fmts := [.fp32, .bf16], layouts := [0] } []],
    words := [sreg (strOf s i) (fieldOf i 37 32)] }

/-- Position of a row-engine tensor (R142). -/
def rowIn : Position := { dest := false, fmts := rowFmts, layouts := allLayouts, rowLimit := true }
def rowOut : Position := { dest := true, fmts := allFmts, layouts := allLayouts, noMap := true, rowLimit := true }

/-- A vector of D values: γ, β (R144). -/
def vecBad (v x : Tens) : Bool := v.n0 ≠ x.n0 || rowsOf v ≠ 1

def planRow (op : TOp) (i : Issue) (s : State) : Plan :=
  let c := i.cl.val
  let r := sreg (strOf s i)
  let t := fun hi => tensAt s c (fieldOf i hi (hi - 5))
  let mk := fun hi pos more => mkOperand s c (fieldOf i hi (hi - 5)) pos more
  let shape := fun a b : Nat => (13, !sameShape (t a) (t b))
  match op with
  | .rowfwdNorm =>
    let rms := fieldOf i 21 21 = 1
    { opnds := [mk 51 rowOut [shape 51 45], mk 45 rowIn [], mk 39 { rowIn with rowLimit := false } [(13, vecBad (t 39) (t 45))],
                mkOperand s c (fieldOf i 33 28) { rowIn with rowLimit := false }
                  [(4, rms), (13, vecBad (t 33) (t 45))] rms],
      words := [r (fieldOf i 27 22)] }
  | .rowfwdSmax =>
    { opnds := [mk 51 rowOut [shape 51 45], mk 45 rowIn []], words := [r (fieldOf i 39 34), r (fieldOf i 33 28)] }
  | .rowfwdSmerge =>
    { opnds := [mk 51 rowOut [shape 51 45], mk 45 rowIn [], mk 39 rowIn [shape 39 45]], words := [] }
  | .rowbwdNorm =>
    let rms := fieldOf i 21 21 = 1
    let g := t 27
    { opnds := [mk 51 rowOut [shape 51 45],
                mk 27 { dest := true, fmts := [.fp32], layouts := [0] }
                  [(13, g.n0 ≠ (t 39).n0 || rowsOf g ≠ g.n1 || !(g.n1 = 2 || (rms && g.n1 = 1)))],
                mk 45 rowIn [], mk 39 rowIn [shape 39 45],
                mk 33 { rowIn with rowLimit := false } [(13, vecBad (t 33) (t 39))]],
      words := [] }
  | _ =>
    { opnds := [mk 51 rowOut [shape 51 45], mk 45 rowIn [], mk 39 rowIn [shape 39 45]],
      words := [r (fieldOf i 33 28), r (fieldOf i 27 22)] }

/-- A length of an operand of v.ew agrees or is 1 (R221). -/
def broadcastBad (x d : Tens) : Bool :=
  (x.n0 ≠ d.n0 && x.n0 ≠ 1) || (x.n1 ≠ d.n1 && x.n1 ≠ 1) || (x.n2 ≠ d.n2 && x.n2 ≠ 1) || (x.n3 ≠ d.n3 && x.n3 ≠ 1)

def vFN (i : Issue) : Nat := fieldOf i 27 23
def vBS (i : Issue) : Bool := fieldOf i 22 22 = 1

def planVec (op : TOp) (i : Issue) (s : State) : Plan :=
  let c := i.cl.val
  let t := fun hi => tensAt s c (fieldOf i hi (hi - 5))
  let mk := fun hi pos more => mkOperand s c (fieldOf i hi (hi - 5)) pos more
  let d := t 51
  match op with
  | .vEw =>
    let useB := 1 ≤ vFN i && vFN i ≤ 6 && !vBS i
    { opnds := [mk 51 (anyPos true) [], mk 45 (anyPos false) [(13, broadcastBad (t 45) d)]] ++
               (if useB then [mk 39 (anyPos false) [(13, broadcastBad (t 39) d)]] else []) ++
               (if vFN i = 4 then [mk 33 (anyPos false) [(13, broadcastBad (t 33) d)]] else []),
      words := [sreg (strOf s i) (fieldOf i 21 16)] }
  | .vRed =>
    { opnds := [mk 51 { dest := true, fmts := [.fp32], layouts := [0] }
                  [(13, d.n0 ≠ 1 || d.n1 ≠ (t 45).n1 || d.n2 ≠ (t 45).n2 || d.n3 ≠ (t 45).n3)],
                mk 45 (anyPos false) []], words := [] }
  | .vGather =>
    { opnds := [mk 51 (anyPos true) [(13, d.n0 ≠ (t 45).n0 || rowsOf d ≠ (t 39).n0)], mk 45 (anyPos false) [],
                mk 39 { dest := false, fmts := [.fp32], layouts := [0] } [(13, (t 39).ndim ≠ 0)]], words := [] }
  | _ =>
    let add := fieldOf i 22 22 = 1
    { opnds := [mk 51 { anyPos true with fmts := if add then [.fp32] else allFmts }
                  [(13, d.n0 ≠ (t 45).n0 || rowsOf (t 45) ≠ (t 39).n0)], mk 45 (anyPos false) [],
                mk 39 { dest := false, fmts := [.fp32], layouts := [0] } [(13, (t 39).ndim ≠ 0)]], words := [] }

def cTD (i : Issue) : Nat := fieldOf i 51 46
def cTAG (i : Issue) : Nat := fieldOf i 45 34

/-- The wire formats a contribution may have (R223). -/
def gradFmts : List Fmt := [.fp32, .bf16, .e4m3, .e5m2, .int8]

def planBucket (op : TOp) (i : Issue) (s : State) : Plan :=
  let c := i.cl.val
  let t := tensAt s c (cTD i)
  let recv := op = .rrecv
  match (partOf s c).bind (fun p => (bucketEntry s p (cTAG i)).map (fun e => (p, e))) with
  | none => { opnds := [], words := [], early := some (cTD i + 256 * 15) }
  | some (p, e) =>
    if !recv && (nget (part s p).buckets (cTAG i)).isSome
    then { opnds := [], words := [], early := some (cTD i + 256 * 15) }
    else
      let own := 256 * shardLen e e.pos
      let more := if recv then [(13, own ≠ 0 && countOf t ≠ own)] else [(13, countOf t ≠ e.n)]
      { opnds := [mkOperand s c (cTD i)
          (if recv then { dest := true, fmts := [.fp32], layouts := [0] }
           else { dest := false, fmts := gradFmts, layouts := allLayouts }) ((4, recv && t.layout ≠ 0) :: more) recv], words := [] }

/-- The plan of an operation. -/
def planOf (op : TOp) (i : Issue) (s : State) : Plan :=
  match op with
  | .ldt | .ldtTr | .stt | .dma => planCopy op i s
  | .mma b a _ _ => planMma b a i s
  | .drainRaw | .drainAct | .drainGate | .drainDact | .drainDgate => planDrain op i s
  | .qzBlk => planQz false i s
  | .qzSheet => planQz true i s
  | .rowfwdNorm | .rowfwdSmax | .rowfwdSmerge | .rowbwdNorm | .rowbwdSmax => planRow op i s
  | .vEw | .vRed | .vGather | .vScatter => planVec op i s
  | .rsendB8 | .rsendBf16 | .rrecv => planBucket op i s

/-! ### Issue -/

/-- The precise trap that a plan raises, by ascending cause (R184, R185, R201): cause and information. -/
def planTrap (i : Issue) (s : State) (pl : Plan) : Option (Nat × Nat) :=
  match pl.early.or (descFail pl.opnds) with
  | some info => some (0x02, info)
  | none => match addrFail s i.cl pl.opnds with
    | some a => some (0x04, a)
    | none => match pl.accSlot with
      | some info => some (0x05, info)
      | none => if tokFull s i.cl (fTok i) 1 then some (0x08, fTok i) else none

def inflFld : Stream → Fld
  | .F => F.SEQ_STAT.INFL_F
  | .B => F.SEQ_STAT.INFL_B

/-- Both limits of R165 leave room for one operation of the stream. -/
def inflightRoom (s : State) (c : Nat) (st : Stream) : Bool :=
  fget s F.SEQ_STAT.INFL_F 0 c + fget s F.SEQ_STAT.INFL_B 0 c < 256 && fget s (inflFld st) 0 c < 224

/-- Bits of the open slots of an engine. -/
def openMask (s : State) (c e : Nat) : Nat :=
  (List.range 16).foldl (fun m k => if (slotOf s c e k).isOpen then m + 2 ^ k else m) 0

/-- The engine an operation runs on, if it runs on one. -/
def engineOf (op : TOp) (f : BitVec 52) : Option Nat :=
  match op with
  | .mma _ _ _ _ | .drainRaw | .drainAct | .drainGate | .drainDact | .drainDgate => some (bitsOf f 51 50)
  | _ => none

/-- The DMA channel an operation runs on, if it runs on one. -/
def channelOf (op : TOp) (f : BitVec 52) : Option Nat :=
  match op with
  | .ldt | .ldtTr | .stt | .dma => some (bitsOf f 51 50)
  | _ => none

/-- The operation issues: copies, slots, the token reservation, the counts (R165, R170, R172, R200). -/
def enterOp (op : TOp) (i : Issue) (s : State) (pl : Plan) (pc : Nat) : State :=
  let c := i.cl.val
  let k := clu s c
  let layer := fget s (layerFld i.st) 0 c
  let r : OpRec :=
    { id := k.nextId, st := i.st, pc := pc, layer := layer, op := op, f := i.f, descs := pl.opnds.map (·.desc),
      words := pl.words, slots := pl.uses, accInf := false, begun := false, asked := false, sent := false }
  let slots := pl.slots.foldl (fun m x => nset m x.1 x.2) k.slots
  let s := setClu s c { k with inflight := k.inflight ++ [r], nextId := k.nextId + 1, slots := slots }
  let s := setTokPending s c (fTok i) (tokPending s c (fTok i) + 1)
  let s := fput s (inflFld i.st) (fget s (inflFld i.st) 0 c + 1) 0 c
  let s := match engineOf op i.f with
    | some e =>
      let s := fput s F.SEQ_MX_STAT.QUEUED (fget s F.SEQ_MX_STAT.QUEUED e c + 1) e c
      fput s F.SEQ_MX_STAT.OPEN (openMask s c e) e c
    | none => s
  match channelOf op i.f with
  | some ch =>
    let s := fput s F.SEQ_DMA_STAT.QUEUED (fget s F.SEQ_DMA_STAT.QUEUED ch c + 1) ch c
    if fget s F.SEQ_DMA_STAT.STATE ch c = 0 then fput s F.SEQ_DMA_STAT.STATE 1 ch c else s
  | none => s

/-- Issue of a tensor operation whose fields are legal: stall at the limits of R165, trap, or enter the units. -/
def tensorBody (op : TOp) (i : Issue) (s : State) : State :=
  if !inflightRoom s i.cl i.st then modStr s i.cl i.st (fun x => { x with stalled := some (op, i) })
  else
    let pl := planOf op i s
    match planTrap i s pl with
    | some (cause, info) => precise s i cause info
    | none => advance (enterOp op i s pl (pcNow s i)) i

/-! ### The opcodes -/

/-- Reserved values of format L: a dma takes REM, and reads RW only with it (R208). -/
def lLegal (i : Issue) (rem : Bool) : Bool := ((rem && !lREM i) || isS (lRW i)) && zeroBits i 30 8 && (rem || !lREM i)

def execLdt (i : Issue) (s : State) : Out := issue 0x70 (lLegal i false) (tensorBody .ldt i) i s
def execLdtTr (i : Issue) (s : State) : Out := issue 0x71 (lLegal i false) (tensorBody .ldtTr i) i s
def execStt (i : Issue) (s : State) : Out := issue 0x72 (lLegal i false) (tensorBody .stt i) i s
def execDma (i : Issue) (s : State) : Out := issue 0x73 (lLegal i true) (tensorBody .dma i) i s

/-- Reserved values of format E (R211). -/
def eLegal (i : Issue) : Bool :=
  eST i ≠ 3 && (!eBSRC i || eSWB i = 0) && (eST i ≠ 0 || eSC i = 0) && (eST i = 2 || eTDL i = 0)

def execMmaF8F8 (i : Issue) (s : State) : Out := issue 0x80 (eLegal i) (tensorBody (.mma .e4m3 .e4m3 false false) i) i s
def execMmaF4xF8 (i : Issue) (s : State) : Out := issue 0x81 (eLegal i) (tensorBody (.mma .e2m1 .e4m3 true false) i) i s
def execMmaF8F4x (i : Issue) (s : State) : Out := issue 0x82 (eLegal i) (tensorBody (.mma .e4m3 .e2m1 false true) i) i s
def execMmaF4xF4x (i : Issue) (s : State) : Out := issue 0x83 (eLegal i) (tensorBody (.mma .e2m1 .e2m1 true true) i) i s
def execMmaI8I8 (i : Issue) (s : State) : Out := issue 0x84 (eLegal i) (tensorBody (.mma .int8 .int8 false false) i) i s
def execMmaI4xI8 (i : Issue) (s : State) : Out := issue 0x85 (eLegal i) (tensorBody (.mma .int4 .int8 true false) i) i s
def execMmaI8I4x (i : Issue) (s : State) : Out := issue 0x86 (eLegal i) (tensorBody (.mma .int8 .int4 false true) i) i s
def execMmaI4xI4x (i : Issue) (s : State) : Out := issue 0x87 (eLegal i) (tensorBody (.mma .int4 .int4 true true) i) i s
def execMmaBf16Bf16 (i : Issue) (s : State) : Out := issue 0x88 (eLegal i) (tensorBody (.mma .bf16 .bf16 false false) i) i s
def execMmaF16F16 (i : Issue) (s : State) : Out := issue 0x89 (eLegal i) (tensorBody (.mma .fp16 .fp16 false false) i) i s

def gLegal (i : Issue) : Bool := zeroBits i 8 8

def execDrainRaw (i : Issue) (s : State) : Out :=
  issue 0x90 (gLegal i && zeroBits i 33 16) (tensorBody .drainRaw i) i s
def execDrainAct (i : Issue) (s : State) : Out :=
  issue 0x91 (gLegal i && zeroBits i 27 16) (tensorBody .drainAct i) i s
def execDrainGate (i : Issue) (s : State) : Out :=
  issue 0x92 (gLegal i && zeroBits i 17 16) (tensorBody .drainGate i) i s
def execDrainDact (i : Issue) (s : State) : Out :=
  issue 0x93 (gLegal i && zeroBits i 21 16) (tensorBody .drainDact i) i s
def execDrainDgate (i : Issue) (s : State) : Out := issue 0x94 (gLegal i) (tensorBody .drainDgate i) i s

def qLegal (i : Issue) : Bool := fieldOf i 39 38 ≠ 3 && isS (fieldOf i 37 32) && zeroBits i 29 8

def execQzBlk (i : Issue) (s : State) : Out := issue 0xA0 (qLegal i) (tensorBody .qzBlk i) i s
def execQzSheet (i : Issue) (s : State) : Out := issue 0xA1 (qLegal i) (tensorBody .qzSheet i) i s

def execRowfwdNorm (i : Issue) (s : State) : Out :=
  issue 0xB0 (isS (fieldOf i 27 22) && zeroBits i 8 8) (tensorBody .rowfwdNorm i) i s
def execRowfwdSmax (i : Issue) (s : State) : Out :=
  issue 0xB1 (isS (fieldOf i 39 34) && isS (fieldOf i 33 28) && zeroBits i 14 8) (tensorBody .rowfwdSmax i) i s
def execRowfwdSmerge (i : Issue) (s : State) : Out := issue 0xB2 (zeroBits i 8 8) (tensorBody .rowfwdSmerge i) i s
def execRowbwdNorm (i : Issue) (s : State) : Out := issue 0xB3 (zeroBits i 8 8) (tensorBody .rowbwdNorm i) i s
def execRowbwdSmax (i : Issue) (s : State) : Out :=
  issue 0xB4 (isS (fieldOf i 33 28) && isS (fieldOf i 27 22) && zeroBits i 9 8) (tensorBody .rowbwdSmax i) i s

def execVEw (i : Issue) (s : State) : Out :=
  issue 0xC0 (vFN i ≤ 11 && isS (fieldOf i 21 16) && zeroBits i 13 8 && (!vBS i || zeroBits i 39 34))
    (tensorBody .vEw i) i s
def execVRed (i : Issue) (s : State) : Out :=
  issue 0xC1 (vFN i ≤ 2 && zeroBits i 39 28 && zeroBits i 22 8) (tensorBody .vRed i) i s
def execVGather (i : Issue) (s : State) : Out := issue 0xC2 (zeroBits i 33 8) (tensorBody .vGather i) i s
def execVScatter (i : Issue) (s : State) : Out :=
  issue 0xC3 (zeroBits i 33 23 && zeroBits i 21 8) (tensorBody .vScatter i) i s

end Sys2Proof.Machine
end

