-- ==== Sys2Proof/Machine/Stash.lean ====
section
/-! DEFINITION. The stash manager (R151 to R155), the statistics records (R148) and deferred traps (R184). -/

namespace Sys2Proof.Machine

/-- A deferred trap of an operation (R184, R185). -/
def deferTrap (s : State) (c : Nat) (r : OpRec) (cause info : Nat) : State := takeTrap s c r.st r.pc cause info true

/-- STASH_TAG with the tag as its information; TAG_FAULT is set (R152). -/
def tagTrap (s : State) (c : Nat) (r : OpRec) (tag : Nat) : State :=
  deferTrap (fset s F.SEQ_STH_EVT.TAG_FAULT 1 0 c) c r 0x06 tag

/-- STASH_EXHAUSTED with tag and granules requested; EXHAUSTED is set (R155). -/
def exhaustTrap (s : State) (c : Nat) (r : OpRec) (tag gran : Nat) : State :=
  deferTrap (fset s F.SEQ_STH_EVT.EXHAUSTED 1 0 c) c r 0x07 (tag + gran * 65536)

def tagLive (s : State) (c t : Nat) : Bool := (nget (clu s c).stash t).isSome

/-- Free granules of deep stash and of the partition's spill (R153). -/
def deepFree (s : State) (c : Nat) : Nat := (clu s c).stashLimit - fget s F.SEQ_STH_USED.GRAN 0 c
def spillFree (s : State) (c : Nat) : Nat := match partOf s c with
  | some p => fget s F.HUB_STH_SPILLSZ.GRAN p - fget s F.HUB_STH_SPILLUSED.GRAN p
  | none => 0

/-- Take deep granules. -/
def takeDeep (s : State) (c n : Nat) : State :=
  let u := fget s F.SEQ_STH_USED.GRAN 0 c + n
  let s := fput s F.SEQ_STH_USED.GRAN u 0 c
  fput s F.SEQ_STH_PEAK.GRAN (max u (fget s F.SEQ_STH_PEAK.GRAN 0 c)) 0 c

/-- Take spill granules. -/
def takeSpill (s : State) (c n : Nat) : State :=
  let s := fput s F.SEQ_STH_SPILLG.GRAN (fget s F.SEQ_STH_SPILLG.GRAN 0 c + n) 0 c
  match partOf s c with
  | some p =>
    let u := fget s F.HUB_STH_SPILLUSED.GRAN p + n
    let s := fput s F.HUB_STH_SPILLUSED.GRAN u p
    fput s F.HUB_STH_SPILLPEAK.GRAN (max u (fget s F.HUB_STH_SPILLPEAK.GRAN p)) p
  | none => s

/-- The first n bytes of gaps, as pieces. -/
def takeFrom : Nat → List (Nat × Nat) → List (Nat × Nat)
  | _, [] => []
  | n, (a, k) :: l => if n = 0 then [] else (a, min n k) :: takeFrom (n - min n k) l

/-- Pieces of live tags in rising order. -/
def sortPieces (es : List StashEntry) : List (Nat × Nat) :=
  (es.flatMap (·.place)).foldl (fun m p => nset m p.1 p.2) []

/-- The n lowest free granules of the deep stash of cluster c, or of its partition's spill region, as pieces (R151; assumption log 12). -/
def freePieces (s : State) (c : Nat) (spill : Bool) (n : Nat) : List (Nat × Nat) :=
  let live := fun d => ((clu s d).stash.map (·.2)).filter (fun e => e.spill == spill)
  if spill then match partOf s c with
    | some p =>
      let lo := fget s F.HUB_STH_SPILLBASE.ADDR p
      takeFrom (65536 * n) (gapsOf lo (lo + 65536 * fget s F.HUB_STH_SPILLSZ.GRAN p) (sortPieces ((clustersOf s p).flatMap live)))
    | none => []
  else takeFrom (4096 * n) (gapsOf (stashStart s c) (deepBase c + 0x20000000) (sortPieces (live c)))

/-- Make a tag live. -/
def makeTag (s : State) (c t : Nat) (e : StashEntry) : State :=
  let s := modClu s c (fun k => { k with stash := nset k.stash t e })
  fput s F.SEQ_STH_TAGS.LIVE (fget s F.SEQ_STH_TAGS.LIVE 0 c + 1) 0 c

/-- Put: allocate the whole footprint, in deep stash when it has room, else in spill, else STASH_EXHAUSTED (R152, R154, R155). The flag
says whether the operation goes on. -/
def putStash (s : State) (c : Nat) (r : OpRec) (t : Tens) : State × Bool :=
  let foot := stashFoot t
  let g := cdiv foot 4096
  let h := cdiv foot 65536
  if tagLive s c t.tag then (tagTrap s c r t.tag, false)
  else if g ≤ deepFree s c then (makeTag (takeDeep s c g) c t.tag ⟨foot, g, false, [], 0, freePieces s c false g⟩, true)
  else if h ≤ spillFree s c then
    let s := fset (fsat s F.SEQ_STH_SPILLCNT.COUNT 1 0 c) F.SEQ_STH_EVT.SPILL 1 0 c
    (makeTag (takeSpill s c h) c t.tag ⟨foot, h, true, [], 0, freePieces s c true h⟩, true)
  else (exhaustTrap s c r t.tag h, false)

/-- Release once a get with REL has read: a tag that is no longer live traps (R152). -/
def getRelease (s : State) (c : Nat) (r : OpRec) (t : Tens) : State :=
  if t.tag = 0 || !t.rel then s
  else if tagLive s c t.tag then releaseTag s c t.tag
  else tagTrap s c r t.tag

/-! ### Statistics records (R148) -/

/-- Side-memory records in use. -/
def sideUsed (s : State) (c : Nat) : List Nat := (clu s c).stash.flatMap (fun e => e.2.recs)

/-- The n lowest free records. -/
def lowestFree (used : List Nat) (n : Nat) : List Nat :=
  ((List.range (used.length + n)).filter (fun k => !used.contains k)).take n

/-- Where the records that went to the stash lie: behind the tensor, at a multiple of 8 bytes (R148; assumption log 12). -/
def statBase (c tag : Nat) (e : StashEntry) : Nat := stashBase c tag + 8 * cdiv e.foot 8

/-- A statistics record: two FP32 values; poisoned when a bad word took part (R96, R256). -/
def statWord (a b : Num) (bad : Bool) : CodeWord :=
  let w := (f32Bits b).zeroExtend 64 <<< 32 ||| (f32Bits a).zeroExtend 64
  if bad then poisonWord w else codeWord w
def statFst (w : CodeWord) : Num := f32Of (BitVec.ofNat 32 (bitsOf w.data 31 0))
def statSnd (w : CodeWord) : Num := f32Of (BitVec.ofNat 32 (bitsOf w.data 63 32))
/-- A record arrives bad (R219). -/
def statBad (w : CodeWord) : Bool := !isGood (classOf (syndromeOf w))

/-- A reader meets a record of the side memory (R254, R262, R263). -/
def meetRecord (c src : Nat) (st : Met) (n : Nat) : Met :=
  let (st, w) := meetCell src (Config.cellAddress 1 c n % 2 ^ 48) n (sideLoc c n) st (ngetD (codeWord 0) (clu st.1 c).side n)
  (modClu st.1 c (fun k => { k with side := nput (codeWord 0) k.side n w }), st.2)

/-- Read the first n records of a tag: corrected, retried and counted; a bad one faults the step (R219, R262 to R264). -/
def readStats (s : State) (c : Nat) (src tag n : Nat) : State × List CodeWord :=
  match nget (clu s c).stash tag with
  | none => (s, List.replicate n (codeWord 0))
  | some e =>
    if e.recs.isEmpty then
      let a := statBase c tag e
      let k := min n e.spilled
      let (s, bad) := checkRanges src s [(a, a + 8 * k)]
      (faultFor s c src bad, (List.range n).map (fun i =>
        let w := BitVec.ofNat 64 (rdNat s (a + 8 * i) 8)
        if k ≤ i then codeWord 0 else ⟨w, checkByte w ^^^ synAt s (a + 8 * i)⟩))
    else
      let rs := e.recs.take n
      let (s, bad) := rs.foldl (meetRecord c src) (s, none)
      (faultFor s c src bad, (List.range n).map (fun i => match rs[i]? with
        | some r => ngetD (codeWord 0) (clu s c).side r
        | none => codeWord 0))

def setEntry (s : State) (c t : Nat) (e : StashEntry) : State := modClu s c (fun k => { k with stash := nset k.stash t e })

/-- Write the records of a row operation under a tag: over the records it has, into the lowest free side-memory records, or with the
tensor in the stash, 8 bytes each counted in its granules (R148). -/
def writeStats (s : State) (c : Nat) (r : OpRec) (tag : Nat) (ws : List CodeWord) : State :=
  match nget (clu s c).stash tag with
  | none => tagTrap s c r tag
  | some e =>
    let n := ws.length
    let put := fun (s : State) (rs : List Nat) =>
      modClu s c (fun k => { k with side := (rs.zip ws).foldl (fun m x => nput (codeWord 0) m x.1 x.2) k.side })
    let spill := fun (s : State) => (List.range n).foldl (fun s i =>
      let w := ws.getD i (codeWord 0)
      let a := statBase c tag e + 8 * i
      let s := wrNat s a 8 w.data.toNat
      if statBad w then poisonAt s a else s) s
    if n ≤ e.recs.length then put s e.recs
    else if n ≤ e.spilled then spill s
    else
      let s := fsub s F.SEQ_ROW_STAT.SIDE_USED e.recs.length 0 c
      let s := setEntry s c tag { e with recs := [] }
      let used := fget s F.SEQ_ROW_STAT.SIDE_USED 0 c
      if used + n ≤ 262144 then
        let rs := lowestFree (sideUsed s c) n
        let s := setEntry s c tag { e with recs := rs }
        put (fput s F.SEQ_ROW_STAT.SIDE_USED (used + n) 0 c) rs
      else
        let gsz := if e.spill then 65536 else 4096
        let more := cdiv (8 * cdiv e.foot 8 + 8 * n) gsz - e.gran
        let s := fsat s F.SEQ_ROW_SPILLCNT.COUNT 1 0 c
        if more ≤ (if e.spill then spillFree s c else deepFree s c) then
          let ps := freePieces s c e.spill more
          let s := if e.spill then takeSpill s c more else takeDeep s c more
          spill (setEntry s c tag { e with recs := [], spilled := n, gran := e.gran + more, place := e.place ++ ps })
        else exhaustTrap s c r tag more

end Sys2Proof.Machine
end

