-- ==== Sys2Proof/Machine/Units.lean ====
section
/-! DEFINITION. When an issued operation begins on its unit and what its completion does to tokens and counts (R69, R82, R138 to R141,
R172, R174, R176, R396). -/

namespace Sys2Proof.Machine

/-! ### Units -/

/-- The unit of an operation: 2e array and 2e + 1 drain of engine e, 8 quantiser, 9 vector unit, 10 row engine, 16 + ch DMA channel,
32 reduction units. -/
def unitOf (op : TOp) (f : BitVec 52) : Nat :=
  match op with
  | .mma _ _ _ _ => 2 * bitsOf f 51 50
  | .drainRaw | .drainAct | .drainGate | .drainDact | .drainDgate => 2 * bitsOf f 51 50 + 1
  | .qzBlk | .qzSheet => 8
  | .vEw | .vRed | .vGather | .vScatter => 9
  | .rowfwdNorm | .rowfwdSmax | .rowfwdSmerge | .rowbwdNorm | .rowbwdSmax => 10
  | .ldt | .ldtTr | .stt | .dma => 16 + bitsOf f 51 50
  | .rsendB8 | .rsendBf16 | .rrecv => 32

def unitR (r : OpRec) : Nat := unitOf r.op r.f

/-- SOURCE of the unit that reads an operation's operands (R275). -/
def sourceOf (c : Nat) (r : OpRec) : Nat :=
  let u := unitR r
  srcCluster (if u < 8 then (if u % 2 = 0 then 1 else 2) else if u = 8 then 5 else if u = 9 then 4 else if u = 10 then 3 else 6) c

/-- Bit position of a slotted unit's field in an interleave entry (R139). -/
def ilvField (u : Nat) : Nat := if u < 8 then u / 2 * 2 else if u = 8 then 12 else if u = 9 then 10 else 8

/-- The interleave code of a unit in the current slot: 2, open, with no table (R139, R141). -/
def ilvCode (s : State) (c u : Nat) : Nat :=
  if 16 ≤ u then 2
  else match (clu s c).ilv[fget s F.SEQ_ILV_POS.SLOT 0 c]? with
    | some e => bitsOf e (ilvField u + 1) (ilvField u)
    | none => 2

/-- The current slot grants the stream (R139, R140). -/
def slotGrants (s : State) (c u : Nat) (st : Stream) : Bool :=
  ilvCode s c u = 2 || ilvCode s c u = (match st with | .F => 0 | .B => 1)

/-- Operations begun on a unit. -/
def begunOn (k : Cluster) (u : Nat) : Nat := (k.inflight.filter (fun o => o.begun && unitR o = u)).length

/-- No operation of the unit's queue that must go first still waits: one of the same stream, of either stream on a DMA channel
(R140, R176). -/
def headOf (k : Cluster) (r : OpRec) : Bool :=
  !k.inflight.any (fun o => o.id < r.id && !o.begun && unitR o = unitR r && (16 ≤ unitR r || o.st = r.st))

/-- An mma that takes broadcast tiles (R211). -/
def takesTile (r : OpRec) : Bool := (match r.op with | .mma _ _ _ _ => true | _ => false) && bitOf r.f 41

/-- A tile is there for it. -/
def tileThere (k : Cluster) (r : OpRec) : Bool :=
  !takesTile r ||
  (k.inflight.filter (fun o => o.begun && unitR o = unitR r && takesTile o)).length < (ngetD [] k.tiles (bitsOf r.f 51 50)).length

/-- Rows of the accumulator that two operations share, or the same slot (R82). -/
def slotsMeet (a b : OpRec) : Bool :=
  engineOf a.op a.f = engineOf b.op b.f && (engineOf a.op a.f).isSome &&
  a.slots.any (fun x => b.slots.any (fun y =>
    x.slot = y.slot || (x.base < y.base + (if y.comp then 2 * y.rows else y.rows) &&
                        y.base < x.base + (if x.comp then 2 * x.rows else x.rows))))

/-- Every earlier operation on the same slot or the same rows has begun (R81, R82). -/
def slotOrder (k : Cluster) (r : OpRec) : Bool := !k.inflight.any (fun o => o.id < r.id && !o.begun && slotsMeet o r)

/-- The operation may begin now: its unit is free, its turn has come, the slot grants it (R69, R140, R176, R250). -/
def mayBegin (s : State) (c : Nat) (r : OpRec) : Bool :=
  let k := clu s c
  let u := unitR r
  !r.begun && u ≠ 32 && headOf k r && slotOrder k r && tileThere k r && slotGrants s c u r.st &&
  (begunOn k u < (if u < 8 && u % 2 = 0 then 2 else 1)) &&
  (u < 16 || fget s F.SEQ_DMA_STAT.STATE (u - 16) c ≠ 2)

/-- F first in an open slot (R140, R162). -/
def yields (s : State) (c : Nat) (r : OpRec) : Bool :=
  r.st = .B && unitR r < 16 && (clu s c).inflight.any (fun o => o.st = .F && unitR o = unitR r && mayBegin s c o)

/-! ### Operands of an operation in flight -/

/-- Destinations stand first among an operation's descriptors. -/
def destCount : TOp → Nat
  | .mma _ _ _ _ => 0
  | .drainDgate => 2
  | .rowbwdNorm => 2
  | .rsendB8 | .rsendBf16 => 0
  | _ => 1

/-- Descriptor n as the operation uses it; none when absent. -/
def opTens (c : Nat) (r : OpRec) (n : Nat) : Option Tens :=
  match r.descs[n]? with
  | some d => if isAbsent d then none else some (tensOf c d)
  | none => none

/-- The destinations on this station. -/
def destsOf (c : Nat) (r : OpRec) : List Tens :=
  if r.op = .dma && bitOf r.f 31 then [] else (List.range (destCount r.op)).filterMap (opTens c r)

/-- The sources that the unit reads from stores; a broadcast tile is none. -/
def srcsOf (c : Nat) (r : OpRec) : List Tens :=
  (List.range r.descs.length).filterMap (fun n =>
    if n < destCount r.op || (n = 1 && takesTile r) then none else opTens c r n)

/-- A quantiser operation with a fixed map (R101). -/
def fixedMap (r : OpRec) : Bool := (r.op = .qzBlk || r.op = .qzSheet) && bitsOf r.f 39 38 = 2

/-- A tensor whose outlier map breaks R49 (cause 0x03), as the address its descriptor gives: sources, the descriptor of broadcast tiles, and
destinations whose elements are read back through their map. -/
def mapFault (s : State) (c : Nat) (r : OpRec) : Option Nat :=
  let back := (destsOf c r).filter (fun t => fixedMap r || (t.tag = 0 && (r.op = .vScatter || r.op = .rowbwdNorm)))
  let ts := srcsOf c r ++ (if takesTile r then (opTens c r 1).toList else []) ++ back
  (ts.find? (fun t => !mapValid s t)).map (fun t => t.omap % 2 ^ 48)

/-- Tags of statistics that a row operation needs live (R219); a rowbwd needs one that is not 0. -/
def statTags (r : OpRec) : List Nat :=
  match r.op with
  | .rowfwdNorm => (if bitsOf r.f 20 9 = 0 then [] else [bitsOf r.f 20 9])
  | .rowfwdSmax => (if bitsOf r.f 26 15 = 0 then [] else [bitsOf r.f 26 15])
  | .rowfwdSmerge => [bitsOf r.f 33 22, bitsOf r.f 21 10]
  | .rowbwdNorm => [bitsOf r.f 20 9]
  | .rowbwdSmax => [bitsOf r.f 21 10]
  | _ => []

/-! ### Begin -/

/-- Change the record of an operation. -/
def modOp (s : State) (c id : Nat) (f : OpRec → OpRec) : State :=
  modClu s c (fun k => { k with inflight := k.inflight.map (fun o => if o.id = id then f o else o) })

/-- Every put among the destinations is placed, in order. -/
def placePuts (s : State) (c : Nat) (r : OpRec) : List Tens → State × Bool
  | [] => (s, true)
  | t :: ts =>
    if t.tag = 0 then placePuts s c r ts
    else match putStash s c r t with
      | (s, true) => placePuts s c r ts
      | (s, false) => (s, false)

/-- The operation begins: tags and maps are checked before an element is read (R49, R152, R219), puts are placed (R154), ACC_INF is
sampled (R99), the unit shows busy. -/
def startOp (s : State) (c : Nat) (r : OpRec) : State :=
  match ((srcsOf c r).filter (fun t => t.tag ≠ 0)).map (·.tag) ++ statTags r |>.find? (fun t => !tagLive s c t) with
  | some t => tagTrap s c r t
  | none => match mapFault s c r with
    | some a => deferTrap s c r 0x03 a
    | none => match placePuts s c r (destsOf c r) with
      | (s, false) => s
      | (s, true) =>
        let inf := match engineOf r.op r.f with
          | some e => bitsOf (regBefore s .SEQ_MX_CTL e c) 0 0 == 1
          | none => false
        let s := modOp s c r.id (fun o => { o with begun := true, accInf := inf })
        match engineOf r.op r.f with
        | some e =>
          let s := fput s F.SEQ_MX_STAT.BUSY 1 e c
          if unitR r % 2 = 0 then modClu s c (fun k => { k with lastRow := nset k.lastRow e s.tick }) else s
        | none => if unitR r = 10 then fput s F.SEQ_ROW_STAT.BUSY 1 0 c else s

/-- A pass that begins an engine start (R396). -/
def isEngineStart (s : State) (c : Nat) (r : OpRec) : Bool :=
  unitR r < 8 && unitR r % 2 = 0 &&
  (match nget (clu s c).lastRow (unitR r / 2) with
   | some t => t + 64 < s.tick
   | none => true)

/-- Put a request into the wake queue: by tick of arrival, within a tick by requester code (R397). -/
def insertWake (w : WakeReq) : List WakeReq → List WakeReq
  | [] => [w]
  | x :: xs => if x.tick = w.tick && w.code < x.code then w :: x :: xs else x :: insertWake w xs

def requestWake (s : State) (code op : Nat) : State :=
  let q := insertWake ⟨s.tick, code, op⟩ s.power.queue
  let s := { s with power := { s.power with queue := q } }
  fput s F.PWR_TOK_STAT.QUEUED q.length

/-! ### Completion -/

/-- The oldest begun operation of a unit. -/
def oldestBegun (s : State) (c u : Nat) : Option OpRec := (clu s c).inflight.find? (fun o => o.begun && unitR o = u)

/-- No earlier operation on the same slot or the same rows is still to complete (R81, R82). -/
def slotTurn (s : State) (c : Nat) (r : OpRec) : Bool :=
  !(clu s c).inflight.any (fun o => o.id < r.id && slotsMeet o r)

/-- An operation completes: it leaves the unit, PENDING falls by 1 and COUNT rises by 1 (R172, R174). -/
def finishOp (s : State) (c : Nat) (r : OpRec) : State :=
  let k := bitsOf r.f 7 0
  let s := modClu s c (fun x => { x with inflight := x.inflight.filter (fun o => o.id ≠ r.id) })
  let s := setTokPending s c k (tokPending s c k - 1)
  let s := setTokCount s c k (tokCount s c k + 1)
  let s := fsub s (inflFld r.st) 1 0 c
  let s := match engineOf r.op r.f with
    | some e =>
      let s := fsub s F.SEQ_MX_STAT.QUEUED 1 e c
      let s := if unitR r % 2 = 0
        then modClu s c (fun x => { x with lastRow := nset x.lastRow e s.tick }) else s
      fput s F.SEQ_MX_STAT.BUSY (b2n (0 < begunOn (clu s c) (2 * e) || 0 < begunOn (clu s c) (2 * e + 1))) e c
    | none => s
  let s := match channelOf r.op r.f with
    | some ch =>
      let s := fsub s F.SEQ_DMA_STAT.QUEUED 1 ch c
      if fget s F.SEQ_DMA_STAT.QUEUED ch c = 0 then fput s F.SEQ_DMA_STAT.STATE 0 ch c else s
    | none => s
  if unitR r = 10 then fput s F.SEQ_ROW_STAT.BUSY 0 0 c else s

/-- The cluster has not trapped since the operation's data were handled: the operation is still in flight. -/
def stillThere (s : State) (c : Nat) (r : OpRec) : Bool := (clu s c).inflight.any (fun o => o.id = r.id)

/-- Release the gets with REL, then complete, unless a trap cut the operation short (R152, R174). -/
def releaseAndFinish (s : State) (c : Nat) (r : OpRec) : State :=
  let s := (srcsOf c r).foldl (fun s t => if stillThere s c r then getRelease s c r t else s) s
  if stillThere s c r then finishOp s c r else s

/-- The interleave slot counter completes a slot (R138). -/
def execSlotBoundary (cl : ClusterIx) (s : State) : Out :=
  if isFrozen s || isStopped s || fget s F.SEQ_STAT.STATE 0 cl ≠ 1 then .next s
  else
    let n := (clu s cl).ilv.length
    let cur := fget s F.SEQ_ILV_POS.SLOT 0 cl
    let s := fput s F.SEQ_ILV_POS.SLOT (if n = 0 then 0 else (cur + 1) % n) 0 cl
    .next (fput s F.SEQ_ILV_POS.CYCLE 0 0 cl)

end Sys2Proof.Machine
end

