-- ==== Sys2Proof/Machine/Remote.lean ====
section
/-! DEFINITION. Halts of a DMA channel (R250), and the WRITE packets of a remote DMA operation (R208, R249, R296 to R298). -/

namespace Sys2Proof.Machine

/-- An origin along dimensions 0 to 2; windows lie at index 0 of dimension 3 (R199). -/
structure Origin where
  a : Nat
  b : Nat
  c : Nat

def originOf (w : Word) : Origin := ⟨winI0 w, winI1 w, winI2 w⟩
def originZero : Origin := ⟨0, 0, 0⟩

/-- Bytes that a copy of an extent moves: elements, scales, map. -/
def copyBytes (d : Tens) (n0 n1 n2 n3 : Nat) : Nat :=
  elemBytes d.fmt (n0 * n1 * n2 * n3) +
  (if d.layout = 1 then n0 * n1 * n2 * n3 / 32 else if d.layout = 2 then n0 * n1 * n2 * n3 / 1024 else 0) +
  (if d.hasMap then 16 * cdiv n0 128 * (1 + n1 * n2 * n3) else 0)

/-- A channel halts: cause, address, station of a refusal, the DMA_HALT notice (R250). -/
def haltChannel (s : State) (c ch cause addr st : Nat) : State :=
  let s := fput s F.SEQ_DMA_STAT.STATE 2 ch c
  let s := fput s F.SEQ_DMA_STAT.CAUSE cause ch c
  let s := fput s F.SEQ_DMA_STAT.STATION st ch c
  let s := fput s F.SEQ_DMA_ERRADDR.ADDR addr ch c
  seqNotice (fsat s F.SEQ_DMA_HALTS.COUNT 1 ch c) c 3

/-- A channel met a bad word: it halts with CAUSE uncorrectable and the step is faulted, event 3 (R250, R264, R265). -/
def haltBad (s : State) (c ch src addr : Nat) : State := faultFor (haltChannel s c ch 1 addr 0) c src (some (addr, 3))

/-- First address of an operation's ranges that no store holds (R226). -/
def busError (s : State) (rs : List (Nat × Nat)) : Option Nat :=
  (rs.find? (fun r => r.1 < 0x1000000000000 && !inOneRow s r.1 (r.2 - r.1))).map (·.1)

/-- The words that a copy reads (R49, R199). -/
def copyRanges (r : OpRec) (x d : Tens) : List (Nat × Nat) :=
  let o := originOf (nth r.words 0 0)
  match r.op with
  | .ldt => windowRanges x o.a d.n0 o.b d.n1 o.c d.n2 0 d.n3
  | .ldtTr => windowRanges x o.a d.n1 o.b d.n0 o.c d.n2 0 d.n3
  | _ => wholeRanges x

/-- A remote DMA operation (R208). -/
def isRemote (r : OpRec) : Bool := r.op = .dma && bitOf r.f 31

/-- The source and destination address and the length in bytes of every contiguous piece of a whole-tensor copy: rows, scale array,
index table, value array (R42, R47, R48). -/
def copyPieces (x d : Tens) : List (Nat × Nat × Nat) :=
  (List.range x.n3).flatMap (fun c => (List.range x.n2).flatMap (fun b => (List.range x.n1).map (fun a =>
    (elemAddr x 0 a b c, elemAddr d 0 a b c, elemBytes x.fmt x.n0)))) ++
  (if x.layout = 0 then [] else [(scaleBase x, scaleBase d, scaleBytes x)]) ++
  (if x.hasMap && d.hasMap then [(x.omap, d.omap, mapBytes x)] else [])

/-- The data words of n bytes from an address, little-endian, the last padded with 0; a bad word travels poisoned. -/
def wordsFrom (s : State) (a n : Nat) : List CodeWord :=
  (List.range (cdiv n 8)).map (fun k =>
    let w := BitVec.ofNat 64 (rdNat s (a + 8 * k) (min 8 (n - 8 * k)))
    if badIn s (a + 8 * k) (a + 8 * k + min 8 (n - 8 * k)) then poisonWord w else codeWord w)

/-- Byte mask of the last payload word of n bytes (R296). -/
def lastMask (n : Nat) : Nat := if n % 8 = 0 then 0xFF else 2 ^ (n % 8) - 1

/-- Word 1 of a WRITE packet (R296). -/
def writeWord1 (addr mask : Nat) : Word := BitVec.ofNat 64 (addr % 2 ^ 48 + mask % 256 * 2 ^ 48)

/-- Send one WRITE packet of n bytes under the next TID, and remember it until it is acknowledged (R297, R298). kind, who, op: its owner. -/
def sendWrite (s : State) (dst kind who op src addr n : Nat) : State :=
  let tid := s.nextTid
  let ws := wordsFrom s src n
  let x : Sent := ⟨dst, s.tick, kind, who, op, addr, src, n, false⟩
  let s := { s with nextTid := (tid + 1) % 131072, sent := nset s.sent tid x }
  sendPacket s (mkPacket s dst 1 tid (writeWord1 addr (lastMask n)) ws)

/-- Send n bytes as WRITE packets of the largest payload toward the station (R292, R296; assumption log 22). -/
def sendBytes (s : State) (dst kind who op src addr n : Nat) : State :=
  let m := if versionToward s dst = 1 then 64 else 512
  foldRange (cdiv n m) (fun s k => sendWrite s dst kind who op (src + m * k) (addr + m * k) (min m (n - m * k))) s

/-- A begun remote DMA operation reads its source and sends its packets, or halts its channel (R250). -/
def sendRemote (s : State) (c : Nat) (r : OpRec) : State :=
  let ch := bitsOf r.f 51 50
  let src := sourceOf c r
  match opTens c r 0, opTens c r 1 with
  | some d, some x =>
    let rs := wholeRanges x
    match busError s rs with
    | some a => haltChannel s c ch 2 a 0
    | none =>
      match checkRanges src s rs with
      | (s, some bad) => haltBad s c ch src bad.1
      | (s, none) =>
        let dst := bitsOf (nth r.words 0 0) 15 0
        let s := (copyPieces x d).foldl (fun s p => sendBytes s dst 0 c r.id p.1 p.2.1 p.2.2) s
        modOp s c r.id (fun o => { o with sent := true })
  | _, _ => s

/-- Begin an operation; a remote DMA operation sends at once. -/
def beginOp (s : State) (c : Nat) (r : OpRec) : State :=
  let s := startOp s c r
  if isRemote r && (clu s c).inflight.any (fun o => o.id = r.id && o.begun) then throughView c (fun v => sendRemote v c r) s else s

/-- A remote operation completes when no packet of it is outstanding (R210, R297). -/
def finishRemote (s : State) (c id : Nat) : State :=
  match (clu s c).inflight.find? (fun o => o.id = id && o.sent) with
  | none => s
  | some r =>
    let ch := bitsOf r.f 51 50
    if s.sent.any (fun x => x.2.kind = 0 && x.2.who = c && x.2.op = id) || fget s F.SEQ_DMA_STAT.STATE ch c = 2 then s
    else match opTens c r 1 with
      | some x => releaseAndFinish (fadd s F.SEQ_DMA_BYTES.COUNT (copyBytes x x.n0 x.n1 x.n2 x.n3) ch c) c r
      | none => releaseAndFinish s c r

end Sys2Proof.Machine
end

