-- ==== Sys2Proof/Machine/Engine.lean ====
section
/-! DEFINITION. OP_BEGIN, and the pass of a matrix engine (R65 to R84, R96, R134 to R137, R199, R211, R212). -/

namespace Sys2Proof.Machine

/-- An issued operation begins once its unit is free and the slot grants its stream; a pass that starts the engine asks for its wake
token instead and begins when that is granted (R140, R396, R397). -/
def execOpBegin (cl : ClusterIx) (op : Nat) (s : State) : Out :=
  if isFrozen s || isStopped s then .next s
  else match (clu s cl).inflight.find? (fun o => o.id = op) with
    | none => .next s
    | some r =>
      if !mayBegin s cl r || yields s cl r || r.asked then .next s
      else if isEngineStart s cl r then
        .next (requestWake (modOp s cl r.id (fun o => { o with asked := true })) (64 + 4 * cl.val + unitR r / 2) r.id)
      else .next (beginOp s cl r)

/-! ### Operands as the array receives them -/

/-- A delivered operand (R199, R212): k is 0 to 127 within the slice. val: element values without scales; scale: scale byte of run q;
listed: channels of the slice on the side path; side: their values; dec: the element with its block scale (R77). -/
structure Fed where
  val : Nat → Nat → Num
  scale : Nat → Nat → Nat
  listed : List Nat
  side : Nat → Nat → Num
  dec : Nat → Nat → Num

/-- Element with its block scale, without the layout-0 scale (R77). -/
def scaledElem (fmt : Fmt) (layout sc code : Nat) : Num :=
  if layout = 0 then elemValue fmt false code
  else if sc = 0xFF then .nan else numScale (elemValue fmt true code) ((sc : Int) - 127)

/-- Scale byte at a place, 127 under layout 0 and beyond the lengths (R76, R199). -/
def scaleByteAt (s : State) (t : Tens) (i0 i1 i2 : Nat) : Nat :=
  if t.layout = 0 || !inTens t i0 i1 i2 0 then 127 else (rdByte s (scaleAddr t i0 i1 i2 0)).toNat

/-- A plain operand. -/
def fedPlain (s : State) (t : Tens) (w : Word) : Fed :=
  let mp := loadMap s t
  let ls := nth mp (winI0 w / 128) []
  let code := fun k r => readCode s t (winI0 w + k) (winI1 w + r) (winI2 w) 0
  let ok := fun k r => inTens t (winI0 w + k) (winI1 w + r) (winI2 w) 0
  { val := fun k r => if ok k r && !ls.contains k then elemValue t.fmt (t.layout ≠ 0) (code k r) else numZero,
    scale := fun q r => scaleByteAt s t (winI0 w + 32 * q) (winI1 w + r) (winI2 w),
    listed := ls,
    side := fun m r => if inTens t (winI0 w) (winI1 w + r) (winI2 w) 0
      then bf16Of (rdNat s (sideAddr t (winI0 w / 128) m (winI1 w + r) (winI2 w) 0) 2) else numZero,
    dec := fun k r => if ok k r
      then scaledElem t.fmt t.layout (scaleByteAt s t (winI0 w + k) (winI1 w + r) (winI2 w)) (code k r) else numZero }

/-- An operand read transposed without the requantiser: delivered (k, row) is source (row, k) (R134). -/
def fedTransposed (s : State) (t : Tens) (w : Word) : Fed :=
  let code := fun k r => readCode s t (winI1 w + r) (winI0 w + k) (winI2 w) 0
  let ok := fun k r => inTens t (winI1 w + r) (winI0 w + k) (winI2 w) 0
  { val := fun k r => if ok k r then elemValue t.fmt (t.layout ≠ 0) (code k r) else numZero,
    scale := fun q r => scaleByteAt s t (winI1 w + r) (winI0 w + 32 * q) (winI2 w),
    listed := [], side := fun _ _ => numZero,
    dec := fun k r => if ok k r
      then scaledElem t.fmt t.layout (scaleByteAt s t (winI1 w + r) (winI0 w + k) (winI2 w)) (code k r) else numZero }

/-- One delivered row of 32 elements from the requantiser, from source column i0 and rows i1 to i1 + 31 (R137). -/
def requantRow (s : State) (t : Tens) (mp : List (List Nat)) (i0 i1 i2 i3 : Nat) : BlockEnc × List Num :=
  let v := (List.range 32).map (fun k => (readElem s t mp true false i0 (i1 + k) i2 i3).v)
  (encodeBlock t.fmt false v, v)

/-- The requantised blocks of rows rows: row by row the four blocks of the slice. -/
def requantBlocks (s : State) (t : Tens) (w : Word) (rows : Nat) : List (List (BlockEnc × List Num)) :=
  let mp := loadMap s t
  (List.range (32 * cdiv rows 32)).map (fun r =>
    (List.range 4).map (fun q => requantRow s t mp (winI1 w + r) (winI0 w + 32 * q) (winI2 w) 0))

/-- An operand read through the requantiser. -/
def fedRequant (fmt : Fmt) (bs : List (List (BlockEnc × List Num))) : Fed :=
  let blk := fun q r => (nth (nth bs r []) q (⟨0, [], false, none⟩, [])).1
  { val := fun k r => elemValue fmt true (nth (blk (k / 32) r).codes (k % 32) 0),
    scale := fun q r => (blk q r).scale,
    listed := [], side := fun _ _ => numZero,
    dec := fun k r => scaledElem fmt 1 (blk (k / 32) r).scale (nth (blk (k / 32) r).codes (k % 32) 0) }

/-- A broadcast tile, its side channels from the map that TDB names (R212, R241). -/
def fedTile (s : State) (t : Tens) (x : Tile) (slice : Nat) : Fed :=
  let ls := nth (loadMap s t) slice []
  { val := fun k r => if ls.contains k then numZero else elemValue t.fmt (t.layout ≠ 0) (nth x.codes (128 * r + k) 0),
    scale := fun q r => nth x.scales (4 * r + q) 127,
    listed := ls, side := fun m r => bf16Of (nth x.side (8 * r + m) 0),
    dec := fun k r => scaledElem t.fmt t.layout (nth x.scales (4 * r + k / 32) 127) (nth x.codes (128 * r + k) 0) }

/-- What the requantiser counts: NONFINITE, CRUSH, the largest magnitude (R56, R137). -/
def countRequant (s : State) (c : Nat) (r : OpRec) (bs : List (List (BlockEnc × List Num))) : State :=
  let l := bs.flatten
  let s := opEvent s c r.layer 0 (l.filter (fun b => b.1.nonfinite)).length
  let s := opEvent s c r.layer 2 (l.filter (fun b => b.1.crush.isSome)).length
  opAmax s c r.layer r.st (l.foldl (fun a b => b.2.foldl amaxOf a) numZero)

/-- Deliver an operand: the requantiser's events are counted. -/
def feed (s : State) (c : Nat) (r : OpRec) (t : Tens) (w : Word) (tr : Bool) (rows : Nat) : State × Fed :=
  if !tr then (s, fedPlain s t w)
  else if t.trq then
    let bs := requantBlocks s t w rows
    (countRequant s c r bs, fedRequant t.fmt bs)
  else (s, fedTransposed s t w)

/-- The address ranges that a delivered operand of rows rows touches. -/
def feedRanges (t : Tens) (w : Word) (tr : Bool) (rows : Nat) : List (Nat × Nat) :=
  if tr then windowRanges t (winI1 w) rows (winI0 w) 128 (winI2 w) 1 0 1
  else windowRanges t (winI0 w) 128 (winI1 w) rows (winI2 w) 1 0 1

/-! ### Accumulator entries -/

/-- Key of an entry: engine, physical row, column (R80). -/
def accKey (e row n : Nat) : Nat := (e * 1024 + row) * 256 + n

def accAt (k : Cluster) (e row n : Nat) : BitVec 32 := ngetD 0 k.acc (accKey e row n)

/-- Physical row of tile row r; the error term lies one below (R83). -/
def physRow (u : SlotUse) (r : Nat) : Nat := if u.comp then u.base + 2 * r else u.base + r

/-- An entry as the engine adds to it: sum, error term, SCALE_RANGE met, whether anything was added. -/
structure Entry where
  sum : Num
  err : Num
  sr : Bool
  hit : Bool

/-- One addition of R76 or R83. -/
def addTo (comp : Bool) (x : Entry) (f : Num) (sr : Bool) : Entry :=
  let t := f32Add x.sum f
  if comp then
    let e := if numIsFinite t then flush32 (numSub (numAdd x.sum f) t) else numZero
    ⟨flush32 t, f32AddF x.err e, x.sr || sr, true⟩
  else ⟨flush32 t, x.err, x.sr || sr, true⟩

/-- A side-path product with the range rules of R76 (R77). -/
def sideTerm (accInf : Bool) (a b : Num) : Num × Bool :=
  match numMul a b with
  | .fin n m e => if m = 0 then (.fin n 0 0, false)
                  else (promoteTerm accInf 127 127 (.fin n m e)).getD (numZero, false)
  | v => (v, false)

/-- One entry through one pass: runs 0 to 3, then the side path (R73). -/
def passEntry (accInf comp : Bool) (a b : Fed) (r n : Nat) (x : Entry) : Entry :=
  let x := (List.range 4).foldl (fun x q =>
    let run := runValue ((List.range 32).map (fun k => numMul (a.val (32 * q + k) r) (b.val (32 * q + k) n)))
    match promoteTerm accInf (a.scale q r) (b.scale q n) run with
    | none => x
    | some (f, sr) => addTo comp x f sr) x
  let amap := !a.listed.isEmpty
  let ls := if amap then a.listed else b.listed
  (ls.zip (List.range ls.length)).foldl (fun x y =>
    let k := y.1
    let va := if amap then a.side y.2 r else bf16Of (floatCode .bf16 (toWide .bf16 (a.dec k r)))
    let vb := if amap then bf16Of (floatCode .bf16 (toWide .bf16 (b.dec k n))) else b.side y.2 n
    let (f, sr) := sideTerm accInf va vb
    addTo comp x f sr) x

/-- What one row of a pass leaves: accumulator entries, those to which nothing was added as they were (R73, R76), and the counts of SCALE_RANGE
and NONFINITE (R79). DESIGN CHOICE (assumption log 77): an entry that was non-finite before the pass counts no NONFINITE, but SCALE_RANGE as any
other; R79's "counts nothing more" does not say which kinds it means. -/
def passRow (k : Cluster) (e : Nat) (u : SlotUse) (accInf : Bool) (a b : Fed) (r : Nat) (acc : List (Nat × BitVec 32))
    (cnt : Nat × Nat) : List (Nat × BitVec 32) × (Nat × Nat) :=
  let p := physRow u r
  (List.range 256).foldl (fun st n =>
    let old := f32Of (accAt k e p n)
    let x := passEntry accInf u.comp a b r n ⟨old, if u.comp then f32Of (accAt k e (p + 1) n) else numZero, false, false⟩
    let acc := if x.hit then nput 0 st.1 (accKey e p n) (f32Bits x.sum) else st.1
    let acc := if u.comp && x.hit then nput 0 acc (accKey e (p + 1) n) (f32Bits x.err) else acc
    (acc, (st.2.1 + b2n x.sr, st.2.2 + b2n (numIsFinite old && !numIsFinite x.sum)))) (acc, cnt)

/-! ### Words of the accumulator (R80, R96) -/

/-- The words of a slot's physical rows that are not clean. -/
def accBad (k : Cluster) (e : Nat) (u : SlotUse) : List Nat :=
  let lo := accKey e u.base 0 / 2
  let hi := accKey e (u.base + (if u.comp then 2 * u.rows else u.rows)) 0 / 2
  (k.accSyn.filter (fun x => lo ≤ x.1 && x.1 < hi)).map (·.1)

/-- A unit reads an accumulator word: corrected and written back, retried; one that stays bad is marked poisoned (R96, R262 to R264). -/
def meetAcc (c src : Nat) (st : Met) (n : Nat) : Met :=
  let (st, w) := meetCell src (Config.cellAddress 0 c n % 2 ^ 48) n (accLoc c n) st (accCell (clu st.1 c) n)
  let w := if isGood (classOf (syndromeOf w)) then w else poisonWord w.data
  (modClu st.1 c (fun k => setAccCell k n w), st.2)

/-- A unit reads the rows of slots of an engine. -/
def meetSlots (s : State) (c e src : Nat) (us : List SlotUse) : Met :=
  us.foldl (fun st u => (accBad (clu st.1 c) e u).foldl (meetAcc c src) st) (s, none)

/-! ### Opening a slot -/

/-- Entries of the slot's physical rows become what f gives (R81). -/
def fillSlot (k : Cluster) (e : Nat) (u : SlotUse) (f : Nat → Nat → BitVec 32) : Cluster :=
  let rows := if u.comp then 2 * u.rows else u.rows
  let acc := (List.range rows).foldl (fun m r => (List.range 256).foldl (fun m n =>
    nput 0 m (accKey e (u.base + r) n) (f r n)) m) k.acc
  let lo := accKey e u.base 0 / 2
  let hi := accKey e (u.base + rows) 0 / 2
  { k with acc := acc, accSyn := ndelRange k.accSyn lo hi }

/-- Change the execution state of a slot. -/
def modSlot (s : State) (c e sl : Nat) (f : Slot → Slot) : State :=
  modClu s c (fun k => { k with slots := nset k.slots (16 * e + sl) (f (ngetD .reset k.slots (16 * e + sl))) })

/-- Execution state of a slot when it is opened: RUNS, LONGSUM and poison clear (R81, R84). -/
def freshSlot (s : State) (c e sl : Nat) : State :=
  let s := modSlot s c e sl (fun x => { x with runs := 0, promoted := 0, poison := false })
  let m := fget s F.SEQ_MX_LSUM.SLOTS e c
  fput s F.SEQ_MX_LSUM.SLOTS (natPut m sl sl 0) e c

/-- Open with zero (ST 1) or with load (ST 2); none (ST 0). -/
def openSlot (s : State) (c e st : Nat) (u : SlotUse) (l : Option Tens) : State :=
  if st = 0 then s
  else
    let s := freshSlot s c e u.slot
    match st, l with
    | 2, some t => modClu s c (fun k => fillSlot k e u (fun r n => BitVec.ofNat 32 (readCode s t n r 0 0)))
    | _, _ => modClu s c (fun k => fillSlot k e u (fun _ _ => 0))

/-- The slot takes the poison mark (R96). -/
def poisonSlot (s : State) (c e sl : Nat) : State :=
  let s := modSlot s c e sl (fun x => { x with poison := true })
  fset s F.SEQ_MX_EVT.POISON 1 e c

/-- RUNS rises by 4; the 2049th run sets LONGSUM (R84). -/
def countRuns (s : State) (c e sl layer : Nat) : State :=
  let x := slotOf s c e sl
  let s := modSlot s c e sl (fun x => { x with runs := x.runs + 4, promoted := x.promoted + 4 })
  if x.promoted < 2049 && 2049 ≤ x.promoted + 4 then engLongsum s c e layer sl else s

/-- The head tile of an engine's broadcast queue, and the state without it. -/
def takeTile (s : State) (c e : Nat) : State × Tile :=
  match ngetD [] (clu s c).tiles e with
  | t :: rest => (modClu s c (fun k => { k with tiles := nset k.tiles e rest }), t)
  | [] => (s, ⟨[], [], [], none⟩)

/-- A pass writes its rows: operands are read and their words met, the slot is opened or continued, every entry goes through the pass,
events are counted (R73 to R84, R96). -/
def runPass (s : State) (c : Nat) (r : OpRec) : State :=
  match r.slots with
  | [] => s
  | u :: _ =>
    let e := bitsOf r.f 51 50
    let st := bitsOf r.f 45 44
    let ta := bitOf r.f 43
    let tb := bitOf r.f 42
    let bsrc := takesTile r
    let wa := nth r.words 0 0
    let wb := nth r.words 1 0
    match opTens c r 0, opTens c r 1 with
    | some a, some b =>
      let l := if st = 2 then opTens c r 2 else none
      let src := sourceOf c r
      let rs := (match l with | some t => windowRanges t 0 256 0 t.n1 0 1 0 1 | none => []) ++ feedRanges a wa ta u.rows ++
        (if bsrc then mapRanges b else feedRanges b wb tb 256)
      let (s, bad) := checkRanges src s rs
      let (s, tile) := if bsrc then takeTile s c e else (s, ⟨[], [], [], none⟩)
      let (s, abad) := if st = 0 then meetSlots s c e src [u] else (s, none)
      let s := faultFor s c src ((bad.or (tile.poison.map (fun a => (a, 2)))).or abad)
      let s := if abad.isSome then fset s F.SEQ_MX_EVT.POISON 1 e c else s
      let s := openSlot s c e st u l
      let (s, fa) := feed s c r a wa ta u.rows
      let (s, fb) := if bsrc then (s, fedTile s b tile (winI0 wa / 128)) else feed s c r b wb tb 256
      let k := clu s c
      let res := (List.range u.rows).foldl (fun x row => passRow k e u r.accInf fa fb row x.1 x.2) (k.acc, (0, 0))
      let s := modClu s c (fun k => { k with acc := res.1 })
      let s := engScaleRange s c e r.layer res.2.1
      let s := engNonfinite s c e r.layer res.2.2
      let s := countRuns s c e u.slot r.layer
      let s := if bad.isSome || tile.poison.isSome then poisonSlot s c e u.slot else s
      let s := fadd s F.SEQ_MX_PASS.COUNT 1 e c
      let s := fadd s F.SEQ_MX_ROWS.COUNT u.rows e c
      modClu s c (fun k => { k with lastRow := nset k.lastRow e s.tick })
    | _, _ => s

/-- The oldest begun operation of a unit completes with its effect, when its turn has come. -/
def completeOn (s : State) (c u : Nat) (run : State → Nat → OpRec → State) : State :=
  if isFrozen s || isStopped s then s
  else match oldestBegun s c u with
    | none => s
    | some r => if slotTurn s c r then releaseAndFinish (throughView c (fun v => run v c r) s) c r else s

/-- A pass writes its last row and raises its token (R68). -/
def execPassComplete (cl : ClusterIx) (e : EngineIx) (s : State) : Out := .next (completeOn s cl (2 * e.val) runPass)

end Sys2Proof.Machine
end

