-- ==== Sys2Proof/Machine/Mldsa.lean ====
section
/-! DEFINITION. ML-DSA-87 as FIPS 204 defines it, by which the P40 signs and verifies (R3, R444, R448): the parameter set k = 8, l = 7, η = 2,
τ = 60, γ1 = 2^19, γ2 = (q - 1) / 32, ω = 75. The algorithms are of that standard and not of the spec's own text (assumption log 85). -/

namespace Sys2Proof.Machine.Mldsa

/-! ### SHAKE (FIPS 202) -/

/-- The padding of SHAKE to a multiple of the rate. -/
def shakePad (rate n : Nat) : List Byte :=
  if n % rate = rate - 1 then [0x9F] else [0x1F] ++ List.replicate (rate - 2 - n % rate) 0 ++ [0x80]

/-- Blocks squeezed from a sponge. -/
def squeeze (rate : Nat) : Nat → List Nat → List Byte
  | 0, _ => []
  | n + 1, a => ((a.take (rate / 8)).flatMap (leBytes 8)) ++ squeeze rate n (keccakF a)

/-- The first n bytes of SHAKE with a rate. -/
def shake (rate n : Nat) (m : List Byte) : List Byte :=
  (squeeze rate ((n + rate - 1) / rate) ((chunks rate (m ++ shakePad rate m.length)).foldl sha3Absorb (List.replicate 25 0))).take n

/-- H of FIPS 204: SHAKE256. -/
def hash (n : Nat) (m : List Byte) : List Byte := shake 136 n m

/-! ### Polynomials over Z_q, 256 coefficients -/

def q : Nat := 8380417

def padd (a b : List Nat) : List Nat := (a.zip b).map (fun x => (x.1 + x.2) % q)
def psub (a b : List Nat) : List Nat := (a.zip b).map (fun x => (x.1 + q - x.2) % q)
def pmul (a b : List Nat) : List Nat := (a.zip b).map (fun x => x.1 * x.2 % q)
def pzero : List Nat := List.replicate 256 0

/-- b^n mod q, the exponent's bits from the lowest, k of them. -/
def powMod : Nat → Nat → Nat → Nat
  | 0, _, _ => 1
  | k + 1, b, n => (if n % 2 = 1 then b else 1) * powMod k (b * b % q) (n / 2) % q

/-- The 8 bits of a number reversed. -/
def rev8 (n : Nat) : Nat := ((List.range 8).map (fun i => n / 2 ^ i % 2 * 2 ^ (7 - i))).sum

/-- ζ to the power of an index reversed, and its inverse; ζ = 1753. -/
def zeta (k : Nat) : Nat := powMod 10 1753 (rev8 k)
def zetaInv (k : Nat) : Nat := powMod 10 1753 (512 - rev8 k)

/-- The transform of 2^n coefficients under node k of its tree. -/
def nttAt : Nat → Nat → List Nat → List Nat
  | 0, _, w => w
  | n + 1, k, w =>
    let z := zeta k
    let a := w.take (2 ^ n)
    let b := (w.drop (2 ^ n)).map (fun x => z * x % q)
    nttAt n (2 * k) (padd a b) ++ nttAt n (2 * k + 1) (psub a b)

def ntt (w : List Nat) : List Nat := nttAt 8 1 w

def unnttAt : Nat → Nat → List Nat → List Nat
  | 0, _, w => w
  | n + 1, k, w =>
    let z := zetaInv k
    let a := unnttAt n (2 * k) (w.take (2 ^ n))
    let b := unnttAt n (2 * k + 1) (w.drop (2 ^ n))
    padd a b ++ (psub a b).map (fun x => z * x % q)

def unntt (w : List Nat) : List Nat := (unnttAt 8 1 w).map (fun x => x * 8347681 % q)

/-- A row of transformed polynomials times a transformed vector. -/
def dot (a b : List (List Nat)) : List Nat := (a.zip b).foldl (fun s x => padd s (pmul x.1 x.2)) pzero

/-! ### Rounding -/

/-- r mod± m for an even m, as an integer. -/
def center (m r : Nat) : Int := if m / 2 < r % m then (r % m : Int) - m else r % m

/-- An integer mod q. -/
def ofInt (x : Int) : Nat := (x % q).toNat

/-- Magnitude of a coefficient. -/
def mag (r : Nat) : Nat := min r (q - r)
def norm (v : List (List Nat)) : Nat := v.foldl (fun m p => p.foldl (fun m x => max m (mag x)) m) 0

def gamma2 : Nat := 261888

/-- Power2Round: the high part, and the low part mod q. -/
def power2Round (r : Nat) : Nat × Nat :=
  let r0 := center 8192 r
  (((r : Int) - r0).toNat / 8192, ofInt r0)

/-- Decompose. -/
def decompose (r : Nat) : Nat × Int :=
  let r0 := center (2 * gamma2) r
  if (r : Int) - r0 = q - 1 then (0, r0 - 1) else (((r : Int) - r0).toNat / (2 * gamma2), r0)

def highBits (r : Nat) : Nat := (decompose r).1

/-- UseHint. -/
def useHint (h r : Nat) : Nat :=
  let d := decompose r
  if h = 0 then d.1 else if 0 < d.2 then (d.1 + 1) % 16 else (d.1 + 15) % 16

/-! ### Packing -/

/-- Numbers of w bits each as bytes, the first lowest. -/
def packBits (w : Nat) (xs : List Nat) : List Byte := leBytes (w * xs.length / 8) (xs.foldr (fun x a => x + 2 ^ w * a) 0)

/-- 256 numbers of w bits. -/
def unpackBits (w : Nat) (b : List Byte) : List Nat := let n := leNat b; (List.range 256).map (fun i => n / 2 ^ (w * i) % 2 ^ w)

/-- Coefficients as b minus the coefficient. -/
def bitPack (w b : Nat) (p : List Nat) : List Byte := packBits w (p.map (fun x => (b + q - x) % q))
def bitUnpack (w b : Nat) (l : List Byte) : List Nat := (unpackBits w l).map (fun x => (b + q - x) % q)

/-- Vector of n polynomials, each of sz bytes. -/
def vecOf (f : List Byte → List Nat) (n sz : Nat) (b : List Byte) : List (List Nat) :=
  (List.range n).map (fun i => f ((b.drop (sz * i)).take sz))

/-! ### Sampling -/

/-- Coefficients of three bytes each, those of q and above left out. -/
def rejNtt : List Byte → List Nat
  | a :: b :: c :: l =>
    let z := a.toNat + 256 * b.toNat + 65536 * (c.toNat % 128)
    if z < q then z :: rejNtt l else rejNtt l
  | _ => []

/-- Half bytes below 15, as 2 minus their remainder by 5. -/
def rejBounded (l : List Byte) : List Nat :=
  (l.flatMap (fun b => [b.toNat % 16, b.toNat / 16])).filterMap (fun z => if z < 15 then some ((2 + q - z % 5) % q) else none)

/-- Â, by rows. A stream of 16 blocks holds 256 coefficients with certainty for every practical seed. -/
def expandA (rho : List Byte) : List (List (List Nat)) :=
  (List.range 8).map (fun r => (List.range 7).map (fun s => (rejNtt (shake 168 2688 (rho ++ leBytes 1 s ++ leBytes 1 r))).take 256))

/-- n short polynomials from a counter. -/
def expandS (rho : List Byte) (n from_ : Nat) : List (List Nat) :=
  (List.range n).map (fun r => (rejBounded (hash 1088 (rho ++ leBytes 2 (from_ + r)))).take 256)

/-- The mask vector y of a round. -/
def expandMask (rho : List Byte) (kappa : Nat) : List (List Nat) :=
  (List.range 7).map (fun r => bitUnpack 20 524288 (hash 640 (rho ++ leBytes 2 (kappa + r))))

/-- The first byte not above i, and the bytes after it. -/
def drawBelow (i : Nat) : List Byte → Nat × List Byte
  | [] => (0, [])
  | b :: l => if b.toNat ≤ i then (b.toNat, l) else drawBelow i l

/-- The challenge polynomial, 60 coefficients of ±1. -/
def sampleInBall (c : List Byte) : List Nat :=
  let h := hash 1088 c
  let signs := bNat h 0 8
  (foldRange 60 (fun (st : List Nat × List Byte) k =>
    let i := 196 + k
    let d := drawBelow i st.2
    (((st.1.set i (st.1.getD d.1 0)).set d.1 (if signs / 2 ^ k % 2 = 1 then q - 1 else 1)), d.2)) (pzero, h.drop 8)).1

/-! ### Hints -/

/-- Positions of the hints of each polynomial in 75 bytes, then the counts in 8. -/
def hintPack (h : List (List Nat)) : List Byte :=
  let ps := h.map (fun p => (p.zip (List.range 256)).filterMap (fun x => if x.1 = 0 then none else some x.2))
  let pos := ps.flatten
  (pos ++ List.replicate (75 - pos.length) 0).map (BitVec.ofNat 8) ++
    (List.range 8).map (fun i => BitVec.ofNat 8 ((ps.take (i + 1)).flatten).length)

def rising : List Nat → Bool
  | a :: b :: l => a < b && rising (b :: l)
  | _ => true

/-- The hints of 83 bytes, unless they are malformed. -/
def hintUnpack (y : List Byte) : Option (List (List Nat)) :=
  let cnt := fun i => if i = 0 then 0 else bNat y (75 + i - 1) 1
  let pos := fun i => ((y.take (cnt (i + 1))).drop (cnt i)).map (·.toNat)
  if (List.range 8).all (fun i => cnt i ≤ cnt (i + 1) && cnt (i + 1) ≤ 75 && rising (pos i)) && ((y.take 75).drop (cnt 8)).all (· == 0)
  then some ((List.range 8).map (fun i => let l := pos i; (List.range 256).map (fun j => b2n (l.contains j)))) else none

/-! ### The three algorithms -/

/-- Both keys of a seed: KeyGen_internal. -/
def keyGen (seed : List Byte) : List Byte × List Byte :=
  let h := hash 128 (seed ++ [8, 7])
  let rho := h.take 32
  let s1 := expandS ((h.drop 32).take 64) 7 0
  let s2 := expandS ((h.drop 32).take 64) 8 7
  let s1h := s1.map ntt
  let t := ((expandA rho).zip s2).map (fun x => padd (unntt (dot x.1 s1h)) x.2)
  let pk := rho ++ t.flatMap (fun p => packBits 10 (p.map (fun r => (power2Round r).1)))
  (pk, rho ++ (h.drop 96).take 32 ++ hash 64 pk ++ s1.flatMap (bitPack 3 2) ++ s2.flatMap (bitPack 3 2) ++
    t.flatMap (fun p => bitPack 13 4096 (p.map (fun r => (power2Round r).2))))

/-- What a signing key holds, its vectors transformed. -/
structure Key where
  a : List (List (List Nat))
  s1 : List (List Nat)
  s2 : List (List Nat)
  t0 : List (List Nat)

def keyOf (sk : List Byte) : Key :=
  let b := fun (off n : Nat) => (sk.drop off).take n
  { a := expandA (b 0 32), s1 := (vecOf (bitUnpack 3 2) 7 96 (b 128 672)).map ntt, s2 := (vecOf (bitUnpack 3 2) 8 96 (b 800 768)).map ntt,
    t0 := (vecOf (bitUnpack 13 4096) 8 416 (b 1568 3328)).map ntt }

def packHigh (w1 : List (List Nat)) : List Byte := w1.flatMap (packBits 4)

/-- One round of signing: the signature, unless it is rejected. -/
def signRound (k : Key) (mu rho : List Byte) (kappa : Nat) : Option (List Byte) :=
  let y := expandMask rho kappa
  let yh := y.map ntt
  let w := k.a.map (fun r => unntt (dot r yh))
  let ct := hash 64 (mu ++ packHigh (w.map (·.map highBits)))
  let c := ntt (sampleInBall ct)
  let by_ := fun (v : List (List Nat)) => v.map (fun p => unntt (pmul c p))
  let z := (y.zip (by_ k.s1)).map (fun x => padd x.1 x.2)
  let r := (w.zip (by_ k.s2)).map (fun x => psub x.1 x.2)
  let ct0 := by_ k.t0
  let low := r.foldl (fun m p => p.foldl (fun m x => max m (decompose x).2.natAbs) m) 0
  let h := (r.zip ct0).map (fun x => ((padd x.1 x.2).zip x.1).map (fun y => b2n (highBits y.1 ≠ highBits y.2)))
  if 524288 - 120 ≤ norm z || gamma2 - 120 ≤ low || gamma2 ≤ norm ct0 || 75 < (h.map List.sum).sum then none
  else some (ct ++ z.flatMap (bitPack 20 524288) ++ hintPack h)

/-- Rounds until one is not rejected; 814 of them fail with a probability below 2^-256 (FIPS 204, appendix C). -/
def signFrom (k : Key) (mu rho : List Byte) : Nat → Nat → List Byte
  | 0, _ => []
  | n + 1, kappa => match signRound k mu rho kappa with
    | some s => s
    | none => signFrom k mu rho n (kappa + 7)

/-- Sign_internal with the deterministic rnd of zeros. -/
def sign (sk m : List Byte) : List Byte :=
  let mu := hash 64 ((sk.drop 64).take 64 ++ m)
  signFrom (keyOf sk) mu (hash 64 ((sk.drop 32).take 32 ++ zeros 32 ++ mu)) 814 0

/-- Verify_internal. -/
def verify (pk m sig : List Byte) : Bool :=
  if pk.length ≠ 2592 || sig.length ≠ 4627 then false
  else match hintUnpack (sig.drop 4544) with
    | none => false
    | some h =>
      let t1 := (vecOf (unpackBits 10) 8 320 (pk.drop 32)).map (fun p => ntt (p.map (fun x => x * 8192 % q)))
      let z := vecOf (bitUnpack 20 524288) 7 640 ((sig.drop 64).take 4480)
      let zh := z.map ntt
      let c := ntt (sampleInBall (sig.take 64))
      let mu := hash 64 (hash 64 pk ++ m)
      let w := ((expandA (pk.take 32)).zip t1).map (fun x => unntt (psub (dot x.1 zh) (pmul c x.2)))
      let w1 := (h.zip w).map (fun x => (x.1.zip x.2).map (fun y => useHint y.1 y.2))
      norm z < 524288 - 120 && hash 64 (mu ++ packHigh w1) == sig.take 64

end Sys2Proof.Machine.Mldsa

namespace Sys2Proof.Machine

/-- Verify an ML-DSA-87 signature under a context (R444). -/
def verifySig (ctx : String) (pk m sig : List Byte) : Bool := Mldsa.verify pk (signedForm ctx m) sig

/-- An ML-DSA-87 signature, 4627 bytes (R364, R444). -/
def makeSig (ctx : String) (sk m : List Byte) : List Byte := fixLen 4627 (Mldsa.sign sk (signedForm ctx m))

end Sys2Proof.Machine
end

