-- ==== Sys2Proof/Machine/Record.lean ====
section
/-! DEFINITION. What Cairn protects: the protection table (R347 to R349), the data and random streams (R356 to R359), mirror records
and their checks and install (R350 to R353, R355). -/

namespace Sys2Proof.Machine

/-! ### The protection table (R347 to R349) -/

structure PtEntry where
  addr0 : Nat
  addr1 : Nat
  bytes : Nat
  layer : Nat
  kind : Nat
  flags : Nat
  rest : Nat
  deriving DecidableEq

def ptCount (s : State) (p : Nat) : Nat := sget s F.CRN_PT.ENTRIES p

def ptEntry (s : State) (p i : Nat) : PtEntry :=
  let a := sget s F.CRN_PT.ADDR p * 64 + 32 * i
  ⟨rdNat s a 8, rdNat s (a + 8) 8, rdNat s (a + 16) 8, rdNat s (a + 24) 2, rdNat s (a + 26) 1, rdNat s (a + 27) 1, rdNat s (a + 28) 4⟩

/-- The protection table, which HC2 reads (R347). -/
def tableReads (s : State) (p : Nat) : List (Nat × Nat) :=
  let a := sget s F.CRN_PT.ADDR p * 64
  [(a, a + 32 * ptCount s p)]

/-- Both buffers of a PAIR entry, or the one range. -/
def ptRanges (e : PtEntry) : List (Nat × Nat) :=
  (e.addr0 % 2 ^ 48, e.bytes) :: (if natBit e.flags 0 then [(e.addr1 % 2 ^ 48, e.bytes)] else [])

/-- The current content of an entry at epoch E (R347). -/
def ptAddr (e : PtEntry) (epoch : Nat) : Nat := if natBit e.flags 0 && epoch % 2 = 1 then e.addr1 % 2 ^ 48 else e.addr0 % 2 ^ 48

/-- The first of checks 1 to 4 that entry i fails (R349). -/
def ptFail (s : State) (p i : Nat) : Option Nat :=
  let e := ptEntry s p i
  let mine := ptRanges e
  if !mine.all (fun r => within r.1 r.2 (winLo s p) (winHi s p)) then some 1
  else if mine.any (fun r => (List.range i).any (fun j => (ptRanges (ptEntry s p j)).any (fun q => overlaps r.1 r.2 q.1 (q.1 + q.2)))) then some 2
  else if 2 ^ 48 ≤ e.addr0 || 2 ^ 48 ≤ e.addr1 || natBits e.layer 15 11 ≠ 0 || 4 < e.kind || natBits e.flags 7 1 ≠ 0 || e.rest ≠ 0 ||
      (!natBit e.flags 0 && e.addr1 ≠ 0) then some 3
  else if e.addr0 % 64 ≠ 0 || e.addr1 % 64 ≠ 0 || e.bytes % 64 ≠ 0 || e.bytes < 64 then some 4
  else none

/-- The mirrored KIND 1 entries in table order, their bytes, and the first one left to the checkpoint (R348): once one does not fit, every
later one goes to the checkpoint. used: bytes mirrored for lower partitions. -/
def mirrorSplit (es : List (Nat × PtEntry)) (used : Nat) : List Nat × Nat × Option Nat :=
  es.foldl (fun x e =>
    if e.2.kind ≠ 1 then x
    else match x.2.2 with
      | some _ => x
      | none => if used + x.2.1 + e.2.bytes ≤ 64 * MiB then (x.1 ++ [e.1], x.2.1 + e.2.bytes, none) else (x.1, x.2.1, some e.1))
    ([], 0, none)

def ptEntries (s : State) (p : Nat) : List (Nat × PtEntry) := (List.range (ptCount s p)).map (fun i => (i, ptEntry s p i))

/-- The KIND 1 entries that the table, as it stands, mirrors (R348). -/
def mirrored (s : State) (p : Nat) : List Nat :=
  (mirrorSplit (ptEntries s p) (((List.range p).map (fun q => (part s q).mirBytes)).sum)).1

/-- The regions of check 5: live recipe table, scale state, and both halves of every bucket's scale table (R349). -/
def mustCover (s : State) (p : Nat) : List (Nat × Nat) :=
  let t := sget s F.HUB_RED_TABLE.ADDR p * 65536
  [(fget s F.HUB_RCP_BASE.ADDR p, 0x4000), (fget s F.HUB_SCL_BASE.ADDR p, 0x8000)] ++
  (if t = 0 then [] else (List.range 4096).filterMap (fun k =>
    if natBit (rdNat s (t + 64 * k) 2) 15 then some (rdNat s (t + 64 * k + 32) 8, 2 * scaleHalf (rdNat s (t + 64 * k + 4) 4 / 256)) else none))

/-- The first byte of [a, a + n) that no range covers; fuel bounds the ranges crossed. -/
def firstGap (rs : List (Nat × Nat)) (hi : Nat) : Nat → Nat → Option Nat
  | 0, a => if hi ≤ a then none else some a
  | k + 1, a =>
    if hi ≤ a then none
    else match rs.find? (fun r => r.1 ≤ a && a < r.1 + r.2) with
      | some r => firstGap rs hi k (r.1 + r.2)
      | none => some a

/-- The smallest of a list of numbers. -/
def leastOf : List Nat → Option Nat
  | [] => none
  | x :: xs => some (xs.foldl min x)

/-- The PT_REJECT that a run start finds: index or address, and check (R349). -/
def ptReject (s : State) (p : Nat) : Option (Nat × Nat) :=
  match (List.range (ptCount s p)).findSome? (fun i => (ptFail s p i).map (fun k => (i, k))) with
  | some x => some x
  | none =>
    let es := ptEntries s p
    let used := ((List.range p).map (fun q => (part s q).mirBytes)).sum
    let cov := (mirrorSplit es used).1.flatMap (fun i => ptRanges (ptEntry s p i))
    (leastOf ((mustCover s p).filterMap (fun r => firstGap cov (r.1 + r.2) (cov.length + 1) r.1))).map (fun a => (a, 5))

/-- An entry of Cairn in the Field Book and, where R375 says so, a notice. -/
def crnLog (s : State) (p code a1 a2 : Nat) (notice : Bool) : State :=
  let s := fbOffer s (srcCore 2) code p a1 a2
  if notice then offerRecord s code (srcCore 2) p p a1 a2 else s

/-- The table is accepted: MIR_KIB, MIRROR_OVER (R348). -/
def acceptTable (s : State) (p : Nat) : State :=
  let used := ((List.range p).map (fun q => (part s q).mirBytes)).sum
  let m := mirrorSplit (ptEntries s p) used
  let s := modPart s p (fun x => { x with mir := m.1, mirBytes := m.2.1 })
  let s := fput s F.CRN_STAT.MIR_KIB (min 65536 (m.2.1 / 1024)) p
  match m.2.2 with
  | none => s
  | some i => if fbit s F.CRN_STAT.MIRROR_OVER p then s
              else crnLog (fput s F.CRN_STAT.MIRROR_OVER 1 p) p 0x0707 i m.2.1 false

/-! ### Streams (R356 to R359) -/

def rngAddr (s : State) (p : Nat) : Nat := sget s F.CRN_RNG.ADDR p * 1024

/-- The 1024 bytes of a stream table; zeros with no table. -/
def streamTable (s : State) (a : Nat) : List Byte := if a = 0 then zeros 1024 else rdBytes s a 1024

/-- The counter block of R358, most significant byte first. -/
def counterBlock (sid step m d : Nat) : List Byte :=
  beBytes 16 (sid % 2 ^ 16 * 2 ^ 112 + step % 2 ^ 40 * 2 ^ 72 + m % 2 ^ 16 * 2 ^ 56 + d % 2 ^ 56)

def streamOn (t : List Byte) (i off : Nat) : Bool := bNat t (64 * i + off) 1 % 2 = 1

/-- The derived state of a random stream (R359). -/
def derivedState (d r : List Byte) (i : Nat) : List Byte :=
  counterBlock (bNat r (64 * i + 40) 2) (bNat d (64 * (bNat r (64 * i + 44) 1 % 16) + 16) 8) 0 0

/-- Enabled data streams take STEP and MICRO, at a commit CURSOR as well; enabled random streams take the state of the step (R356, R358,
R378). -/
def setStreams (s : State) (p step : Nat) (commit : Bool) : State :=
  let s := if commit then advanceCursors s p else s
  let da := dstrAddr s p
  let ra := rngAddr s p
  let s := if da = 0 then s else (List.range 16).foldl (fun s i =>
    let a := da + 64 * i
    if rdNat s (a + 40) 1 % 2 = 1 then wrNat (wrNat s (a + 16) 8 step) (a + 2) 2 0 else s) s
  if ra = 0 then s else (List.range 16).foldl (fun s i =>
    let r := streamTable s ra
    if streamOn r i 45 then
      wrBytes s (ra + 64 * i + 16) (if commit then counterBlock (bNat r (64 * i + 40) 2) step 0 0 else derivedState (streamTable s da) r i)
    else s) s

/-- Draws of step s for every enabled stream (R358). -/
def fillDraws (s : State) (p step : Nat) : State :=
  let r := streamTable s (rngAddr s p)
  (List.range 16).foldl (fun s i =>
    if !streamOn r i 45 then s
    else
      let key := (r.drop (64 * i)).take 16
      let buf := bNat r (64 * i + 32) 8 % 2 ^ 48
      let sid := bNat r (64 * i + 40) 2
      let mb := bNat r (64 * i + 42) 2
      let n := bNat r (64 * i + 48) 4
      foldRange mb (fun s m => foldRange n (fun s d =>
        wrBytes s (buf + 16 * (m * n + d)) (aes128 key (counterBlock sid step m d))) s) s) s

/-! ### Records (R350 to R353, R355) -/

def slotSize : Nat := 65 * MiB

/-- Out slot of an epoch (R350). -/
def outSlot (s : State) (p epoch : Nat) : Nat := sget s F.CRN_MIRAREA.ADDR p * MiB + epoch % 2 * slotSize

/-- The hub section (R351). -/
def hubSection (s : State) (p : Nat) : List Byte :=
  leBytes 4 (fget s F.HUB_SPIKE_MEAN.MU p) ++ leBytes 4 (fget s F.HUB_SPIKE_VAR.VAR p) ++ leBytes 4 (fget s F.HUB_SPIKE_STEPS.N p) ++
  leBytes 1 (fget s F.HUB_TRB_STAT.REPLAYS p) ++ leBytes 1 (fget s F.HUB_STH_PLAN.ALT p) ++ zeros 2 ++
  leBytes 4 (fget s F.HUB_TRB_SKIPS.COUNT p) ++ leBytes 4 (fget s F.HUB_STH_PLAN.EXHAUSTS p) ++ zeros 8 ++
  streamTable s (dstrAddr s p) ++ streamTable s (rngAddr s p) ++ zeros 2016

/-- A record with its digest (R351). -/
def sealRecord (head body : List Byte) : List Byte := head ++ sha3 body ++ body

/-- The record of an epoch over the state as it is (R351). A range's section is the range after its 16 bytes; since BYTES is a multiple of 64 (R347)
nothing is padded: the padding is read as that of the range, not of the section (assumption log 19). -/
def buildRecord (s : State) (p epoch : Nat) : List Byte :=
  let mir := (part s p).mir
  let body := hubSection s p ++ mir.flatMap (fun i =>
    let e := ptEntry s p i
    leBytes 4 i ++ zeros 4 ++ leBytes 8 e.bytes ++ rdBytes s (ptAddr e epoch) e.bytes)
  let head := leBytes 4 0x5252494D ++ leBytes 2 1 ++ leBytes 2 p ++ leBytes 2 (station s) ++ zeros 6 ++ leBytes 8 epoch ++
    leBytes 8 (sget s F.CRN_JOB.JOB p) ++ leBytes 8 (128 + body.length) ++ leBytes 4 mir.length ++ zeros 20
  sealRecord head body

/-- What HC2 reads to prepare the record of the step (R352): recipe and scale tables, trouble records, streams, mirrored ranges. -/
def recordReads (s : State) (p : Nat) : List (Nat × Nat) :=
  policyTables s p ++ ([dstrAddr s p, rngAddr s p].filter (· ≠ 0)).map (fun a => (a, a + 1024)) ++ tableReads s p ++
  (part s p).mir.map (fun i => let e := ptEntry s p i; let a := ptAddr e (part s p).step; (a, a + e.bytes))

/-- The record at an address; its header alone when BYTES is not a record's. -/
def readRecord (s : State) (a : Nat) : List Byte :=
  let n := rdNat s (a + 32) 8
  if 4224 ≤ n && n ≤ slotSize then rdBytes s a n else rdBytes s a 128

/-- Random streams of a record whose STATE is not the derived one (R359). -/
def recordSkews (r : List Byte) : List Nat :=
  let d := (r.drop 160).take 1024
  let q := (r.drop 1184).take 1024
  (List.range 16).filter (fun i => streamOn q i 45 && (q.drop (64 * i + 16)).take 16 ≠ derivedState d q i)

/-- The first failing check of R355 for an epoch: 1 header, 2 digest, 3 streams or a skew in strict mode. -/
def recordFail (s : State) (p epoch : Nat) (r : List Byte) : Option Nat :=
  let d := (r.drop 160).take 1024
  if r.length < 4224 || bNat r 0 4 ≠ 0x5252494D || bNat r 4 2 ≠ 1 then some 1
  else if sha3 (r.drop 128) ≠ (r.drop 64).take 64 then some 2
  else if bNat r 8 2 ≠ station s || bNat r 24 8 ≠ sget s F.CRN_JOB.JOB p || bNat r 16 8 ≠ epoch then some 1
  else if (List.range 16).any (fun i => streamOn d i 40 && (bNat d (64 * i + 2) 2 ≠ 0 || bNat d (64 * i + 16) 8 ≠ epoch + 1)) then some 3
  else if !(recordSkews r).isEmpty && !sbit s F.CRN_CTL.LENIENT p then some 3
  else none

/-- The low 64 bits of a stream's recorded STATE. -/
def skewState (r : List Byte) (i : Nat) : Nat := leNat (((r.drop (1184 + 64 * i + 24)).take 8).reverse)

/-- RESTORE_SKEW or RESTORE_SKEW_LENIENT for the skewed streams of a record that passed or failed on them (R359). -/
def logSkews (s : State) (p : Nat) (r : List Byte) : State :=
  let sk := recordSkews r
  if sk.isEmpty then s
  else
    let s := fset s F.CRN_EVT.SKEW 1 p
    if sbit s F.CRN_CTL.LENIENT p then sk.foldl (fun s i => crnLog s p 0x0710 i (skewState r i) false) s
    else match sk with
      | i :: _ => crnLog s p 0x070F i (skewState r i) true
      | [] => s

/-- Lenient mode: the derived values replace the skewed states, and the digest is made again (R359). -/
def fixSkews (r : List Byte) : List Byte :=
  let d := (r.drop 160).take 1024
  let q := (r.drop 1184).take 1024
  let sk := recordSkews r
  if sk.isEmpty then r
  else
    let r' := sk.foldl (fun r i => bPut r (1184 + 64 * i + 16) (derivedState d q i)) r
    sealRecord (r'.take 64) (r'.drop 128)

/-- Write the range sections of a record back (R353). -/
def installRanges (p epoch : Nat) : Nat → List Byte → State → State
  | 0, _, s => s
  | k + 1, b, s =>
    if b.length < 16 then s
    else
      let i := bNat b 0 4
      let n := bNat b 8 8
      let s := wrBytes s (ptAddr (ptEntry s p i) epoch) ((b.drop 16).take n)
      installRanges p epoch k (b.drop (16 + 64 * cdiv n 64)) s

/-- The bytes of the KIND 1 ranges that go to the checkpoint, as they are in the buffers of an epoch (R348, R353). -/
def overKind1 (s : State) (p epoch : Nat) : List (Nat × List Byte) :=
  ((ptEntries s p).filter (fun e => e.2.kind == 1 && !(part s p).mir.contains e.1)).map
    (fun e => (e.1, rdBytes s (ptAddr e.2 epoch) e.2.bytes))

/-- Install the record of the partition's epoch; the checkpoint-side copies of KIND 1 ranges are reset from the latest staging or restore
(R353; assumption log 19). -/
def installRecord (s : State) (p : Nat) (r : List Byte) : State :=
  let h := r.drop 128
  let epoch := fget s F.CRN_EPOCH.EPOCH p
  let s := modPart s p (fun x => { x with copies := x.latest })
  let s := fput s F.HUB_SPIKE_MEAN.MU (bNat h 0 4) p
  let s := fput s F.HUB_SPIKE_VAR.VAR (bNat h 4 4) p
  let s := fput s F.HUB_SPIKE_STEPS.N (bNat h 8 4) p
  let s := fput s F.HUB_TRB_STAT.REPLAYS (bNat h 12 1) p
  let s := fput s F.HUB_STH_PLAN.ALT (bNat h 13 1 % 2) p
  let s := fput s F.HUB_TRB_SKIPS.COUNT (bNat h 16 4) p
  let s := fput s F.HUB_STH_PLAN.EXHAUSTS (bNat h 20 4) p
  let s := if dstrAddr s p = 0 then s else wrBytes s (dstrAddr s p) ((h.drop 32).take 1024)
  let s := if rngAddr s p = 0 then s else wrBytes s (rngAddr s p) ((h.drop 1056).take 1024)
  installRanges p epoch (bNat r 40 4) (h.drop 4096) s

/-- The detector after a clean commit, from the loss that was classified (R113, R114). -/
def detectorCommit (s : State) (p : Nat) : State :=
  match (part s p).loss with
  | none => s
  | some loss =>
    let l := f32Of loss
    let mu := f32Of (BitVec.ofNat 32 (fget s F.HUB_SPIKE_MEAN.MU p))
    let v := f32Of (BitVec.ofNat 32 (fget s F.HUB_SPIKE_VAR.VAR p))
    let n := fget s F.HUB_SPIKE_STEPS.N p
    let a : Num := .fin false 1 (-(sget s F.HUB_TRB_CFG.A p : Int))
    let d := f32Sub l mu
    let mu' := if n = 0 then l else f32Add mu (f32Mul a d)
    let v' := if n = 0 then numZero else f32Mul (f32Sub (.fin false 1 0) a) (f32Add v (f32Mul (f32Mul a d) d))
    let s := fput s F.HUB_SPIKE_MEAN.MU (f32Bits mu').toNat p
    let s := fput s F.HUB_SPIKE_VAR.VAR (f32Bits v').toNat p
    fput s F.HUB_SPIKE_STEPS.N (min 0xFFFFFFFF (n + 1)) p

/-- Prepare the record of step s (R352): the state as it will stand after the flip; live tables and registers keep their present
contents until the install, what staging consumed is gone. -/
def prepareRecord (s : State) (p : Nat) : State :=
  let step := (part s p).step
  let t := if (part s p).cleanAnswer then detectorCommit s p else s
  let t := fput t F.HUB_TRB_STAT.REPLAYS 0 p
  let t := (List.range (layersOf t p)).foldl (fun t l => rescale t p l (sclH t p l)) t
  let t := stageAll t p
  let t := setStreams t p (step + 1) true
  let r := buildRecord t p step
  let old := fun (x : State) a n => if a = 0 then x else wrBytes x a (rdBytes s a n)
  let t := old (old t (fget s F.HUB_RCP_BASE.ADDR p) 0x4000) (fget s F.HUB_SCL_BASE.ADDR p) 0x8000
  let t := old (old t (dstrAddr s p) 1024) (rngAddr s p) 1024
  let t := fput t F.HUB_SPIKE_MEAN.MU (fget s F.HUB_SPIKE_MEAN.MU p) p
  let t := fput t F.HUB_SPIKE_VAR.VAR (fget s F.HUB_SPIKE_VAR.VAR p) p
  let t := fput t F.HUB_SPIKE_STEPS.N (fget s F.HUB_SPIKE_STEPS.N p) p
  let t := fput t F.HUB_TRB_STAT.REPLAYS (fget s F.HUB_TRB_STAT.REPLAYS p) p
  wrBytes t (outSlot t p step) r

end Sys2Proof.Machine
end

