-- ==== Sys2Proof/Machine/Flash.lean ====
section
/-! DEFINITION. Module flash (R443), certificates (R444), and the records that lie in two slots (R269, R270, R446, R452). -/

namespace Sys2Proof.Machine

/-- n bytes of module flash. -/
def flBytes (s : State) (a n : Nat) : List Byte := (List.range n).map (fun i => ngetD 0 s.flash (a + i))
def flNat (s : State) (a n : Nat) : Nat := leNat (flBytes s a n)

/-- The hub writes bytes of flash (R491). -/
def flWrite (s : State) (a : Nat) (bs : List Byte) : State := { s with flash := memPuts [] s.flash a bs }

/-- The hub writes a record or an image to flash and reads it back: what the flash then holds (R270, R443, R451; assumption log 3). -/
def burn (s : State) (a : Nat) (b : List Byte) : State × List Byte :=
  let (n, s) := drawFree s
  let r := fixLen b.length (Config.flashRead n b)
  (flWrite s a r, r)

def slotA (base size k : Nat) : Nat := base + size * k

/-- The valid record with the higher SEQ of two slots (R270, R443). -/
def bestSlot (valid : Nat → Bool) (seq : Nat → Nat) : Option Nat :=
  if valid 0 && valid 1 then some (if seq 0 < seq 1 then 1 else 0)
  else if valid 0 then some 0
  else if valid 1 then some 1
  else none

/-! ### Certificates (R444) -/

def rootKey (s : State) : List Byte := flBytes s 0x100 2592

def certSubject (c : List Byte) : List Byte := (c.drop 80).take 2592

/-- A certificate of a role issued by a key. -/
def certOk (issuer : List Byte) (role : Nat) (c : List Byte) : Bool :=
  bNat c 0 4 == 0x54524543 && bNat c 4 2 == 1 && bNat c 6 1 == role && bNat c 7 1 == 0 && bNat c 2672 48 == 0 && (c.drop 16).take 64 == sha3 issuer &&
  verifySig "KRYJO-CERT" issuer (c.take 2720) ((c.drop 2720).take 4627)

/-- The manufacturing and the device identity certificate (R443). -/
def mfgCert (s : State) : List Byte := flBytes s 0x10000 7347
def devCert (s : State) : List Byte := flBytes s (0x10000 + 7347) 7347

/-- The subject of a device certificate whose chain leads to the root key. -/
def chainKey (root mfg dev : List Byte) : Option (List Byte) :=
  if certOk root 2 mfg && certOk (certSubject mfg) 3 dev then some (certSubject dev) else none

/-- The identity public key of the vendor certificate in flash, checked against the root key. -/
def deviceKey (s : State) : Option (List Byte) := chainKey (rootKey s) (mfgCert s) (devCert s)

/-! ### Entries of R269 -/

def entryBytes (e : RetEntry) : List Byte :=
  leBytes 1 e.kind ++ leBytes 1 e.cause ++ zeros 2 ++ leBytes 8 e.loc ++ leBytes 4 e.spare

def entryAt (b : List Byte) (off : Nat) : RetEntry := ⟨bNat b off 1, bNat b (off + 1) 1, bNat b (off + 4) 8, bNat b (off + 12) 4⟩

/-! ### The retirement record (R269, R270) -/

def retAddr (k : Nat) : Nat := slotA 0x50000 0x20000 k
def retCount (s : State) (k : Nat) : Nat := min 4096 (flNat s (retAddr k + 6) 2)
def retSeq (s : State) (k : Nat) : Nat := flNat s (retAddr k + 8) 8
def retRecord (s : State) (k : Nat) : List Byte := flBytes s (retAddr k) (96 + 16 * retCount s k + 4627)

/-- A valid record (R270). -/
def retValid (s : State) (k : Nat) : Bool :=
  let b := retRecord s k
  let n := 96 + 16 * retCount s k
  match deviceKey s with
  | some pk => bNat b 0 4 == 0x4C525452 && bNat b 4 2 == 1 && bNat b 6 2 ≤ 4096 && (b.drop 16).take 64 == sha3 pk &&
      verifySig "KRYJO-RETIRE" pk (b.take n) (b.drop n)
  | none => false

def retEntries (s : State) (k : Nat) : List RetEntry := (List.range (retCount s k)).map (fun i => entryAt (retRecord s k) (96 + 16 * i))

/-- A record signed with the identity key. -/
def buildRet (s : State) (seq : Nat) (es : List RetEntry) : List Byte :=
  let b := leBytes 4 0x4C525452 ++ leBytes 2 1 ++ leBytes 2 es.length ++ leBytes 8 seq ++ sha3 s.boot.pk ++ zeros 16 ++ es.flatMap entryBytes
  b ++ makeSig "KRYJO-RETIRE" s.boot.sk b

/-- SEQ of the current record; 0 with none. -/
def curSeq (s : State) : Nat := if s.integ.noRecord then 0 else retSeq s (fget s F.ECC_RET_STAT.SLOT)

/-- The slot that does not hold the current record (R270). -/
def freeRetSlot (s : State) : Nat := if s.integ.noRecord then 0 else 1 - fget s F.ECC_RET_STAT.SLOT

/-- A record read back as it was written is the current one (R270). -/
def currentRet (s : State) (k : Nat) (es : List RetEntry) (b : List Byte) : State :=
  let s := { s with integ := { s.integ with entries := es, noRecord := false }, boot := { s.boot with digests := nset s.boot.digests 8 (sha3 b) } }
  fput (fput s F.ECC_RET_STAT.SLOT k) F.ECC_RET_STAT.ENTRIES es.length

/-! ### The configuration record (R446) -/

def cfgAddr (k : Nat) : Nat := slotA 0x30000 0x10000 k
def cfgCount (s : State) (k : Nat) : Nat := min 2048 (flNat s (cfgAddr k + 6) 2)
def cfgSeq (s : State) (k : Nat) : Nat := flNat s (cfgAddr k + 8) 8
def cfgRecord (s : State) (k : Nat) : List Byte := flBytes s (cfgAddr k) (128 + 16 * cfgCount s k + 4627)

/-- A record is valid only if its signature verifies, its signer issued the device certificate and KEYID matches that certificate. -/
def cfgValid (s : State) (k : Nat) : Bool :=
  let b := cfgRecord s k
  let n := 128 + 16 * cfgCount s k
  match deviceKey s with
  | some pk => bNat b 0 4 == 0x47464E43 && bNat b 4 2 == 1 && bNat b 6 2 ≤ 2048 && (b.drop 16).take 64 == sha3 pk &&
      verifySig "KRYJO-CONFIG" (certSubject (mfgCert s)) (b.take n) (b.drop n)
  | none => false

def cfgEntries (s : State) (k : Nat) : List RetEntry := (List.range (cfgCount s k)).map (fun i => entryAt (cfgRecord s k) (128 + 16 * i))

/-! ### The floor record (R452) -/

def floorSize : Nat := 64 + 7347 + 4627
def floorAddr (k : Nat) : Nat := slotA 0x90000 0x10000 k
def floorRecord (s : State) (k : Nat) : List Byte := flBytes s (floorAddr k) floorSize
def floorSvn (b : List Byte) : Nat := bNat b 8 2
def floorSeq (b : List Byte) : Nat := bNat b 16 8

/-- Signature and certificate of a floor record verify, and its fixed fields are right. The signature covers the header and the certificate
(assumption log 52). -/
def floorValid (s : State) (b : List Byte) : Bool :=
  let cert := (b.drop 64).take 7347
  bNat b 0 4 == 0x524F4C46 && bNat b 4 2 == 1 && bNat b 6 2 == 0 && bNat b 10 6 == 0 && bNat b 24 40 == 0 &&
  certOk (rootKey s) 4 cert && verifySig "KRYJO-FLOOR" (certSubject cert) (b.take (64 + 7347)) (b.drop (64 + 7347))

/-- The slot of the current floor record. -/
def floorSlot (s : State) : Option Nat :=
  bestSlot (fun k => floorValid s (floorRecord s k)) (fun k => floorSeq (floorRecord s k))

end Sys2Proof.Machine
end

