-- ==== Sys2Proof/Machine/Retire.lean ====
section
/-! DEFINITION. Retirements (R234, R268 to R270): the entries of a new record, and when they take effect. -/

namespace Sys2Proof.Machine

/-- Spare lines of a store, named by its SOURCE (R268); none for an edge cache, whose ways are disabled instead. -/
def sparesOf (store : Nat) : Option Nat :=
  if store = srcHubSram then some 64
  else if store / 0x1000 = 2 then some 512
  else if store / 0x1000 = 1 then (if store % 256 / 32 = 7 then some 64 else some 16)
  else none

/-- The cluster of a store of a compute or stacked SRAM die. -/
def storeCluster (store : Nat) : Option Nat := if store / 0x1000 = 1 || store / 0x1000 = 2 then some (store % 32) else none

/-- Spare lines of the array of a place in use: manufacturing repairs and retirement entries (R446). -/
def sparesUsed (s : State) (es : List RetEntry) (loc : Nat) : Nat :=
  ((s.integ.repairs ++ es).filter (fun e => e.kind == 1 && arrayOf 1 e.loc == arrayOf 1 loc)).length

/-- Add one declared place to the entries of a record; a store without a spare left gives SPARES_OUT and a withheld cluster, or ALERT_n for
the hub SRAM (R268). The new entries wait for their effect. -/
def recordOne (x : State × List RetEntry) (d : Nat × Nat × Nat) : State × List RetEntry :=
  let (kind, loc, cause) := d
  let store := loc % 65536
  let add := fun (s : State) (e : RetEntry) =>
    ({ s with integ := { s.integ with recorded := s.integ.recorded ++ [e] } }, x.2 ++ [e])
  let s := x.1
  if kind ≠ 1 then add s ⟨kind, cause, loc, 0⟩
  else match sparesOf store with
    | none => add s ⟨1, cause, loc, 0⟩
    | some n =>
      let used := sparesUsed s x.2 loc
      if used < n then add s ⟨1, cause, loc, used⟩
      else
        let s := fbOffer s (srcCore 3) 0x0406 store 0 0
        match storeCluster store with
        | some c => if x.2.any (fun e => e.kind == 5 && e.loc == c) then (s, x.2) else add s ⟨5, cause, c, 0⟩
        | none => (alert s F.HUB_ALERT.HUB_SPARES, x.2)

/-- ECC_RET_STAT.PENDING. -/
def countPending (s : State) : State := fput s F.ECC_RET_STAT.PENDING (min 4095 s.integ.recorded.length)

/-- Declared places go into a new record of at most 4096 entries; they go on waiting where its read-back does not match (R270). -/
def recordPlaces (s : State) (sel : Nat × Nat × Nat → Bool) : State :=
  let go := s.integ.pending.filter sel
  if go.isEmpty then s
  else
    let x := go.foldl recordOne ({ s with integ := { s.integ with pending := s.integ.pending.filter (fun d => !sel d) } }, s.integ.entries)
    let es := x.2.take 4096
    let k := freeRetSlot s
    let b := buildRet s (curSeq s + 1) es
    let (t, r) := burn x.1 (retAddr k) b
    if r = b then countPending (currentRet t k es b) else { s with flash := t.flash, free := t.free }

/-! ### Taking effect (R268) -/

/-- A word as it is copied to a spare line: corrected where it can be. -/
def copiedWord (w : CodeWord) : CodeWord :=
  match classOf (syndromeOf w) with
  | .checkBit | .dataBit _ => codeWord (deliveredData w)
  | _ => w

/-- The words of a line of a store, as they are copied. -/
def copyLine (s : State) (lo : Nat) : State :=
  (storedIn s lo (lo + 64)).foldl (fun s e => match classOf e.2 with
    | .checkBit | .dataBit _ => writeBack s e.1 e.2
    | _ => s) s

/-- An SRAM line is remapped to a spare line, with the corrected contents copied across; the way of an edge-cache line is disabled. -/
def remapLine (s : State) (loc : Nat) : State :=
  let store := loc % 65536
  let i := loc / 65536
  match storeCluster store with
  | some c =>
    if store / 0x1000 = 2 then copyLine s (deepBase c + 64 * i)
    else if store % 256 / 32 = 7 then copyLine s (nearBase c + 64 * i)
    else if store % 256 / 32 = 1 then
      foldRange 8 (fun s j => modClu s c (fun k => setAccCell k (8 * i + j) (copiedWord (accCell k (8 * i + j))))) s
    else
      modClu s c (fun k => { k with side := k.side.map (fun x => if x.1 / 8 = i then (x.1, copiedWord x.2) else x) })
  | none =>
    if store = srcHubSram then copyLine s (0x7E0000000000 + 64 * i)
    else
      let k := store / 256 % 16 * 524288 + i
      dropLine { s with waysOff := if s.waysOff.contains k then s.waysOff else s.waysOff ++ [k] } k

/-- One recorded retirement takes effect: RETIRE and its notice (R268). -/
def effectOne (s : State) (e : RetEntry) : State :=
  let s := if e.kind = 1 then remapLine s e.loc else s
  let s := fbOffer s (srcCore 3) 0x0405 e.kind e.loc (curSeq s)
  offerRecord s 0x0405 (srcCore 3) 0xFF e.kind e.loc (curSeq s)

/-- Recorded retirements take effect. -/
def takeEffect (s : State) (sel : RetEntry → Bool) : State :=
  let go := s.integ.recorded.filter sel
  let s := { s with integ := { s.integ with recorded := s.integ.recorded.filter (fun e => !sel e) } }
  countPending (go.foldl effectOne s)

/-- An SRAM line of a cluster's stores that takes effect now: at the run start of its partition, or while no run is active (R268). -/
def lineNow (s : State) (starting : Option Nat) (e : RetEntry) : Bool :=
  e.kind == 1 && match storeCluster (e.loc % 65536) with
    | none => true
    | some c => match partOf s c with
      | none => true
      | some p => starting == some p || !(part s p).running

/-- At a run start of partition p (R268). -/
def retireAtRun (s : State) (p : Nat) : State := takeEffect s (lineNow s (some p))

/-- At an image load: clusters without a spare line left are withheld (R268). -/
def retireAtLoad (s : State) : State :=
  let cs := (s.integ.recorded.filter (fun e => e.kind == 5)).map (·.loc)
  let s := cs.foldl (fun s c => fput s F.ECC_STEST_CLU.WITHHELD (fget s F.ECC_STEST_CLU.WITHHELD ||| 2 ^ c)) s
  takeEffect s (fun e => e.kind == 5)

/-- The channel table of a list of physical channels (R233). -/
def setChannels (s : State) (chs : List Nat) (perChannel : Nat) : State :=
  let s := foldRange 256 (fun s i =>
    match chs[i]? with
    | some c => fput (fput s F.HUB_CHT.VALID 1 i) F.HUB_CHT.PHYS c i
    | none => fput (fput s F.HUB_CHT.VALID 0 i) F.HUB_CHT.PHYS 0 i) s
  let s := fput s F.HUB_MEM_STAT.ACTIVE chs.length
  fput s F.HUB_MEM_TOP.BYTES (chs.length * perChannel)

/-- Channels in service, in slot order. -/
def channels (s : State) : List Nat := (List.range (fget s F.HUB_MEM_STAT.ACTIVE)).map (fun i => fget s F.HUB_CHT.PHYS i)

/-- Usable bytes of a channel (R225, R231). -/
def channelBytes (s : State) : Nat := if fget s F.HUB_ID.VARIANT = 1 then 3758096384 else 7516192768

/-- The parts of LPDDR5X outside the checkpoint areas, as first address and length. -/
def outsideAreas (s : State) : List (Nat × Nat) :=
  let areas := (List.range 8).map (fun p => (sget s F.CRN_CKAREA.ADDR p * 65536, sget s F.CRN_CKSIZE.MIB p * MiB))
  gapsOf 0 0x400000000000 ((areas.filter (fun r => r.2 ≠ 0)).foldl (fun m r => nset m r.1 (max r.2 (ngetD 0 m r.1))) [])

/-- LPDDR5X but for the checkpoint areas is undefined, a free value byte by byte, and no line of an edge cache is valid (R234; assumption
log 44). -/
def loseLpddr (s : State) : State :=
  let gaps := outsideAreas s
  let (n, s) := drawFree s
  let gone := fun a => gaps.any (fun r => r.1 ≤ a && a < r.1 + r.2)
  invalidateCaches { s with mem := s.mem.filter (fun c => !gone c.1), syn := s.syn.filter (fun c => !gone c.1),
                            tags := s.tags.filter (fun t => !gone (448 * t.1)),
                            lost := gaps.map (fun r => (r.1, r.1 + r.2, n)) ++ s.lost }

/-- A pending channel retirement at a checkpoint boundary (R234), and rows listed for soft PPR (R268). -/
def retireAtRestore (s : State) : State :=
  let s := takeEffect s (fun e => e.kind == 2)
  let bad := (s.integ.pending.filter (fun d => d.1 == 3)).map (·.2.1)
  if bad.isEmpty then s
  else
    let chs := (channels s).filter (fun c => !bad.contains c)
    let top := chs.length * channelBytes s
    if (List.range 8).any (fun p => fget s F.HUB_WIN.SIZE p ≠ 0 && top < winHi s p) then
      let s := fput s F.HUB_MEM_STAT.BLOCKED 1
      let s := fbOffer s (srcCore 3) 0x040E (bad.headD 0) top 0
      offerRecord s 0x040E (srcCore 3) 0xFF (bad.headD 0) top 0
    else
      let s := recordPlaces s (fun d => d.1 == 3)
      if s.integ.pending.any (fun d => d.1 == 3) then s
      else
        let s := setChannels (loseLpddr s) chs (channelBytes s)
        let s := fput (fput s F.HUB_MEM_STAT.PENDING 0) F.HUB_MEM_STAT.BLOCKED 0
        takeEffect s (fun e => e.kind == 3)

end Sys2Proof.Machine
end

