-- ==== Sys2Proof/Machine/Run.lean ====
section
/-! DEFINITION. Runs of a partition: start (R138, R141, R189, R239 to R241, R337, R342, R349), end (R122), traps handled by HC1 (R185, R186),
faulted steps (R265), and the weight-broadcast engines (R239 to R242). -/

namespace Sys2Proof.Machine

/-! ### Abandonment -/

/-- Buckets of an abandoned run are dropped with their counts (R185, R339, R345). -/
def dropBuckets (s : State) (p : Nat) : State :=
  let s := (part s p).buckets.foldl (fun s b =>
    if b.2.phase = .closed || b.2.phase = .faulted then s
    else fsub (fsub s F.HUB_RED_STAT.INFLIGHT 1 p) F.LNK_RED_STAT.ACTIVE 1 0 (b.1 % 4)) s
  modPart s p (fun x => { x with buckets := [] })

/-- Nothing of the run of a partition whose clusters have stopped follows. -/
def endRun (s : State) (p : Nat) : State :=
  modPart (dropBuckets s p) p (fun x => { x with committing := false, arrived := false, wanted := false, verdictReady := false })

/-- The partition's run is abandoned (R185 step 4): clusters stop, work in flight and buckets go, nothing of the run follows. -/
def abandonPart (s : State) (p : Nat) : State := endRun (abandonRun s p) p

/-- HC1 reads the notice in a cluster's mailbox, if one of these kinds stands there (R421, R422). -/
def takeNotice (s : State) (c : Nat) (kinds : List Nat) : State :=
  if mbxFull s c && kinds.contains (bitsOf (reg s .MBX_PEEK c) 59 56) then
    let s := setReg s .MBX_DATA 0 c
    let s := setReg s .MBX_PEEK 0 c
    let s := fput s F.MBX_STAT.FULL 0 c
    postWaiting (fput s F.MBX_STAT.SSTAT 2 c) c
  else s

/-- The notice that stands in a cluster's mailbox is of a kind. -/
def noticeIs (s : State) (c kind : Nat) : Bool := mbxFull s c && bitsOf (reg s .MBX_PEEK c) 59 56 = kind

/-- Arrive at the verdict barrier with bits of entry 0x7FF, once (R155, R186). -/
def arriveWith (s : State) (p bits : Nat) : State :=
  if (part s p).atVerdict then s
  else hubArrive (modPart s p (fun x => { x with atVerdict := true })) p (orLayer [] 0x7FF bits)

/-- A faulted step: STEP_FAULT, abandonment, a notice, no arrival (R265). -/
def faultStep (s : State) (p : Nat) : State :=
  match (part s p).fault with
  | none => s
  | some (src, addr, event) =>
    if (part s p).abandoned then s
    else
      let s := fbOffer s src 0x0403 p addr event
      offerRecord (abandonPart s p) 0x0403 src p p addr event

/-- A faulted step is logged, the run abandoned without arrival, a notice posted (R265). -/
def execStepFault (p : PartIx) (s : State) : Out :=
  if coreActs s 1 then .next (faultStep s p) else .next s

/-- The first channel of a cluster halted by a bus error or a refused write. -/
def haltWaits (s : State) (c : Nat) : Option Nat :=
  (List.range 4).find? (fun ch => fget s F.SEQ_DMA_STAT.STATE ch c = 2 && 2 ≤ fget s F.SEQ_DMA_STAT.CAUSE ch c)

/-- What the clusters of a partition call for at the verdict barrier: EXHAUST after an exhausted stash, TRAPPED after every other trap and after a
deterministic halt; a FETCH_UE faults the step instead (R155, R186, R265, R468). -/
def stopBits (s : State) (p : Nat) : Nat :=
  (clustersOf s p).foldl (fun b c =>
    let cause := fget s F.SEQ_TRAP_CAUSE.CAUSE 0 c
    let trap := if fget s F.SEQ_STAT.STATE 0 c ≠ 2 || cause = 0x0C then 0 else if cause = 0x07 then gExhaust else gTrapped
    b ||| trap ||| (if (haltWaits s c).isSome then gTrapped else 0)) 0

/-- The run of a partition is abandoned for its traps and halts, and the station arrives at the verdict barrier; a faulted step does not
(R185, R186, R265). -/
def abandonArrive (s : State) (p : Nat) : State :=
  if (part s p).abandoned then s
  else if (part s p).fault.isSome then faultStep s p
  else
    let bits := stopBits s p
    arriveWith (abandonPart s p) p bits

/-- HC1 reads the notice of a cluster's trap or DMA halt and handles it: Field Book, abandonment, arrival with TRAPPED or EXHAUST (R155, R185,
R186, R265). A trap whose notice still waits is handled when that is posted. -/
def execRunAbandon (cl : ClusterIx) (s : State) : Out :=
  let c := cl.val
  match partOf s c with
  | none => .next s
  | some p =>
    if !coreActs s 1 then .next s
    else if noticeIs s c 2 then
      let cause := fget s F.SEQ_TRAP_CAUSE.CAUSE 0 c
      let info := (reg s .SEQ_TRAP_INFO 0 c).toNat
      let s := fbOffer (takeNotice s c [2]) (srcCore 1) 0x0301 c cause info
      let s := if cause = 0x07 then fbOffer s (srcCore 1) 0x0304 c (natBits info 11 0) (natBits info 47 16) else s
      if cause = 0x0C then .next (faultStep s p) else .next (abandonArrive s p)
    else if noticeIs s c 3 then
      match haltWaits s c with
      | some ch =>
        let s := fbOffer (takeNotice s c [3]) (srcCore 1) 0x0307 c (fget s F.SEQ_DMA_ERRADDR.ADDR ch c)
          (ch + 4 * fget s F.SEQ_DMA_STAT.CAUSE ch c)
        .next (abandonArrive s p)
      | none => .next (takeNotice s c [3])
    else .next s

/-! ### The broadcast list (R239 to R241) -/

/-- A list entry (R240). -/
structure WbeEntry where
  desc : BitVec 512
  i0 : Nat
  i1 : Nat
  kt : Nat
  nt : Nat
  rep : Nat
  eng : Nat
  par : Nat
  mask : Nat
  next : Nat
  pair : Nat
  zero : Bool

def wbeEntry (s : State) (a : Nat) : WbeEntry :=
  ⟨BitVec.ofNat 512 (rdNat s a 64), rdNat s (a + 64) 3, rdNat s (a + 67) 3, rdNat s (a + 70) 2, rdNat s (a + 72) 2, rdNat s (a + 74) 2,
   rdNat s (a + 76) 1, rdNat s (a + 77) 1, rdNat s (a + 80) 4, rdNat s (a + 88) 8, rdNat s (a + 96) 8,
   zeroBytes s (a + 78) 2 && zeroBytes s (a + 84) 4 && zeroBytes s (a + 104) 24⟩
where
  zeroBytes (s : State) (a n : Nat) : Bool := rdNat s a n = 0

/-- The tensor an entry delivers: with PAR = 1 the copy buffer of parity E mod 2, base and map (R240, R243). -/
def wbeTens (s : State) (p : Nat) (e : WbeEntry) : Tens :=
  let t := tensOf 0 e.desc
  if natBit e.par 0 then
    let a := e.pair + 64 * (fget s F.CRN_EPOCH.EPOCH p % 2)
    { t with base := rdNat s a 6, omap := if t.hasMap then rdNat s (a + 48) 6 else 0 }
  else t

/-- Position of a weight copy in a list entry. -/
def wbeSource : Position :=
  { dest := false, fmts := [.fp32, .bf16, .fp16, .e4m3, .e5m2, .e2m1, .int8, .int4], layouts := [0, 1, 2] }

/-- What is wrong with an entry: the check of R201 that its descriptor fails, or 0 for a point of R240 or R241, to which the spec gives no
number. -/
def wbeBad (s : State) (p a : Nat) : Option Nat :=
  let e := wbeEntry s a
  let t := wbeTens s p e
  match firstCheck wbeSource e.desc with
  | some k => some k
  | none =>
    if t.tag ≠ 0 || (operandBreach s p t false).isSome || !within a 128 (winLo s p) (winHi s p) || a % 128 ≠ 0 ||
       e.i0 % 128 ≠ 0 || e.i1 % 32 ≠ 0 || e.kt = 0 || e.nt = 0 || e.rep = 0 || 3 < e.eng || 1 < e.par || !e.zero ||
       e.next % 128 ≠ 0 || (e.par = 0 && e.pair ≠ 0) || (e.par = 1 && !within e.pair 128 (winLo s p) (winHi s p)) ||
       e.mask &&& (0xFFFFFFFF - fget s F.HUB_PART.CLUSTERS p) ≠ 0
    then some 0 else none

/-- The first bad entry of a list with its check; fuel bounds the entries, and a list that is longer is refused at the entry after
the last (R241). -/
def wbeCheck (s : State) (p : Nat) : Nat → Nat → Option (Nat × Nat)
  | 0, a => if a = 0 then none else some (a, 0)
  | k + 1, a =>
    if a = 0 then none
    else match wbeBad s p a with
      | some x => some (a, x)
      | none => wbeCheck s p k (wbeEntry s a).next

def wbeFirst (s : State) (p : Nat) : Nat := sget s F.HUB_WBE_LIST.ADDR p * 128

/-- The entries of a list, up to the first bad one. -/
def wbeRanges (s : State) (p : Nat) : Nat → Nat → List (Nat × Nat)
  | 0, _ => []
  | k + 1, a => if a = 0 then [] else (a, a + 128) :: (if (wbeBad s p a).isSome then [] else wbeRanges s p k (wbeEntry s a).next)

/-- One tile as the engines deliver it (R199, R240, R241). -/
def readTile (s : State) (t : Tens) (i0 i1 : Nat) (poison : Option Nat) : Tile :=
  let rows := List.range 256
  { codes := rows.flatMap (fun n => (List.range 128).map (fun k =>
      if inTens t (i0 + k) (i1 + n) 0 0 then readCode s t (i0 + k) (i1 + n) 0 0 else 0)),
    scales := rows.flatMap (fun n => (List.range 4).map (fun q => scaleByteAt s t (i0 + 32 * q) (i1 + n) 0)),
    side := rows.flatMap (fun n => (List.range 8).map (fun m =>
      if t.hasMap && inTens t i0 (i1 + n) 0 0 then rdNat s (sideAddr t (i0 / 128) m (i1 + n) 0 0) 2 else 0)),
    poison := poison }

/-- The place after a tile in a list: entry, repetition, tile along dimension 1, along dimension 0. -/
def wbeNext (e : WbeEntry) (x : Nat × Nat × Nat × Nat) : Nat × Nat × Nat × Nat :=
  let (a, r, n, k) := x
  if k + 1 < e.kt then (a, r, n, k + 1)
  else if n + 1 < e.nt then (a, r, n + 1, 0)
  else if r + 1 < e.rep then (a, r + 1, 0, 0)
  else (e.next, 0, 0, 0)

/-- The engines send the next tile when every receiver has a free place (R241). -/
def execTileBroadcast (p : PartIx) (s : State) : Out :=
  match nget s.wbePos p.val with
  | none => .next s
  | some (a, r, n, k) =>
    let e := wbeEntry s a
    let eng := e.eng % 4
    let cs := indicesWhere 32 (natBit e.mask)
    let places := cs.all (fun c => (ngetD [] (clu s c).tiles eng).length < 2)
    if isFrozen s || isStopped s || !(part s p).running || a = 0 || !places then .next s
    else
      let t := wbeTens s p e
      let i0 := e.i0 + 128 * k
      let i1 := e.i1 + 256 * n
      let (s, bad) := checkRanges (srcEdge (edgeOf s t.base) 2) s ((a, a + 128) :: windowRanges t i0 128 i1 256 0 1 0 1)
      let x := readTile s t i0 i1 (bad.map (·.1))
      let s := cs.foldl (fun s c => modClu s c (fun q => { q with tiles := nset q.tiles eng (ngetD [] q.tiles eng ++ [x]) })) s
      .next { s with wbePos := nset s.wbePos p.val (wbeNext e (a, r, n, k)) }

/-- Tiles left in the queues at run end are discarded and counted (R241). -/
def dropTiles (s : State) (p : Nat) : State :=
  let n := ((clustersOf s p).map (fun c => ((clu s c).tiles.map (fun t => t.2.length)).sum)).sum
  let s := (clustersOf s p).foldl (fun s c => modClu s c (fun k => { k with tiles := [] })) s
  { s with wbeLeft := s.wbeLeft + n, wbePos := ndel s.wbePos p }

/-! ### Run start -/

/-- Where the interleave table of a cluster lies and how many entries it has, as the registers stood before the present tick; none when it is not
enabled (R139, R162). -/
def ilvPlace (s : State) (c : Nat) : Option (Nat × Nat) :=
  let ctl := regBefore s .SEQ_ILV_CTL 0 c
  if bitsOf ctl F.SEQ_ILV_CTL.ENABLE.hi F.SEQ_ILV_CTL.ENABLE.lo = 1
  then some ((regBefore s .SEQ_ILV_BASE 0 c).toNat, bitsOf ctl F.SEQ_ILV_CTL.LEN.hi F.SEQ_ILV_CTL.LEN.lo) else none

/-- The interleave table of a cluster as run start reads it: its entries, or the first bad entry (R139, R141). -/
def readIlv (s : State) (c : Nat) : List (BitVec 16) × Option Nat :=
  match ilvPlace s c with
  | none => ([], none)
  | some (a, n) =>
    if n = 0 || 4096 < n then ([], some 0)
    else
      let l := (List.range n).map (fun k => BitVec.ofNat 16 (rdNat s (a + 2 * k) 2))
      (l, l.findIdx? (fun e => bitsOf e 15 14 ≠ 0 || (List.range 7).any (fun u => bitsOf e (2 * u + 1) (2 * u) = 3)))

/-- Bytes of the bucket table and its status records (R314). -/
def redBytes : Nat := 0x40000 + 64 * 4096

/-- Why the run of a partition does not start: Field Book code, ARG1, ARG2 (R141, R241, R337, R349), with ARG0. -/
def runReject (s : State) (p : Nat) : Option (Nat × Nat × Nat × Nat) :=
  match ptReject s p with
  | some (i, k) => some (0x0706, p, i, k)
  | none =>
    let t := sget s F.HUB_RED_TABLE.ADDR p * 65536
    if t ≠ 0 && !within t redBytes (winLo s p) (winHi s p) then some (0x0607, p, (reg s .HUB_RED_TABLE p).toNat, 0)
    else match wbeCheck s p 65536 (wbeFirst s p) with
      | some (a, k) => some (0x0305, p, a, k)
      | none => (clustersOf s p).findSome? (fun c => (readIlv s c).2.map (fun i => (0x0303, c, i, 0)))

/-- The rejected run is reported (R141, R241, R337, R349). A WBE point without a number of its own reports a free value. -/
def rejectRun (s : State) (p : Nat) (x : Nat × Nat × Nat × Nat) : State :=
  let s := modPart s p (fun y => { y with wanted := false })
  let (code, a0, a1, a2) := x
  if code = 0x0706 then crnLog (fset s F.CRN_EVT.PT_REJECT 1 p) p code a1 a2 true
  else
    let (s, a2) := if code = 0x0305 && a2 = 0 then (let d := drawFree s; (d.2, (Config.freeWord d.1).toNat)) else (s, a2)
    offerRecord (fbOffer s (srcCore 1) code a0 a1 a2) code (srcCore 1) p a0 a1 a2

/-- The holds of R342, R193 and R333 have cleared. -/
def holdsClear (s : State) (p : Nat) : Bool :=
  let x := part s p
  x.emits.isEmpty && fget s F.HUB_RED_STAT.GATHER_PEND p = 0 && x.gathers.all (fun g => g.2.complete && !g.2.failed) &&
  (!sbit s F.CRN_BUDDY.VALID p || x.mirror.isNone) && fget s F.CRN_MIRSTAT.SEND p ≠ 3 &&
  !(fget s F.CRN_CKSTAT.STAGE p = 1 && fget s F.CRN_CKEPOCH.EPOCH p < fget s F.CRN_EPOCH.EPOCH p) &&
  (clustersOf s p).all (fun c => !noticeIs s c 2 && (clu s c).notices.all (fun w => bitsOf w 59 56 ≠ 2))

/-- What HC1 reads at a run start: the broadcast list, interleave tables, the entry table, the participants of barriers. -/
def startReads (s : State) (p : Nat) (im : Image) : List (Nat × Nat) :=
  wbeRanges s p 65536 (wbeFirst s p) ++ (clustersOf s p).filterMap (fun c => (ilvPlace s c).map (fun x => (x.1, x.1 + 2 * min 4096 x.2))) ++
  [(im.entry, im.entry + 32 * im.clusters.length), (im.barPart, im.barPart + 4 * 63)]

/-- The plan that a run takes: ALT before the present tick (R162). -/
def altPlan (s : State) (p : Nat) : Nat := bitsOf (regBefore s .HUB_STH_PLAN p 0) F.HUB_STH_PLAN.ALT.hi F.HUB_STH_PLAN.ALT.lo

/-- One stream at run start (R189). -/
def startStream (s : State) (p c : Nat) (rank : Nat) : StreamState :=
  let s1 := (part s p).step
  let r := { StreamState.reset with running := true }
  let r := setSreg r 1 (BitVec.ofNat 64 s1)
  let r := setSreg r 2 (BitVec.ofNat 64 (fget s F.HUB_TRB_STAT.REPLAYS p))
  let r := setSreg r 3 (BitVec.ofNat 64 rank)
  let r := setSreg r 4 (BitVec.ofNat 64 (imageIndex s p c))
  setSreg r 5 (BitVec.ofNat 64 (altPlan s p))

/-- A cluster at run start (R82, R138, R141, R152, R182, R189, R250, R251). -/
def startCluster (im : Image) (p : Nat) (s : State) (c : Nat) : State :=
  let s := emptyStash s c
  let s := foldRange 256 (fun s k => setTokPending (setTokCount s c k 0) c k 0) s
  let s := fput s F.SEQ_STH_PEAK.GRAN 0 0 c
  let s := setReg s .SEQ_ILV_WAITF 0 0 c
  let s := setReg s .SEQ_ILV_WAITB 0 0 c
  let s := fput s F.SEQ_ILV_POS.SLOT 0 0 c
  let s := fput s F.SEQ_ILV_POS.CYCLE 0 0 c
  let s := setReg s .SEQ_TRAP_CAUSE 0 0 c
  let s := setReg s .SEQ_TRAP_PC 0 0 c
  let s := setReg s .SEQ_TRAP_INFO 0 0 c
  let s := foldRange 4 (fun s ch => setReg (setReg s .SEQ_DMA_STAT 0 ch c) .SEQ_DMA_ERRADDR 0 ch c) s
  let s := setReg s .SEQ_STAT 0 0 c
  let s := fput s F.SEQ_STAT.STATE 1 0 c
  let off := im.entry + 32 * imageIndex s p c + (if altPlan s p = 1 then 16 else 0)
  let (ef, eb) := (rdNat s off 8, rdNat s (off + 8) 8)
  let s := setPc (setPc s c .F (ef % 2 ^ 48)) c .B (eb % 2 ^ 48)
  let st := startStream s p c (station s)
  let ilv := (readIlv s c).1
  let lim := bitsOf (regBefore s .SEQ_STH_LIMIT 0 c) F.SEQ_STH_LIMIT.GRAN.hi F.SEQ_STH_LIMIT.GRAN.lo
  let s := modClu s c (fun k => { k with F := { st with pcHigh := ef / 2 ^ 48 }, B := { st with pcHigh := eb / 2 ^ 48 }, td := [], inflight := [], ilv := ilv, barLast := [], tiles := [], lastRow := [],
                                         stashLimit := lim, noticeSeq := 0 })
  applyBells s c

/-- Barriers of the image, and the partition's instance of barrier 63, start at generation 0 (R182, R189, R305). -/
def startBarriers (im : Image) (p : Nat) (s : State) : State :=
  let ks := (List.range 63).filter (natBit im.barriers.toNat) ++ [64 + p]
  ks.foldl (fun s k =>
    setBar (setBarLocal (setBarUps (setBarGen s k 0) k 0) k 0) k BarState.reset) s

/-- A run starts, unless a check refuses it (R122, R141, R189, R241, R337, R349). After an emit with an invalid descriptor it ends at once, with
TRAPPED (R244; assumption log 80). -/
def startRun (im : Image) (p : Nat) (s : State) : State :=
  match runReject s p with
  | some r => rejectRun s p r
  | none =>
    let s := retireAtRun (acceptTable s p) p
    let step := fget s F.CRN_EPOCH.EPOCH p + 1
    let s := fillDraws s p step
    let s := zeroRange s (troubleBase p) (troubleBase p + 0x20000)
    let s := fput s F.HUB_TRB_STAT.LOSS_WRITTEN 0 p
    let s := fput s F.HUB_STH_SPILLPEAK.GRAN 0 p
    let s := dropBuckets s p
    let table := sget s F.HUB_RED_TABLE.ADDR p * 65536
    let s := modPart s p (fun y => { y with running := true, wanted := false, step := step, fault := none, abandoned := false,
                                            atVerdict := false, verdictReady := false, committing := false, arrived := false, combined := [],
                                            loss := none,
                                            redTable := table, updates := [] })
    let s := startBarriers im p s
    let s := (clustersOf s p).foldl (startCluster im p) s
    let first := wbeFirst s p
    let s := { s with wbePos := if first = 0 then ndel s.wbePos p else nset s.wbePos p (first, 0, 0, 0) }
    if (part s p).badEmit then arriveWith (abandonPart (modPart s p (fun y => { y with badEmit := false })) p) p gTrapped else s

/-- The hub rings run-start doorbell 0 of every cluster once every hold has cleared (R189). -/
def execRunStart (p : PartIx) (s : State) : Out :=
  let x := part s p
  match x.image with
  | none => .next s
  | some im =>
    if !coreActs s 1 || isStopped s || !x.wanted || x.running || fget s F.CRN_STAT.STATE p ≠ 1 || !holdsClear s p then .next s
    else .next (coreReads 1 (startReads s p im) (fun s => coreReads 2 (tableReads s p) (startRun im p) s) s)

/-! ### Run end (R122) -/

/-- Trouble event entries: for each kind the lowest layer with a count (R276). -/
def logTrouble (s : State) (p : Nat) : State :=
  let at_ := fun l off => rdNat s (troubleBase p + 64 * l + off) 4
  (List.range 6).foldl (fun s k =>
    match (List.range 2048).find? (fun l => at_ l (4 * k) ≠ 0) with
    | some l => fbOffer s (srcCore 1) (k + 1) l (at_ l (4 * k)) (at_ l 44)
    | none => s) s

/-- The loss L is a spike (R113). -/
def isSpike (s : State) (p : Nat) (loss : BitVec 32) : Bool :=
  let l := f32Of loss
  let mu := f32Of (BitVec.ofNat 32 (fget s F.HUB_SPIKE_MEAN.MU p))
  let v := f32Of (BitVec.ofNat 32 (fget s F.HUB_SPIKE_VAR.VAR p))
  let k : Num := .fin false (sget s F.HUB_TRB_CFG.K p) (-4)
  !numIsFinite l || (sget s F.HUB_TRB_CFG.WARM p ≤ fget s F.HUB_SPIKE_STEPS.N p && numLt (f32Add mu (f32Mul k (f32Sqrt v))) l)

/-- Classify the loss (R113, R114): the state, and whether it is a spike. L is kept for the statistics; a spike is a trouble event of entry
0x7FF (R109, R110). -/
def classifyLoss (s : State) (p : Nat) : State × Bool :=
  if !fbit s F.HUB_TRB_STAT.LOSS_WRITTEN p then
    (fbOffer (fset s F.HUB_TRB_EVT.LOSS_ABSENT 1 p) (srcCore 1) 0x0201 p (part s p).step 0, false)
  else
    let l := BitVec.ofNat 32 (fget s F.HUB_LOSS_REPORT.LOSS p)
    let s := modPart s p (fun x => { x with loss := some l })
    if isSpike s p l then
      let s := troubleFirst (fset s F.HUB_TRB_EVT.SPIKE 1 p) p 0x7FF
      (fbOffer s srcSpike 0x0007 0x7FF 1 (tickNow s % 2 ^ 32), true)
    else (s, false)

/-- The bits of one layer (R122). -/
def verdictBits (s : State) (p l : Nat) : Nat :=
  let at_ := fun off => rdNat s (troubleBase p + 64 * l + off) 4
  let recomp := at_ 0 ≠ 0 || at_ 12 ≠ 0
  let spill := 8 * at_ 24 / 2 ^ sget s F.HUB_TRB_CFG.SF p < at_ 4
  let crush := at_ 28 / 2 ^ sget s F.HUB_TRB_CFG.CF p < at_ 8
  if natBit (rcp s p l) 31 then (if recomp || spill || crush then 8 else 0)
  else b2n recomp + 2 * b2n spill + 4 * b2n crush

/-- The local payload (R122). -/
def localPayload (s : State) (p : Nat) (spike : Bool) : List (Nat × Nat) :=
  let m := (List.range (layersOf s p)).foldl (fun m l => orLayer m l (verdictBits s p l)) []
  orLayer m 0x7FF (b2n spike * gSpike + b2n (part s p).holdreq * gHoldreq)

/-- A run ends on the station: every cluster has posted its step-end notice and every operation is complete, the update descriptors that
its buckets handed on among them (R122, R190, R244). -/
def runDone (s : State) (p : Nat) : Bool :=
  (part s p).updates.isEmpty &&
  (clustersOf s p).all (fun c => fget s F.SEQ_STAT.STATE 0 c = 3 && (clu s c).inflight.isEmpty &&
    (clu s c).notices.all (fun w => bitsOf w 59 56 ≠ 1))

/-- HC1 closes the trouble table, classifies the loss and arrives at the verdict barrier (R122). -/
def execRunEnd (p : PartIx) (s : State) : Out :=
  let x := part s p
  if !coreActs s 1 || !x.running || x.abandoned || x.fault.isSome || !runDone s p then .next s
  else .next (coreReads 1 (policyTables s p) (fun s =>
    let s := (clustersOf s p).foldl (fun s c => takeNotice s c [1]) s
    let s := logTrouble (dropTiles s p) p
    let (s, spike) := classifyLoss s p
    let pay := localPayload s p spike
    let s := modPart s p (fun y => { y with running := false, holdreq := false, atVerdict := true })
    hubArrive s p pay) s)

/-- A write of HUB_LOSS_REPORT from the Meridian port records the run's loss; from elsewhere it is ignored (R114, R130). -/
def execLossReport (src : Source) (p : PartIx) (v : BitVec 32) (s : State) : Out :=
  if src = .meridian && !isFrozen s then
    let s := setReg s .HUB_LOSS_REPORT (v.zeroExtend 64) p
    .next (fput s F.HUB_TRB_STAT.LOSS_WRITTEN 1 p)
  else .next s

end Sys2Proof.Machine
end

