-- ==== Sys2Proof/Machine/Cairn.lean ====
section
/-! DEFINITION. Cairn: the commit barrier and the flip (R340 to R346), mirror sends (R354, R355), checkpoints (R360 to R366), step
replay and restore (R367 to R370), commands (R378). -/

namespace Sys2Proof.Machine

def epochOf (s : State) (p : Nat) : Nat := fget s F.CRN_EPOCH.EPOCH p
def arrivedOf (s : State) (p : Nat) : Nat := fget s F.CRN_ARRIVED.STEP p
def crnState (s : State) (p : Nat) : Nat := fget s F.CRN_STAT.STATE p
def crnArg (s : State) (p : Nat) : Nat := (reg s .CRN_ARG p).toNat

/-- ARRIVED is one ahead of EPOCH: the station has arrived at a commit barrier and has not flipped (R340, R346). -/
def atCommit (s : State) (p : Nat) : Bool := arrivedOf s p = epochOf s p + 1

/-! ### The mirror send (R354) -/

/-- Packets of the mirror send that are not acknowledged are forgotten. -/
def stopMirror (s : State) (p : Nat) : State :=
  let s := { s with sent := s.sent.filter (fun x => !(x.2.kind == 1 && x.2.who == p)) }
  modPart s p (fun x => { x with mirror := none })

/-- The record of the present epoch goes to the buddy's in slot (R350, R354). -/
def sendMirror (s : State) (p : Nat) : State :=
  let s := stopMirror s p
  if !sbit s F.CRN_BUDDY.VALID p then fput s F.CRN_MIRSTAT.SEND 0 p
  else
    let dst := sget s F.CRN_BUDDY.STATION p
    let e := epochOf s p
    let src := outSlot s p e
    let s := fput s F.CRN_MIRSTAT.SEND 1 p
    let s := modPart s p (fun x => { x with mirror := some ⟨dst, s.tick⟩ })
    sendBytes s dst 1 p 0 src (sget s F.CRN_BUDDYADDR.ADDR p * MiB + e % 2 * slotSize) (readRecord s src).length

/-- The record is acknowledged when WACKs cover every packet (R354). -/
def mirrorAcked (s : State) (p : Nat) : State :=
  if (part s p).mirror.isSome && !s.sent.any (fun x => x.2.kind == 1 && x.2.who == p) then
    modPart (fput s F.CRN_MIRSTAT.SEND 2 p) p (fun x => { x with mirror := none })
  else s

/-- The send fails: 1 refused, 2 timeout; the doorbell stays held (R354). -/
def failMirror (s : State) (p cause : Nat) : State :=
  match (part s p).mirror with
  | none => s
  | some m =>
    let s := fput (stopMirror s p) F.CRN_MIRSTAT.SEND 3 p
    crnLog (fset s F.CRN_EVT.MIRROR_FAIL 1 p) p 0x0708 m.dst cause true

/-- The send is not acknowledged within CRN_COMMIT_TMOp ticks (R354). -/
def execMirrorSendTimeout (p : PartIx) (s : State) : Out :=
  match (part s p).mirror with
  | some m => if coreActs s 2 && m.since + sget s F.CRN_COMMIT_TMO.TICKS p ≤ s.tick then .next (failMirror s p 2) else .next s
  | none => .next s

/-- A write of a buddy register; while the send has failed it starts again (R354, R376). -/
def execBuddyWrite (src : Source) (p : PartIx) (which : BuddyReg) (v : Word) (s : State) : Out :=
  if src ≠ .meridian || isFrozen s then .next s
  else
    let r : RegName := if which = .buddy then .CRN_BUDDY else .CRN_BUDDYADDR
    let s := writeReg s r p 0 v.toNat
    .next (if fget s F.CRN_MIRSTAT.SEND p = 3 then sendMirror s p else s)

/-! ### Checkpoint images (R360 to R365) -/

/-- A chunk of an image: protection-table index, or none for the record, its KIND, its number in the range, address of its bytes, length. -/
structure Chunk where
  entry : Option Nat
  kind : Nat
  k : Nat
  addr : Nat
  len : Nat

def chunkSize : Nat := 16 * MiB

/-- The chunks of a range (R363). -/
def chunksOfRange (entry : Option Nat) (kind addr n : Nat) : List Chunk :=
  (List.range (cdiv n chunkSize)).map (fun k => ⟨entry, kind, k, addr + chunkSize * k, min chunkSize (n - chunkSize * k)⟩)

/-- The ranges of an image of epoch c in directory order: the record, KIND 2, checkpointed KIND 1, KIND 3 (R361, R363, R365; the order of the
entries is assumption log 45): index, KIND, address, bytes. -/
def imageRanges (s : State) (p c : Nat) : List (Option Nat × Nat × Nat × Nat) :=
  let es := ptEntries s p
  let of_ := fun (k : Nat) => (es.filter (fun e => e.2.kind == k && !(k == 1 && (part s p).mir.contains e.1))).map
    (fun e => (some e.1, k, ptAddr e.2 c, e.2.bytes))
  (none, 0, outSlot s p c, (readRecord s (outSlot s p c)).length) :: (of_ 2 ++ of_ 1 ++ of_ 3)

def imageChunks (s : State) (p c : Nat) : List Chunk :=
  (imageRanges s p c).flatMap (fun r => chunksOfRange r.1 r.2.1 r.2.2.1 r.2.2.2)

/-- The digest of a chunk's bytes (R364). -/
def chunkDigest (bytes : List Byte) : List Byte := sha3 (0x00 :: bytes)

def treeLevel : List (List Byte) → List (List Byte)
  | a :: b :: t => sha3 (0x01 :: (a ++ b)) :: treeLevel t
  | l => l

/-- The root of the tree over chunk digests (R364); fuel bounds the levels. -/
def treeRoot : Nat → List (List Byte) → List Byte
  | _, [] => zeros 64
  | _, [x] => x
  | 0, x :: _ => x
  | k + 1, l => treeRoot k (treeLevel l)

def areaBase (s : State) (p : Nat) : Nat := sget s F.CRN_CKAREA.ADDR p * 65536
def areaSize (s : State) (p : Nat) : Nat := sget s F.CRN_CKSIZE.MIB p * MiB

/-- The frozen index: record j, for the j-th KIND 3 chunk, in the top 1 MiB of the area (R365; assumption log 45). -/
def frozenAddr (s : State) (p j : Nat) : Nat := areaBase s p + areaSize s p - MiB + 80 * j

/-- The index record of a frozen chunk: digest and REF_EPOCH. -/
def frozenRecord (s : State) (p j : Nat) (c : Chunk) : Option (List Byte × Nat) :=
  let b := rdBytes s (frozenAddr s p j) 80
  if leNat (b.take 64) ≠ 0 && bNat b 72 4 = c.entry.getD 0 && bNat b 76 4 = c.k then some (b.take 64, bNat b 64 8) else none

/-- A chunk as an image holds it: present, or referenced with the epoch that saved it; old: the index record it had. -/
structure Stored where
  c : Chunk
  digest : List Byte
  present : Bool
  refEpoch : Nat
  changed : Bool

/-- The chunks of an image of epoch c with their digests; frozen ones by R365. -/
def storeChunks (s : State) (p epoch : Nat) : List Stored :=
  ((imageChunks s p epoch).foldl (fun (x : List Stored × Nat) c =>
    let d := chunkDigest (rdBytes s c.addr c.len)
    if c.kind ≠ 3 then (x.1 ++ [⟨c, d, true, epoch, false⟩], x.2)
    else match frozenRecord s p x.2 c with
      | some (d0, e0) => if d0 = d then (x.1 ++ [⟨c, d, false, e0, false⟩], x.2 + 1) else (x.1 ++ [⟨c, d, true, epoch, true⟩], x.2 + 1)
      | none => (x.1 ++ [⟨c, d, true, epoch, false⟩], x.2 + 1)) ([], 0)).1

/-- Bytes before the present chunks: header, directory, chunk table, signature, padded to 64 KiB (R362). -/
def tablePart (tensors chunks : Nat) : Nat := 65536 * cdiv (256 + 32 * tensors + 96 * chunks + 4627) 65536

def presentBytes (l : List Stored) : Nat := ((l.filter (·.present)).map (·.c.len)).sum

def imageBytes (s : State) (p epoch : Nat) (l : List Stored) : Nat := tablePart (imageRanges s p epoch).length l.length + presentBytes l

/-- The directory (R363). -/
def directory (rs : List (Option Nat × Nat × Nat × Nat)) : List Byte :=
  (rs.foldl (fun (x : List Byte × Nat) r =>
    let n := cdiv r.2.2.2 chunkSize
    (x.1 ++ leBytes 4 (r.1.getD 0xFFFFFFFF) ++ leBytes 1 r.2.1 ++ zeros 3 ++ leBytes 8 r.2.2.2 ++ leBytes 4 x.2 ++ leBytes 4 n ++ zeros 8,
     x.2 + n)) ([], 0)).1

/-- The chunk table, with present chunks from an offset up (R363). -/
def chunkTable (l : List Stored) (start : Nat) : List Byte :=
  (l.foldl (fun (x : List Byte × Nat) c =>
    (x.1 ++ c.digest ++ leBytes 8 (if c.present then x.2 else 2 ^ 64 - 1) ++ leBytes 8 c.refEpoch ++ leBytes 4 c.c.len ++ zeros 12,
     if c.present then x.2 + c.c.len else x.2)) ([], start)).1

/-- Header, directory, chunk table and signature of an image of format version 2 (R362, R364). -/
def imageHead (s : State) (p epoch : Nat) (l : List Stored) (root : List Byte) : List Byte :=
  let rs := imageRanges s p epoch
  let start := tablePart rs.length l.length
  let head := leBytes 4 0x4E524143 ++ leBytes 2 2 ++ leBytes 2 256 ++ leBytes 8 (sget s F.CRN_JOB.JOB p) ++ leBytes 8 epoch ++
    leBytes 2 (station s) ++ leBytes 1 p ++ zeros 1 ++ leBytes 4 rs.length ++ leBytes 4 l.length ++ zeros 4 ++
    leBytes 8 (presentBytes l) ++ leBytes 8 (start + presentBytes l) ++ zeros 8 ++ root ++ sha3 s.boot.pk ++ zeros 64
  let b := head ++ directory rs ++ chunkTable l start
  let b := b ++ makeSig "KRYJO-CKPT" s.boot.sk b
  b ++ zeros (start - b.length)

/-- A checkpoint is skipped: 1 not drained, 2 no space (R360). -/
def skipCkpt (s : State) (p epoch cause : Nat) : State := crnLog (fset s F.CRN_EVT.CKPT_SKIP 1 p) p 0x070B epoch cause true

/-- Staging starts at the flip to an epoch that is due (R360, R361). -/
def startCkpt (s : State) (p epoch : Nat) : State :=
  let every := sget s F.CRN_CTL.CKPT_EVERY p
  let due := (every ≠ 0 && epoch % every = 0) || (part s p).ckptAt.contains epoch
  let s := modPart s p (fun x => { x with ckptAt := x.ckptAt.filter (· != epoch) })
  let stage := fget s F.CRN_CKSTAT.STAGE p
  if !due || sget s F.CRN_CKSIZE.MIB p = 0 then s
  else if stage = 1 || stage = 2 || (stage = 3 && !fbit s F.CRN_CKSTAT.DRAINED p) then skipCkpt s p epoch 1
  else if areaSize s p < imageBytes s p epoch (storeChunks s p epoch) + MiB then skipCkpt s p epoch 2
  else
    let s := fput (fput (fput s F.CRN_CKSTAT.STAGE 1 p) F.CRN_CKSTAT.DRAINED 0 p) F.CRN_CKSTAT.CHUNKS 0 p
    fput s F.CRN_CKEPOCH.EPOCH epoch p

/-- Staging that has not reached STAGED ends: 1 halt, 2 uncorrectable word, 3 coolant stop, 4 warm reset (R361). -/
def abortStaging (s : State) (p cause : Nat) : State :=
  let stage := fget s F.CRN_CKSTAT.STAGE p
  if stage = 1 || stage = 2 then
    let s := fput s F.CRN_CKSTAT.STAGE 4 p
    crnLog (fset s F.CRN_EVT.CKPT_ABORT 1 p) p 0x070C (fget s F.CRN_CKEPOCH.EPOCH p) cause true
  else s

/-- Index records of the frozen chunks of an image (R365). -/
def putFrozen (s : State) (p : Nat) (l : List Stored) : State :=
  ((l.filter (fun c => c.c.kind == 3)).foldl (fun (x : State × Nat) c =>
    (wrBytes x.1 (frozenAddr s p x.2) (c.digest ++ leBytes 8 c.refEpoch ++ leBytes 4 (c.c.entry.getD 0) ++ leBytes 4 c.c.k), x.2 + 1)) (s, 0)).1

/-- The chunks that the copy takes: all but those of KIND 3, which come last and are hashed in place (R361). -/
def copiedChunks (s : State) (p epoch : Nat) : List Chunk := (imageChunks s p epoch).filter (fun c => c.kind ≠ 3)

/-- Where chunk j of the copy goes in the area: the present chunks follow the tables in chunk order (R362). -/
def copyPlace (s : State) (p epoch j : Nat) : Nat :=
  areaBase s p + tablePart (imageRanges s p epoch).length (imageChunks s p epoch).length +
    (((copiedChunks s p epoch).take j).map (·.len)).sum

/-- The copy of one more chunk; a word uncorrectable after its retry, or poisoned, ends the staging (R361, R379). After the last one the
image is hashed and sealed. -/
def copyChunk (s : State) (p : Nat) : State :=
  let epoch := fget s F.CRN_CKEPOCH.EPOCH p
  let j := fget s F.CRN_CKSTAT.CHUNKS p
  match fget s F.CRN_CKSTAT.STAGE p, (copiedChunks s p epoch)[j]? with
  | 1, some c =>
    (match checkRanges (srcEdge (edgeOf s (areaBase s p)) 3) s [(c.addr, c.addr + c.len)] with
     | (s, some _) => abortStaging s p 2
     | (s, none) =>
       let s := wrBytes s (copyPlace s p epoch j) (rdBytes s c.addr c.len)
       let s := fput s F.CRN_CKSTAT.CHUNKS (j + 1) p
       if j + 1 = (copiedChunks s p epoch).length then fput s F.CRN_CKSTAT.STAGE 2 p else s)
  | 1, none => fput s F.CRN_CKSTAT.STAGE 2 p
  | _, _ => s

/-- What is left of the copy. -/
def finishCopy (s : State) (p : Nat) : State :=
  foldRange ((copiedChunks s p (fget s F.CRN_CKEPOCH.EPOCH p)).length + 1) (fun s _ => copyChunk s p) s

/-- Hash and seal end: the image is STAGED (R361 to R365). -/
def sealImage (s : State) (p : Nat) : State :=
  let epoch := fget s F.CRN_CKEPOCH.EPOCH p
  let rs := (imageRanges s p epoch).filter (fun r => r.2.1 == 3)
  match checkRanges (srcEdge (edgeOf s (areaBase s p)) 3) s (rs.map (fun r => (r.2.2.1, r.2.2.1 + r.2.2.2))) with
  | (s, some _) => abortStaging s p 2
  | (s, none) =>
    let l := storeChunks s p epoch
    let root := treeRoot l.length (l.map (·.digest))
    let base := areaBase s p
    let start := tablePart (imageRanges s p epoch).length l.length
    let t := ((l.filter (·.present)).foldl (fun (x : State × Nat) c =>
      (if c.c.kind = 3 then wrBytes x.1 (base + x.2) (rdBytes s c.c.addr c.c.len) else x.1, x.2 + c.c.len)) (s, start)).1
    let t := wrBytes t base (imageHead s p epoch l root)
    let t := (l.filter (·.changed)).foldl (fun t c => crnLog t p 0x070D (c.c.entry.getD 0) c.c.k false) t
    let t := putFrozen t p l
    let t := fput (fput t F.CRN_CKSTAT.STAGE 3 p) F.CRN_CKSTAT.CHUNKS l.length p
    let t := modPart t p (fun x => { x with latest := overKind1 s p epoch })
    crnLog t p 0x070A epoch (leNat (root.take 8)) true

/-- Copy, hash and seal end (R361). -/
def execCkptStaged (p : PartIx) (s : State) : Out :=
  let stage := fget s F.CRN_CKSTAT.STAGE p
  if !coreActs s 2 || isStopped s || (stage ≠ 1 && stage ≠ 2) then .next s
  else
    let s := finishCopy s p
    .next (if fget s F.CRN_CKSTAT.STAGE p = 2 then sealImage s p else s)

/-- Chunks that a tick copies or checks: how many is not stated, and is a free value (R361 gives the rates only as bounds below). -/
def tickChunks (s : State) : Nat × State :=
  let (n, s) := drawFree s
  ((Config.freeWord n).toNat, s)

/-- The copy of a staging goes on in a tick (R361, R377). -/
def tickStaging (s : State) (p : Nat) : State :=
  if !coreActs s 2 || isStopped s || fget s F.CRN_CKSTAT.STAGE p ≠ 1 then s
  else
    let (k, s) := tickChunks s
    let left := (copiedChunks s p (fget s F.CRN_CKEPOCH.EPOCH p)).length - fget s F.CRN_CKSTAT.CHUNKS p
    foldRange (k % (left + 1)) (fun s _ => copyChunk s p) s

/-! ### The commit (R341, R342, R344) -/

/-- What HC2 waits for before it arrives (R341): a commit to make, updates complete, buckets closed, no fault, the verdict generation over. -/
def commitReady (s : State) (p : Nat) : Bool :=
  let x := part s p
  x.committing && !x.arrived && x.updates.isEmpty && x.fault.isNone &&
  x.buckets.all (fun b => b.2.phase = .closed) && barGen s (64 + p) = 1

/-- HC2 prepares the record and arrives at the commit barrier (R341, R352). -/
def execCommitArrive (p : PartIx) (s : State) : Out :=
  if !coreActs s 2 || isStopped s || !commitReady s p then .next s
  else .next (coreReads 2 (recordReads s p) (fun s =>
    let s := prepareRecord s p
    let s := fput s F.CRN_ARRIVED.STEP (part s p).step p
    let s := modPart s p (fun x => { x with arrived := true, commitSince := s.tick, timeoutSent := false })
    hubArrive s p []) s)

/-- Install the record in the out slot of the present epoch (R353). -/
def installSlot (s : State) (p : Nat) : State := installRecord s p (readRecord s (outSlot s p (epochOf s p)))

/-- What HC2 does after the flip, in order (R342); the run of the next step is wanted. -/
def afterFlip (s0 : State) (p : Nat) : State :=
  let e := epochOf s0 p
  let s := fput (installSlot s0 p) F.HUB_TRB_STAT.SPIKE_RUN 0 p
  let s := addEmits s p (changedLayers s0 s p true)
  let s := expectGathers s p (fun _ => true) e
  let s := sendMirror s p
  let s := startCkpt s p e
  modPart s p (fun x => { x with flipWaits := false, wanted := true })

/-- The flip, in the tick in which the station releases the commit barrier, and what follows it (R342); that waits while HC2 does not
run (R20). -/
def flipStation (s0 : State) (p : Nat) : State :=
  let e := arrivedOf s0 p
  let s := fput s0 F.CRN_EPOCH.EPOCH e p
  let s := crnLog s p 0x0701 e (tickNow s) false
  let s := energyReport s p 1
  let s := modPart s p (fun x => { x with committing := false, arrived := false, flipWaits := true })
  if coreRuns s 2 then afterFlip s p else s

/-- The commit barrier is not released within CRN_COMMIT_TMOp ticks of the arrival (R344). -/
def execCommitTimeout (p : PartIx) (s : State) : Out :=
  let x := part s p
  let lim := x.commitSince + sget s F.CRN_COMMIT_TMO.TICKS p
  if !coreActs s 2 || !x.committing || !x.arrived || x.timeoutSent || s.tick < lim then .next s
  else
    let s := modPart s p (fun y => { y with timeoutSent := true })
    .next (crnLog (fset s F.CRN_EVT.COMMIT_TIMEOUT 1 p) p 0x0702 x.step (s.tick - x.commitSince) true)

/-! ### Commands (R378) -/

/-- A command refused in the present state (R378). -/
def rejectCmd (s : State) (p cmd : Nat) : State :=
  crnLog (fset s F.CRN_EVT.CMD_REJECT 1 p) p 0x0712 cmd (crnState s p) false

/-- A command for HC2: only a Meridian WRITE gives one (R376). HC2 acts on it, or, while it does not run, it waits for its restart with the
commands before it (R20, R27; assumption log 46). -/
def crnCmd (src : Source) (p code : Nat) (act : State → State) (s : State) : Out :=
  if src ≠ .meridian || isFrozen s then .next s
  else if coreRuns s 2 then .next (act s)
  else .next (modPart s p (fun x => { x with commands := x.commands ++ [code] }))

/-- HALT (R345). -/
def haltStation (s : State) (p : Nat) : State :=
  let s := abandonPart s p
  let s := countGathers (modPart s p (fun x => { x with gathers := [], emits := [], updates := [], atVerdict := false, mirror := none,
                                                                             answers := [], flipWaits := false })) p
  let s := if fget s F.CRN_MIRSTAT.SEND p = 1 then fput (stopMirror s p) F.CRN_MIRSTAT.SEND 0 p else s
  let s := abortStaging s p 1
  let s := setBar s (64 + p) { BarState.reset with left := true }
  let s := fput (fput s F.HUB_TRB_STAT.HOLDING 0 p) F.HUB_TRB_STAT.SPIKE_RUN 0 p
  let s := fput s F.CRN_STAT.STATE 2 p
  energyReport (crnLog s p 0x0703 (epochOf s p) (arrivedOf s p) false) p 2

def execHalt (src : Source) (p : PartIx) (s : State) : Out :=
  crnCmd src p 1 (fun s => haltStation s p) s

/-- FLIP (R346): items 2 to 5 of R342 are left to RESUME. -/
def flipCmd (p : Nat) (s : State) : State :=
  if crnState s p ≠ 2 || !atCommit s p then rejectCmd s p 2
  else
    let s := fput s F.CRN_EPOCH.EPOCH (arrivedOf s p) p
    let s := modPart s p (fun x => { x with ckptOwed := true })
    installSlot (crnLog s p 0x0704 (epochOf s p) 0 false) p

def execFlip (src : Source) (p : PartIx) (s : State) : Out := crnCmd src p 2 (flipCmd p) s

/-- A data stream of a record breaks R359. -/
def dataBad (r : List Byte) (epoch : Nat) : Bool :=
  let d := (r.drop 160).take 1024
  (List.range 16).any (fun i => streamOn d i 40 && (bNat d (64 * i + 2) 2 ≠ 0 || bNat d (64 * i + 16) 8 ≠ epoch + 1))

/-- A record fails its checks: MIRROR_BAD, and RESTORE_SKEW for a refused skew (R355). -/
def mirrorBad (s : State) (p epoch cause : Nat) (r : List Byte) : State :=
  let s := if cause = 3 && !dataBad r epoch then logSkews s p r else s
  crnLog s p 0x0709 epoch cause true

/-- RESUME (R367). After a FLIP it starts the staging that the flip left, if a checkpoint is due (R342, R346). -/
def resumeCmd (p : Nat) (s : State) : State :=
  if crnState s p ≠ 2 && crnState s p ≠ 4 then rejectCmd s p 3
  else
    let e := epochOf s p
    let r := readRecord s (outSlot s p e)
    match recordFail s p e r with
    | some k => mirrorBad s p e k r
    | none =>
      let s := logSkews s p r
      let r := fixSkews r
      let s := wrBytes s (outSlot s p e) r
      let s := modPart s p (fun x => { x with redTable := sget s F.HUB_RED_TABLE.ADDR p * 65536, gathers := [], emits := [] })
      let s := installRecord s p r
      let s := modPart s p (fun x => { x with emits := ownedShards s p (fun _ => true) })
      let s := expectGathers s p (fun _ => true) e
      let s := sendMirror s p
      let s := if (part s p).ckptOwed then startCkpt s p e else s
      let s := crnLog s p 0x0705 e 0 false
      let s := fput (fput s F.HUB_TRB_STAT.SPIKE_RUN 0 p) F.CRN_STAT.STATE 1 p
      modPart s p (fun x => { x with ckptOwed := false, wanted := true })

def execResume (src : Source) (p : PartIx) (s : State) : Out := crnCmd src p 3 (resumeCmd p) s

/-- MIRROR_LOAD (R355). A record outside the window fails as a header (assumption log 47). -/
def mirrorLoadCmd (p : Nat) (s : State) : State :=
  if crnState s p ≠ 2 && crnState s p ≠ 4 then rejectCmd s p 4
  else
    let e := epochOf s p
    let r := readRecord s (crnArg s p)
    let bad := if within (crnArg s p) r.length (winLo s p) (winHi s p) then recordFail s p e r else some 1
    match bad with
    | some k => mirrorBad s p e k r
    | none => wrBytes (logSkews s p r) (outSlot s p e) (fixSkews r)

def execMirrorLoad (src : Source) (p : PartIx) (s : State) : Out := crnCmd src p 4 (mirrorLoadCmd p) s

/-- CKPT_AT (R360). -/
def ckptAtCmd (p : Nat) (s : State) : State :=
  if (crnState s p ≠ 1 && crnState s p ≠ 2) || crnArg s p ≤ epochOf s p then rejectCmd s p 6
  else modPart s p (fun x => { x with ckptAt := crnArg s p :: x.ckptAt.filter (· != crnArg s p) })

def execCkptAt (src : Source) (p : PartIx) (s : State) : Out := crnCmd src p 6 (ckptAtCmd p) s

/-- DRAINED (R366). -/
def drainedCmd (p : Nat) (s : State) : State :=
  if fget s F.CRN_CKSTAT.STAGE p ≠ 3 || crnArg s p ≠ fget s F.CRN_CKEPOCH.EPOCH p then rejectCmd s p 7
  else fput s F.CRN_CKSTAT.DRAINED 1 p

def execDrained (src : Source) (p : PartIx) (s : State) : Out := crnCmd src p 7 (drainedCmd p) s

/-- SET_EPOCH (R378). The table is accepted as at a run start, when it passes R349, so that the record holds its mirrored ranges. -/
def setEpochCmd (p : Nat) (s : State) : State :=
  if crnState s p ≠ 0 then rejectCmd s p 8
  else
    let e := crnArg s p
    let s := if (ptReject s p).isNone then acceptTable s p else s
    let s := fput (fput s F.CRN_EPOCH.EPOCH e p) F.CRN_ARRIVED.STEP e p
    let s := setStreams s p (e + 1) false
    let s := wrBytes s (outSlot s p e) (buildRecord s p e)
    let s := modPart s p (fun x => { x with epochSet := true })
    crnLog s p 0x0713 e 0 false

def execSetEpoch (src : Source) (p : PartIx) (s : State) : Out := crnCmd src p 8 (setEpochCmd p) s

/-! ### Restore (R369) -/

/-- RESTORE starts: pending channel retirement is applied (R234, R369). -/
def restoreCmd (p : Nat) (s : State) : State :=
  if crnState s p ≠ 2 && !(crnState s p = 3 && 3 ≤ fget s F.CRN_REST.RESULT p) then rejectCmd s p 5
  else
    let s := fput s F.CRN_STAT.STATE 3 p
    let s := fput (fput s F.CRN_REST.RESULT 1 p) F.CRN_REST.INDEX 0 p
    let s := fput s F.CRN_CKSTAT.CHUNKS 0 p
    let s := modPart s p (fun x => { x with restoreEpoch := crnArg s p })
    retireAtRestore s

def execRestore (src : Source) (p : PartIx) (s : State) : Out := crnCmd src p 5 (restoreCmd p) s

/-- An image in the checkpoint area: directory entries (index, KIND, BYTES, first chunk, chunks) and chunk-table entries (digest, offset, REF_EPOCH,
length). -/
structure ImageView where
  base : Nat
  version : Nat
  tensors : Nat
  chunks : Nat

def viewImage (s : State) (p : Nat) : ImageView :=
  let a := areaBase s p
  ⟨a, rdNat s (a + 4) 2, rdNat s (a + 28) 4, rdNat s (a + 32) 4⟩

def dirAt (v : ImageView) (i : Nat) : Nat := v.base + 256 + 32 * i
def chkAt (v : ImageView) (j : Nat) : Nat := v.base + 256 + 32 * v.tensors + 96 * j
def sigAt (v : ImageView) : Nat := v.base + 256 + 32 * v.tensors + 96 * v.chunks

/-- The header check of R369. -/
def headOk (s : State) (p c : Nat) (v : ImageView) : Bool :=
  rdNat s v.base 4 = 0x4E524143 && (v.version = 1 || v.version = 2) && rdNat s (v.base + 8) 8 = sget s F.CRN_JOB.JOB p &&
  rdNat s (v.base + 16) 8 = c && rdNat s (v.base + 24) 2 = station s && rdNat s (v.base + 26) 1 % 8 = p &&
  sigAt v + 4627 ≤ v.base + areaSize s p

/-- The first directory entry that does not match the protection table in KIND and BYTES (R369). Entry 0 is the record; every range that a
checkpoint saves is listed once. -/
def dirFail (s : State) (p : Nat) (v : ImageView) : Option Nat :=
  let mir := mirrored s p
  let want := (ptEntries s p).filter (fun e => e.2.kind == 2 || e.2.kind == 3 || (e.2.kind == 1 && !mir.contains e.1))
  let ok := fun (i : Nat) =>
    let idx := rdNat s (dirAt v i) 4
    if i = 0 then idx == 0xFFFFFFFF
    else want.any (fun e => e.1 == idx && e.2.kind == rdNat s (dirAt v i + 4) 1 && e.2.bytes == rdNat s (dirAt v i + 8) 8) &&
      !(List.range i).any (fun j => rdNat s (dirAt v j) 4 == idx)
  match (List.range v.tensors).find? (fun i => !ok i) with
  | some i => some i
  | none => if v.tensors = want.length + 1 then none else some v.tensors

/-- The public key that signed an image: this station's, or one whose certificate the station has (R369, R371). -/
def signerKey (s : State) (keyid : List Byte) : Option (List Byte) :=
  match deviceKey s with
  | some pk => if sha3 pk = keyid then some pk
               else let c := Config.signerCerts keyid
                    (chainKey (rootKey s) c.2 c.1).filter (fun k => sha3 k = keyid)
  | none => none

def sigOk (s : State) (v : ImageView) : Bool :=
  match signerKey s (rdBytes s (v.base + 128) 64) with
  | some pk => verifySig "KRYJO-CKPT" pk (rdBytes s v.base (sigAt v - v.base)) (rdBytes s (sigAt v) 4627)
  | none => false

/-- Where a chunk's bytes belong: the range of its directory entry, from buffer c mod 2 (R369). -/
def chunkHome (s : State) (p c : Nat) (v : ImageView) (j : Nat) : Option Nat :=
  ((List.range v.tensors).find? (fun i => rdNat s (dirAt v i + 16) 4 ≤ j && j < rdNat s (dirAt v i + 16) 4 + rdNat s (dirAt v i + 20) 4)).map
    (fun i => (if i = 0 then outSlot s p c else ptAddr (ptEntry s p (rdNat s (dirAt v i) 4)) c) + chunkSize * (j - rdNat s (dirAt v i + 16) 4))

/-- A chunk whose bytes are in the image; every chunk of version 1 is (R362). -/
def isPresent (s : State) (v : ImageView) (j : Nat) : Bool := v.version = 1 || rdNat s (chkAt v j + 64) 8 ≠ 2 ^ 64 - 1

/-- Where a chunk's bytes lie now: in the image, or in place (R369). -/
def chunkSource (s : State) (p c : Nat) (v : ImageView) (j : Nat) : Option Nat :=
  if isPresent s v j then some (v.base + rdNat s (chkAt v j + 64) 8) else chunkHome s p c v j

/-- A chunk's bytes hash to its digest, and no word of them is bad (R369, R379). -/
def chunkOk (s : State) (p c : Nat) (v : ImageView) (j : Nat) : Bool :=
  let n := rdNat s (chkAt v j + 80) 4
  match chunkSource s p c v j, chunkHome s p c v j with
  | some a, some _ => n ≤ chunkSize && !badIn s a (a + n) && chunkDigest (rdBytes s a n) = rdBytes s (chkAt v j) 64
  | _, _ => false

/-- The record in chunk 0. -/
def imageRecord (s : State) (p c : Nat) (v : ImageView) : List Byte :=
  match chunkSource s p c v 0 with
  | some a => rdBytes s a (rdNat s (dirAt v 0 + 8) 8)
  | none => []

/-- The first data stream or skewed random stream of a record that breaks R359. -/
def badStream (r : List Byte) (epoch : Nat) : Nat :=
  let d := (r.drop 160).take 1024
  match (List.range 16).find? (fun i => streamOn d i 40 && (bNat d (64 * i + 2) 2 ≠ 0 || bNat d (64 * i + 16) 8 ≠ epoch + 1)) with
  | some i => i
  | none => (recordSkews r).headD 0

/-- RESULT and INDEX of the first failed check of R369. A record whose header or digest fails counts as header and as chunk 0 (assumption log
47). -/
def restoreFail (s : State) (p c : Nat) (v : ImageView) : Option (Nat × Nat) :=
  if !headOk s p c v then some (3, 0)
  else match dirFail s p v with
    | some i => some (8, i)
    | none =>
      if !sigOk s v then some (4, 0)
      else if treeRoot v.chunks ((List.range v.chunks).map (fun j => rdBytes s (chkAt v j) 64)) ≠ rdBytes s (v.base + 64) 64 then some (5, 0)
      else match (List.range v.chunks).find? (fun j => !chunkOk s p c v j) with
        | some j => some (6, j)
        | none =>
          let r := imageRecord s p c v
          match recordFail s p c r with
          | some 1 => some (3, 0)
          | some 2 => some (6, 0)
          | some _ => some (7, badStream r c)
          | none => none

/-- Every check passed: the chunks go to their ranges, the record to its slot, the frozen index is rebuilt (R369). -/
def writeRestore (s : State) (p c : Nat) (v : ImageView) : State :=
  let t := (List.range v.chunks).foldl (fun t j =>
    match chunkSource s p c v j, chunkHome s p c v j with
    | some a, some h => if isPresent s v j && j ≠ 0 then wrBytes t h (rdBytes s a (rdNat s (chkAt v j + 80) 4)) else t
    | _, _ => t) s
  let r := imageRecord s p c v
  let t := wrBytes (logSkews t p r) (outSlot s p c) (fixSkews r)
  let es := (List.range v.tensors).filter (fun i => i ≠ 0 && rdNat s (dirAt v i + 4) 1 = 3)
  let js := es.flatMap (fun i => (List.range (rdNat s (dirAt v i + 20) 4)).map (fun k => (rdNat s (dirAt v i) 4, k, rdNat s (dirAt v i + 16) 4 + k)))
  ((js.foldl (fun (x : State × Nat) (y : Nat × Nat × Nat) =>
    (wrBytes x.1 (frozenAddr s p x.2) (rdBytes s (chkAt v y.2.2) 64 ++ rdBytes s (chkAt v y.2.2 + 72) 8 ++ leBytes 4 y.1 ++ leBytes 4 y.2.1),
     x.2 + 1)) (t, 0)).1)

/-- A restore ends badly: RESULT, INDEX, RESTORE_BAD (R369). -/
def restoreBad (s : State) (p k i : Nat) : State :=
  let s := fput (fput s F.CRN_REST.RESULT k p) F.CRN_REST.INDEX i p
  crnLog (fset s F.CRN_EVT.RESTORE_BAD 1 p) p 0x070E (part s p).restoreEpoch (k + i * 2 ^ 32) true

/-- A restore's checks run. -/
def restoring (s : State) (p : Nat) : Bool := crnState s p = 3 && fget s F.CRN_REST.RESULT p = 1

/-- A restore checks chunks in a tick (R377). -/
def tickRestore (s : State) (p : Nat) : State :=
  if !coreActs s 2 || !restoring s p then s
  else
    let (k, s) := tickChunks s
    let n := fget s F.CRN_CKSTAT.CHUNKS p
    fput s F.CRN_CKSTAT.CHUNKS (n + k % ((viewImage s p).chunks - n + 1)) p

/-- The checks of a restore end (R369). -/
def execRestoreDone (p : PartIx) (s : State) : Out :=
  if !coreActs s 2 || !restoring s p then .next s
  else
    let c := (part s p).restoreEpoch
    let v := viewImage s p
    match restoreFail s p c v with
    | some (k, i) =>
      let r := imageRecord s p c v
      let s := if k = 7 && !dataBad r c then logSkews s p r else s
      .next (restoreBad s p k i)
    | none =>
      let s := writeRestore s p c v
      let s := fput (fput s F.CRN_EPOCH.EPOCH c p) F.CRN_ARRIVED.STEP c p
      let s := fput (fput s F.CRN_STAT.STATE 4 p) F.CRN_REST.RESULT 2 p
      let s := fput s F.CRN_CKSTAT.CHUNKS v.chunks p
      let s := modPart s p (fun x => { x with latest := overKind1 s p c })
      .next (crnLog s p 0x0711 c v.chunks true)

/-! ### HC2 is reset, or runs again (R20, R27) -/

/-- HC2 is reset: what it had in progress fails on this station (R27, DEDUCED): a staging, a mirror send and a restore, with causes and a
RESULT that the spec does not give and that are free values. -/
def discardCairn (s : State) (p : Nat) : State :=
  let (k, s) := drawFree s
  let w := (Config.freeWord k).toNat
  let s := abortStaging s p (natBits w 15 0)
  let s := if fget s F.CRN_MIRSTAT.SEND p = 1 then failMirror s p (natBits w 31 16) else s
  if restoring s p then restoreBad s p (3 + natBits w 39 32 % 6) (natBits w 63 40) else s

/-- One command of CRN_CMD (R378). -/
def actCommand (p : Nat) (s : State) (code : Nat) : State :=
  match code with
  | 1 => haltStation s p
  | 2 => flipCmd p s
  | 3 => resumeCmd p s
  | 4 => mirrorLoadCmd p s
  | 5 => restoreCmd p s
  | 6 => ckptAtCmd p s
  | 7 => drainedCmd p s
  | 8 => setEpochCmd p s
  | _ => rejectCmd s p code

/-- HC2 runs again: a flip is followed up, and the commands that wait are taken in order. -/
def waitingCairn (s : State) (p : Nat) : State :=
  let s := if (part s p).flipWaits then afterFlip s p else s
  (part s p).commands.foldl (actCommand p) (modPart s p (fun x => { x with commands := [] }))

end Sys2Proof.Machine
end

