-- ==== Sys2Proof/Machine/Links.lean ====
section
/-! DEFINITION. Ports, their training and their flits (R286 to R295), the switch (R296 to R300), station numbers (R302) and tick
synchronisation (R306, R307). -/

namespace Sys2Proof.Machine

/-! ### Ports -/

def pput (s : State) (f : Fld) (v n : Nat) : State := fput s f v (n % 6) (n / 6)
def pset (s : State) (f : Fld) (n : Nat) : State := fset s f 1 (n % 6) (n / 6)
def psat (s : State) (f : Fld) (k n : Nat) : State := fsat s f k (n % 6) (n / 6)
def padd (s : State) (f : Fld) (k n : Nat) : State := fadd s f k (n % 6) (n / 6)

def port (s : State) (n : Nat) : Port := ngetD .reset s.ports n
def setPort (s : State) (n : Nat) (x : Port) : State := { s with ports := nset s.ports n x }
def modPort (s : State) (n : Nat) (f : Port → Port) : State := setPort s n (f (port s n))

def srcPort (n : Nat) : Nat := srcLink (n / 6) (n % 6)
def srcSwitch (d : Nat) : Nat := srcLink d 0x10

/-- A port enters a state. -/
def enter (s : State) (n st : Nat) : State := modPort (pput s F.LNK_PSTAT.STATE st n) n (fun x => { x with since := s.tick })

/-- Neither retired nor switched off (R290). -/
def laneOk (s : State) (n l : Nat) : Bool := !natBit (pget s F.LNK_PSTAT.RETIRED n) l && !natBit (psget s F.LNK_PCFG.LANEOFF n) l

/-- Lanes of a mask that are neither retired nor switched off. -/
def usable (s : State) (n mask : Nat) : Nat := (List.range 4).foldl (fun m l => if natBit mask l && laneOk s n l then m + 2 ^ l else m) 0

/-! ### Virtual channels (R294, R296) -/

/-- Initial credits. -/
def initCredit (vc : Nat) : Nat := if vc < 2 then 320 else 96

def creditOf (x : Port) (vc : Nat) : Nat := ngetD (initCredit vc) x.credits vc

/-- Units of a packet, by the length that its header gives. -/
def unitsOf (p : Packet) : Nat := cdiv (2 + bitsOf (deliveredData p.h0) 24 17) 8

/-- Class of a packet type: 0 data, 1 acknowledgements, 2 control; none for a type outside the table. -/
def classOfType (t : Nat) : Option Nat :=
  if t = 1 || t = 4 || t = 5 then some 0
  else if t = 2 || t = 3 || t = 9 then some 1
  else if t = 6 || t = 7 || t = 8 then some 2
  else none

/-- Units that leave the receive buffer of a port are owed to its peer; input 24 has none. -/
def oweCredit (s : State) (n vc units : Nat) : State :=
  if n < 24 then modPort s n (fun x => { x with owed := nset x.owed vc (ngetD 0 x.owed vc + units) }) else s

/-! ### Flits (R293) -/

def hdrBits (h : BitVec 72) (hi lo : Nat) : Nat := natBits h.toNat hi lo

def codeBytes (w : CodeWord) : List Byte := leBytes 8 w.data.toNat ++ [w.chk]

/-- CRC over the header and the 27 payload slots; an empty slot is 0. -/
def flitCrc (hdr : BitVec 72) (ws : List CodeWord) : BitVec 32 :=
  crc32 (leBytes 9 hdr.toNat ++ ws.flatMap codeBytes ++ List.replicate (9 * (27 - ws.length)) 0)

/-- A header: KIND, SEQ, ACK, NAK, two credit returns, ABORT. -/
def flitHdr (kind seq ack : Nat) (nak : Bool) (c1 c2 : Nat × Nat) (abort : Bool) : BitVec 72 :=
  BitVec.ofNat 72 (kind * 2 ^ 68 + seq % 4096 * 2 ^ 56 + ack % 4096 * 2 ^ 44 + b2n nak * 2 ^ 43 + c1.1 % 8 * 2 ^ 40 + c1.2 % 256 * 2 ^ 32 +
    c2.1 % 8 * 2 ^ 29 + c2.2 % 256 * 2 ^ 21 + b2n abort * 2 ^ 20)

/-- The next credit return, and what stays owed. -/
def takeOwed : List (Nat × Nat) → (Nat × Nat) × List (Nat × Nat)
  | [] => ((0, 0), [])
  | (vc, n) :: t => if n ≤ 255 then ((vc, n), t) else ((vc, 255), (vc, n - 255) :: t)

/-- Send one data flit: kept in the replay buffer, with up to two credit returns. ends: packets that end in it. -/
def sendFlit (n : Nat) (abort : Bool) (s : State) (ws : List CodeWord) (ends : Nat) : State :=
  let x := port s n
  let (c1, o) := takeOwed x.owed
  let (c2, o) := takeOwed o
  let h := flitHdr 1 x.nextSeq x.lastIn x.nakOut c1 c2 abort
  let f : Flit := ⟨h, ws, flitCrc h ws, 0, 0⟩
  let s := setPort s n { x with nextSeq := (x.nextSeq + 1) % 4096, owed := o, replay := x.replay ++ [(x.nextSeq, f, ends)], txFlits := x.txFlits + 1 }
  padd s F.LNK_TXBYTES.COUNT 256 n

/-- The words of the next flit: 27 of those that wait, not beyond the end of a truncated packet. -/
def nextWords : Nat → List TxWord → List TxWord
  | 0, _ => []
  | _, [] => []
  | k + 1, x :: l => if x.abort then [x] else x :: nextWords k l

/-- Words that wait go out in flits, back to back (R293): full flits and those that end in a truncated packet, others only when forced. fuel
bounds the flits. -/
def drainWords (n : Nat) (force : Bool) : Nat → State → State
  | 0, s => s
  | k + 1, s =>
    let x := port s n
    let l := nextWords 27 x.txWords
    let abort := l.any (·.abort)
    if pState s n ≠ pACTIVE || 512 ≤ x.replay.length || l.isEmpty || !(force || abort || l.length = 27) then s
    else drainWords n force k (sendFlit n abort (setPort s n { x with txWords := x.txWords.drop l.length }) (l.map (·.w)) (l.filter (·.last)).length)

/-- Words go to the transmitter of a port. -/
def pushWords (s : State) (n : Nat) (ws : List TxWord) : State :=
  let s := modPort s n (fun x => { x with txWords := x.txWords ++ ws })
  drainWords n false ((port s n).txWords.length) s

/-- Everything that waits goes out. -/
def flushPort (s : State) (n : Nat) : State := drainWords n true ((port s n).txWords.length) s

/-- Flits that a port sends in tick t at a width code: 3 1/8 a tick at width 4 (R287, R293). -/
def flitRate (w t : Nat) : Nat := (t + 1) * (25 * 2 ^ w) / 32 - t * (25 * 2 ^ w) / 32

/-- A port in a tick that passes: waiting words and credits go out, and idle flits fill what the data flits leave of its rate (R293, R313). -/
def tickPort (s : State) (n : Nat) : State :=
  if pState s n ≠ pACTIVE then s
  else
    let s := flushPort s n
    let x := port s n
    let rate := flitRate (pget s F.LNK_PSTAT.WIDTH n) (s.tick - x.since)
    let s := setPort s n { x with owed := if x.txFlits < rate then (takeOwed (takeOwed x.owed).2).2 else x.owed, txFlits := 0 }
    padd s F.LNK_TXBYTES.COUNT (256 * (rate - x.txFlits)) n

/-- A packet with the VC of its next hop in header word 0; corrected header words travel corrected. -/
def withVc (p : Packet) (vc : Nat) : Packet :=
  { p with h0 := codeWord (putBits (deliveredData p.h0) 27 25 vc), h1 := codeWord (deliveredData p.h1) }

/-- A packet of another input is part way out by a port. -/
def portBusy (s : State) (n : Nat) : Bool := s.switch.any (fun q => q.out == some n)

/-- Port n can take the packet on a VC: credits for all of it, room in the replay buffer, no packet part way out (R293, R300). -/
def canSend (s : State) (n vc : Nat) (p : Packet) : Bool :=
  let x := port s n
  pState s n = pACTIVE && unitsOf p ≤ creditOf x vc && !portBusy s n &&
  x.replay.length + cdiv (x.txWords.length + 2 + bitsOf (deliveredData p.h0) 24 17) 27 ≤ 512

/-- The words of a packet as they wait for flits; its end is marked when it has come whole. -/
def txOf (p : Packet) (whole : Bool) : List TxWord :=
  let ws := p.h0 :: p.h1 :: p.payload
  (ws.zip (List.range ws.length)).map (fun x => let e := whole && x.2 + 1 = ws.length; ⟨x.1, e, e && p.trunc⟩)

/-- Begin to send a packet on a VC of a port: what has come of it goes to the transmitter. -/
def transmit (s : State) (n vc : Nat) (p : Packet) (whole : Bool) : State :=
  let s := modPort s n (fun x => { x with credits := nset x.credits vc (creditOf x vc - unitsOf p) })
  pushWords s n (txOf (withVc p vc) whole)

/-! ### A port goes down (R295, R300, R307) -/

/-- The parent port has left ACTIVE: a locked follower unlocks (R307). -/
def unlockTick (s : State) (n : Nat) : State :=
  if sget s F.TCK_CTL.ROLE = 2 && sget s F.TCK_CTL.PARENT = n && fbit s F.TCK_STAT.LOCKED then
    let s := fput s F.TCK_STAT.LOCKED 0
    let s := fsat { s with tickGood := 0, tickSlew := 0 } F.TCK_UNLOCKS.COUNT 1
    fbOffer s (srcPort n) 0x0508 n (fget s F.TCK_STAT.ERR) (tickNow s)
  else s

/-- A packet that came by a port is lost with it: one part way out ends with ABORT (R295, R300). -/
def loseInput (s : State) (q : Queued) : State :=
  match q.out with
  | some o => pushWords s o [⟨codeWord 0, true, true⟩]
  | none => s

/-- A packet that waits for a port that goes down: one whose header came in this tick takes its other way, any other is discarded (R295, R313). -/
def loseOutput (s : State) (n : Nat) (q : Queued) : Option Queued :=
  if q.route ≠ some n || q.port = n then some q
  else if q.out.isNone && q.tick = s.tick then some { q with route := wayOf s q.port (bitsOf (deliveredData q.pkt.h0) 63 48) }
  else if q.whole then none
  else some { q with route := none, out := none }

/-- Packets that a port discards (R295): those that wait in its receive buffers, those that its replay buffer and its transmitter hold, those
that wait for it in the switch. -/
def discarded (s : State) (n : Nat) : Nat :=
  let x := port s n
  (s.switch.filter (fun q => q.port == n && q.out.isNone)).length + (x.replay.map (·.2.2)).sum + (x.txWords.filter (·.last)).length +
  (s.switch.filter (fun q => q.port != n && q.route == some n && !(q.out.isNone && q.tick == s.tick))).length + b2n (!x.partialPkt.isEmpty)

/-- The switch after a port has gone: units that its waiting packets held are owed to the inputs they came by. -/
def clearSwitch (s : State) (n : Nat) : State :=
  let gone := s.switch.filter (fun q => q.port != n && (loseOutput s n q).isNone)
  let s := (s.switch.filter (fun q => q.port == n)).foldl loseInput s
  let s := { s with switch := (s.switch.filter (fun q => q.port != n)).filterMap (loseOutput s n) }
  gone.foldl (fun s q => oweCredit s q.port q.vc (unitsOf q.pkt)) s

/-- A port leaves ACTIVE or RETRAIN, or a failed INIT, for DOWN or DISABLED (R289, R295): cause by R309. -/
def leavePort (s : State) (n st cause : Nat) : State :=
  let old := pState s n
  let k := discarded s n
  let x := port s n
  let s := enter (pput s F.LNK_PSTAT.VERSION 0 n) n st
  let s := psat (clearSwitch s n) F.LNK_DROP.COUNT k n
  let s := if st = pDOWN && (old = pACTIVE || old = pRETRAIN) then pset s F.LNK_PEVT.DOWN n else s
  let s := fbOffer s (srcPort n) 0x0502 n cause k
  let s := setPort s n { Port.reset with since := s.tick, attempts := if old = pINIT then x.attempts + 1 else x.attempts, peer := x.peer }
  unlockTick s n

/-- R291: an ACTIVE port trains again; its link-layer state stays. -/
def retrain (s : State) (n : Nat) : State :=
  if pState s n ≠ pACTIVE then s
  else
    let s := pset (enter s n pRETRAIN) F.LNK_PEVT.RETRAIN n
    unlockTick (modPort s n (fun x => { x with trained := false })) n

/-- A lane is declared permanent (R267, R291). -/
def laneFault (s : State) (n l cause : Nat) : State := retrain (declarePermanent s 4 (n + 256 * l) cause) n

/-! ### Bringing a port up (R289, R290, R292) -/

/-- A port that is DOWN tries again after 125,000 ticks, or has failed 8 times. Ports start in phase LINKS (R441). -/
def execPortDetect (port_ : PortIx) (s : State) : Out :=
  let n := port_.val
  let x := port s n
  if isFrozen s || pState s n ≠ pDOWN || fget s F.HUB_BOOT_STAT.PHASE < 9 then .next s
  else if 8 ≤ x.attempts then .next (fbOffer (enter s n pFAILED) (srcPort n) 0x0505 n x.attempts 0)
  else if s.tick < x.since + 125000 then .next s
  else .next (enter s n pDETECT)

/-- Signal on a lane that may be used starts training. -/
def execLaneSignal (port_ : PortIx) (lane : LaneIx) (s : State) : Out :=
  let n := port_.val
  if isFrozen s || pState s n ≠ pDETECT || !laneOk s n lane.val then .next s else .next (enter s n pTRAIN)

/-- Training ends with the lanes that locked. -/
def execPhyTrainDone (port_ : PortIx) (locked : BitVec 4) (s : State) : Out :=
  let n := port_.val
  let m := BitVec.ofNat 4 (usable s n locked.toNat)
  if isFrozen s then .next s
  else if pState s n = pTRAIN then .next (modPort (enter s n pINIT) n (fun x => { x with locked := m }))
  else if pState s n = pRETRAIN then .next (modPort s n (fun x => { x with locked := m, trained := true }))
  else .next s

/-- The limit of PHY_TRAIN passes: lanes that have not locked are left out. -/
def execPhyTrainTimeout (port_ : PortIx) (locked : BitVec 4) (s : State) : Out :=
  let n := port_.val
  if isFrozen s || pState s n ≠ pTRAIN || s.tick < (port s n).since + 6250000 then .next s
  else .next (modPort (enter s n pINIT) n (fun x => { x with locked := BitVec.ofNat 4 (usable s n locked.toNat) }))

/-- Width code and lanes in use from the good lanes of both ends and the smaller MAXW (R290); none with no good lane. -/
def widthOf (good maxw : Nat) : Option (Nat × Nat) :=
  if good % 16 = 0 then none
  else if good % 16 = 15 && 2 ≤ maxw then some (2, 15)
  else if natBits good 1 0 = 3 && 1 ≤ maxw then some (1, 3)
  else if natBits good 3 2 = 3 && 1 ≤ maxw then some (1, 12)
  else (List.range 4).findSome? (fun l => if natBit good l then some (0, 2 ^ l) else none)

/-- The agreed version (R292): this station offers 1 to VERMAX. -/
def versionOf (vermax : Nat) (peer : PeerInit) : Option Nat :=
  let v := min (min vermax 2) peer.vmax
  if v < 1 || v < peer.vmin then none else some v

/-- The exchange completes: the port is ACTIVE (R289, R295, R307). -/
def activate (s : State) (n : Nat) (peer : PeerInit) (w lanes v : Nat) : State :=
  let old := pget s F.LNK_PSTAT.WIDTH n
  let x := port s n
  let id := peer.station.toNat * 32 + peer.port.toNat
  let again := pState s n = pRETRAIN
  let s := pput (pput (pput s F.LNK_PSTAT.WIDTH w n) F.LNK_PSTAT.LANES lanes n) F.LNK_PSTAT.VERSION v n
  let s := pput (pput s F.LNK_PEER.PORT peer.port.toNat n) F.LNK_PEER.STATION peer.station.toNat n
  let s := fput s F.TCK_LAT.LAT peer.lat.toNat n
  let s := if x.peer.isSome && x.peer ≠ some id then pset s F.LNK_PEVT.PEER_CHANGED n else s
  let s := if again then setPort s n { x with attempts := 0, peer := some id, trained := false }
           else setPort s n { Port.reset with locked := x.locked, peer := some id }
  let s := enter s n pACTIVE
  if again then fbOffer s (srcPort n) 0x0503 n (2 ^ old) (2 ^ w)
  else fbOffer s (srcPort n) 0x0501 n peer.station.toNat (2 ^ w + 16 * v)

/-- INIT flits have been exchanged (R290, R292); no port leaves INIT while ASSIGNED is 0 (R302). How a version range is coded in
LINK_VER_FAIL is not stated: free values. -/
def execInitFlit (port_ : PortIx) (peer : PeerInit) (s : State) : Out :=
  let n := port_.val
  let st := pState s n
  let x := port s n
  if isFrozen s || !(st = pINIT || (st = pRETRAIN && x.trained)) || !fbit s F.LNK_STATION.ASSIGNED 0 (n / 6) then .next s
  else
    match widthOf (usable s n x.locked.toNat &&& peer.good.toNat) (min (psget s F.LNK_PCFG.MAXW n) peer.maxw.toNat) with
    | none => .next (leavePort s n pDOWN 3)
    | some (w, lanes) =>
      match versionOf (psget s F.LNK_PCFG.VERMAX n) peer with
      | some v => .next (activate s n peer w lanes v)
      | none =>
        let (a, s) := drawFree s
        let (b, s) := drawFree s
        let s := fbOffer (pset s F.LNK_PEVT.VER_FAIL n) (srcPort n) 0x0504 n ((Config.freeWord a).toNat % 256) ((Config.freeWord b).toNat % 256)
        .next (leavePort s n pDOWN 4)

/-- The limit of INIT passes: a failed attempt. With ASSIGNED 0 the port stays in INIT (R302). -/
def execInitTimeout (port_ : PortIx) (s : State) : Out :=
  let n := port_.val
  if isFrozen s || pState s n ≠ pINIT || !fbit s F.LNK_STATION.ASSIGNED 0 (n / 6) || s.tick < (port s n).since + 125000 then .next s
  else .next (modPort (enter s n pDOWN) n (fun x => { x with attempts := x.attempts + 1 }))

/-- A retrain past its limit. -/
def execRetrainTimeout (port_ : PortIx) (s : State) : Out :=
  let n := port_.val
  if isFrozen s || pState s n ≠ pRETRAIN || s.tick < (port s n).since + 6375000 then .next s else .next (leavePort s n pDOWN 2)

/-- Events of a lane in the window, key 0 to 95 link replays, 128 to 223 losses of FEC lock; the location table has each (R266, R267). -/
def noteLane (s : State) (key : Nat) : State :=
  let s := enterDevice s 4 (key % 128 / 4 + 256 * (key % 4))
  let h := (s.integ.laneHist ++ [(key, s.tick)]).filter (fun x => s.tick < x.2 + (if x.1 < 128 then 125000 else 125000000))
  { s with integ := { s.integ with laneHist := h } }

def laneEvents (s : State) (key : Nat) : Nat := (s.integ.laneHist.filter (fun x => x.1 == key)).length

/-- A lane in use loses FEC lock; twice within 1 s is permanent (R267, R291). -/
def execFecLockLoss (port_ : PortIx) (lane : LaneIx) (s : State) : Out :=
  let n := port_.val
  if isFrozen s || pState s n ≠ pACTIVE || !natBit (pget s F.LNK_PSTAT.LANES n) lane.val then .next s
  else
    let key := 128 + 4 * n + lane.val
    let s := noteLane s key
    if 2 ≤ laneEvents s key then .next (laneFault s n lane.val 1) else .next (retrain s n)

/-- RETRAIN: an ACTIVE port trains again, a FAILED one starts again. -/
def retrainWrite (s : State) (n : Nat) : State :=
  if pState s n = pFAILED then modPort (enter s n pDETECT) n (fun x => { x with attempts := 0 }) else retrain s n

/-- ENABLE changes: 0 sends the port to DISABLED, 1 a DISABLED port to DETECT. -/
def enableWrite (s : State) (n : Nat) (on : Bool) : State :=
  let st := pState s n
  let s := pput s F.LNK_PCFG.ENABLE (b2n on) n
  if on then (if st = pDISABLED then modPort (enter s n pDETECT) n (fun x => { x with attempts := 0 }) else s)
  else if st = pACTIVE || st = pRETRAIN then leavePort s n pDISABLED 5
  else if st = pDISABLED then s
  else enter s n pDISABLED

/-- A Meridian WRITE to a register of the link dies (R310). -/
def linkFrom (src : Source) (s : State) : Bool := src = .meridian && !isFrozen s

def execPortRetrain (src : Source) (port_ : PortIx) (s : State) : Out :=
  .next (if linkFrom src s then retrainWrite s port_.val else s)
def execPortDisable (src : Source) (port_ : PortIx) (s : State) : Out :=
  .next (if linkFrom src s then enableWrite s port_.val false else s)
def execPortEnable (src : Source) (port_ : PortIx) (s : State) : Out :=
  .next (if linkFrom src s then enableWrite s port_.val true else s)

/-- A write of LNK_PCFGi: the fields by access code, then ENABLE and RETRAIN (R311). -/
def writePcfg (s : State) (n v : Nat) : State :=
  let on := fbit s F.LNK_PCFG.ENABLE (n % 6) (n / 6)
  let s := writeReg (holdReg s .LNK_PCFG (n % 6) (n / 6)) .LNK_PCFG (n % 6) (n / 6) v
  let s := if natBit v 31 == on then s else enableWrite s n (natBit v 31)
  if natBit v 19 then retrainWrite s n else s

/-- LNK_STATION (R302): ignored while a port is ACTIVE or in RETRAIN; ports in INIT begin their exchange again. The four link dies hold
one number. -/
def writeStation (s : State) (v : Nat) : State :=
  if (List.range 24).any (fun n => pState s n = pACTIVE || pState s n = pRETRAIN) then s
  else
    let s := foldRange 4 (fun s d => writeReg s .LNK_STATION 0 d v) s
    foldRange 24 (fun s n => if pState s n = pINIT then enter s n pINIT else s) s

def execStationAssign (src : Source) (v : BitVec 32) (s : State) : Out :=
  .next (if linkFrom src s then writeStation s v.toNat else s)

/-! ### A flit arrives (R293, R294) -/

/-- NAK: counted, and attributed to the lanes whose decoder flagged a codeword, or to every active lane (R293, R267). -/
def nakFlit (s : State) (n : Nat) (flagged : Nat) : State :=
  let s := psat s F.LNK_REPLAY.COUNT 1 n
  let s := modPort s n (fun x => { x with nakOut := true })
  let lanes := if flagged = 0 then pget s F.LNK_PSTAT.LANES n else flagged
  (List.range 4).foldl (fun s l =>
    if !natBit lanes l then s
    else
      let s := noteLane s (4 * n + l)
      if 16 < laneEvents s (4 * n + l) then laneFault s n l 2 else s) s

/-- ACK drops what it covers from the replay buffer; NAK has the rest sent again (R293). -/
def takeAck (s : State) (n ack : Nat) (nak : Bool) : State :=
  let x := port s n
  let rest := match x.replay.findIdx? (fun r => r.1 == ack) with
    | some i => x.replay.drop (i + 1)
    | none => x.replay
  let s := setPort s n { x with replay := rest }
  if nak then padd (setPort s n { x with replay := rest, txFlits := x.txFlits + rest.length }) F.LNK_TXBYTES.COUNT (256 * rest.length) n else s

/-- Credits come back (R294). -/
def takeCredit (s : State) (n vc k : Nat) : State :=
  if 6 ≤ vc || k = 0 then s
  else modPort s n (fun x => { x with credits := nset x.credits vc (creditOf x vc + k) })

/-- Word classes of the header. -/
def headOkay (p : Packet) : Bool := isGood (classOf (syndromeOf p.h0)) && isGood (classOf (syndromeOf p.h1))

def dropPacket (s : State) (n : Nat) : State := if n < 24 then psat s F.LNK_DROP.COUNT 1 n else s

/-- The last word of a packet has come: a TSYNC goes to this station, one with a bad header is dropped (R296, R297); a packet part way out leaves
the switch, any other waits whole. -/
def packetIn (s : State) (q : Queued) (rest : List Queued) : State :=
  let gone := oweCredit { s with switch := rest } q.port q.vc (unitsOf q.pkt)
  if q.out.isSome then gone
  else if pktType q.pkt = 8 then (if headOkay q.pkt then { gone with arrived := gone.arrived ++ [(q.pkt, q.port)] } else dropPacket gone q.port)
  else { s with switch := rest ++ [{ q with whole := true }] }

/-- The packet of port n that has not ended, and the others. -/
def openPacket (s : State) (n : Nat) : Option (Queued × List Queued) :=
  match s.switch.findIdx? (fun q => q.port == n && !q.whole) with
  | some i => s.switch[i]?.map (fun q => (q, s.switch.eraseIdx i))
  | none => none

/-- A packet after one more word, or its header; abort: it ends here, truncated. -/
def extendPacket (s : State) (q : Queued) (rest : List Queued) (abort : Bool) : State :=
  let whole := bitsOf (deliveredData q.pkt.h0) 24 17 ≤ q.pkt.payload.length
  if whole || abort then packetIn s { q with pkt := { q.pkt with trunc := abort } } rest
  else { s with switch := rest ++ [q] }

/-- One word comes in by a port; abort: the flit ends with it and carries ABORT (R293, R300). Words of a packet part way out go on at once. -/
def wordIn (n : Nat) (s : State) (w : CodeWord) (abort : Bool) : State :=
  match openPacket s n with
  | some (q, rest) =>
    let q' := { q with pkt := { q.pkt with payload := q.pkt.payload ++ [w] } }
    let e := abort || bitsOf (deliveredData q.pkt.h0) 24 17 ≤ q'.pkt.payload.length
    let s := match q.out with
      | some o => pushWords s o [⟨w, e, abort⟩]
      | none => s
    extendPacket s q' rest abort
  | none =>
    match (port s n).partialPkt with
    | h0 :: _ =>
      let d := deliveredData h0
      let s := modPort s n (fun x => { x with partialPkt := [] })
      extendPacket s ⟨⟨h0, w, [], false⟩, n, bitsOf d 27 25, wayOf s n (bitsOf d 63 48), s.tick, false, none⟩ s.switch abort
    | [] => if abort then dropPacket s n else modPort s n (fun x => { x with partialPkt := [w] })

/-- The words of a flit, in order. -/
def wordsIn (n : Nat) (abort : Bool) : State → List CodeWord → State
  | s, [] => s
  | s, [w] => wordIn n s w abort
  | s, w :: ws => wordsIn n abort (wordIn n s w false) ws

/-- A flit is checked; ACK, NAK and credits are taken, and the words of a data flit in sequence go to their packets. -/
def execFlitReceive (port_ : PortIx) (flit : Flit) (s : State) : Out :=
  let n := port_.val
  if isFrozen s || pState s n ≠ pACTIVE then .next s
  else
    let h := flit.hdr
    let s := padd (padd s F.LNK_RXBYTES.COUNT 256 n) F.LNK_FECCOR.COUNT flit.fecCorrected n
    if flit.fecLanes ≠ 0 || flit.crc ≠ flitCrc h flit.words then .next (nakFlit s n flit.fecLanes.toNat)
    else
      let s := takeAck s n (hdrBits h 55 44) (hdrBits h 43 43 = 1)
      let data := hdrBits h 71 68 = 1
      if data && hdrBits h 67 56 ≠ ((port s n).lastIn + 1) % 4096 then .next s
      else
        let s := takeCredit s n (hdrBits h 42 40) (hdrBits h 39 32)
        let s := takeCredit s n (hdrBits h 31 29) (hdrBits h 28 21)
        if !data then .next s
        else
          let s := modPort s n (fun x => { x with lastIn := hdrBits h 67 56, nakOut := false })
          .next (wordsIn n (hdrBits h 20 20 = 1) s flit.words)

/-! ### The switch (R299, R300) -/

/-- No route (R299). -/
def routeMiss (s : State) (dst port : Nat) : State :=
  let s := fsat s F.LNK_ROUTE_MISS.COUNT 1 0 (dieOf port)
  let due : Bool := match nget s.routeMiss dst with
    | some t => t + 125000000 ≤ s.tick
    | none => true
  if due then fbOffer { s with routeMiss := nset s.routeMiss dst s.tick } (srcSwitch (dieOf port)) 0x0506 dst port 0 else s

/-- VC of the next hop (R300). -/
def nextVc (s : State) (cls input out vc : Nat) : Nat :=
  let turn := 24 ≤ input || psget s F.LNK_PCFG.DIM input ≠ psget s F.LNK_PCFG.DIM out
  let level := if psget s F.LNK_PCFG.DATELINE out = 1 then 1 else if turn then 0 else vc % 2
  2 * cls + level

/-- Corrected header words are counted (R254). -/
def countHead (s : State) (p : Packet) : State :=
  let k := b2n (isCorrected (classOf (syndromeOf p.h0))) + b2n (isCorrected (classOf (syndromeOf p.h1)))
  if k = 0 then s else fadd s F.ECC_CECNT.COUNT k

/-- The VC of a packet's next hop by an output. -/
def hopVc (s : State) (q : Queued) (out : Nat) : Nat := nextVc s ((classOfType (pktType q.pkt)).getD (q.vc / 2 % 3)) q.port out q.vc

/-- The queue of the switch that a packet stands in: a port's by the VC it holds, a unit's by its class. -/
def queueOf (q : Queued) : Nat × Nat := (q.port, if q.port < 24 then q.vc else 8 + (classOfType (pktType q.pkt)).getD (q.vc / 2 % 3))

/-- The packets that could go out by a port now: the first of each queue that is not part way out yet (R300). -/
def readyFor (s : State) (out : Nat) : List Queued :=
  (s.switch.filter (fun q => q.out.isNone && (s.switch.find? (fun r => queueOf r == queueOf q)) == some q)).filter (fun q =>
    q.route == some out && headOkay q.pkt && pktType q.pkt ≠ 8 && canSend s out (hopVc s q out) q.pkt)

/-- Whether a packet is the one that the output serves next: control before acknowledgements before data, and in a class the inputs in turn
(R300). -/
def servedNext (s : State) (out : Nat) (q : Queued) : Bool :=
  let cls := fun (x : Queued) => hopVc s x out / 2
  let after := fun (x : Queued) => (x.port + 25 - (ngetD 24 s.turns (3 * out + cls q) + 1)) % 25
  (readyFor s out).all (fun x => cls x < cls q || (cls x = cls q && after q ≤ after x))

/-- A packet leaves its place in the switch: delivered, forwarded, cut through or discarded. None while it has to wait. -/
def routePacket (s : State) (i : Nat) (q : Queued) : Option State :=
  let p := q.pkt
  let gone := fun (s : State) => oweCredit { s with switch := s.switch.eraseIdx i } q.port q.vc (unitsOf p)
  if q.out.isSome then none
  else if !headOkay p then (if q.whole then some (gone (dropPacket s q.port)) else none)
  else match q.route with
    | none => if q.whole then some (gone (routeMiss s (pktDst p) q.port)) else none
    | some out =>
      if out = 24 then
        (if !q.whole then none
        else some (gone (match classOfType (pktType p) with
          | some _ => { countHead s p with arrived := s.arrived ++ [(p, q.port)] }
          | none => dropPacket s q.port)))
      else
        let vc := hopVc s q out
        if !canSend s out vc p || !servedNext s out q then none
        else
          let s := { countHead s p with turns := nset s.turns (3 * out + vc / 2) q.port }
          let s := transmit s out vc p q.whole
          let s := if q.whole then gone s else { s with switch := s.switch.set i { q with out := some out } }
          some (if (readyFor s out).isEmpty && q.whole then flushPort s out else s)

/-- The packet that an input offers on a VC: a port's by the VC it holds, a unit's by its class. -/
def offered (input : SwitchInput) (vc : Nat) (q : Queued) : Bool :=
  match input with
  | .port n => q.port == n.val && q.vc == vc
  | .unit => q.port == 24 && (classOfType (pktType q.pkt)).getD (q.vc / 2) == vc / 2

/-- The oldest packet of an input and VC goes on (R300). -/
def execPacketForward (input : SwitchInput) (vc : VcIx) (s : State) : Out :=
  if isFrozen s then .next s
  else match s.switch.findIdx? (offered input vc.val) with
    | none => .next s
    | some i =>
      match s.switch[i]? with
      | none => .next s
      | some q => .next ((routePacket s i q).getD s)

/-! ### Tick synchronisation (R307) -/

/-- The master, or a locked follower, sends its stamp to every child port; a TSYNC never passes the switch. -/
def execTsyncSend (s : State) : Out :=
  let role := sget s F.TCK_CTL.ROLE
  if isFrozen s || !(role = 1 || (role = 2 && fbit s F.TCK_STAT.LOCKED)) || s.tick < s.tickSent + sget s F.TCK_PERIOD.TICKS then .next s
  else
    let w1 := BitVec.ofNat 64 (tickNow s)
    .next (foldRange 24 (fun s n =>
      let p := mkPacket s (pget s F.LNK_PEER.STATION n) 8 0 w1 []
      if natBit (sget s F.TCK_CTL.CHILD) n && canSend s n 4 p then flushPort (transmit s n 4 p true) n else s) { s with tickSent := s.tick })

/-- err of R307 in 1/64 tick: sub is the part of the tick of arrival that has passed. -/
def tsyncErr (s : State) (stamp lat sub : Nat) : Int := ((stamp * 64 + lat : Nat) : Int) - ((tickNow s * 64 + sub : Nat) : Int)

/-- ERR is signed, 16 bits; what it holds of a larger error is not stated. -/
def putErr (s : State) (err : Int) : State :=
  if -32768 ≤ err && err ≤ 32767 then fput s F.TCK_STAT.ERR (err % 65536).toNat
  else
    let (k, s) := drawFree s
    fput s F.TCK_STAT.ERR ((Config.freeWord k).toNat % 65536)

/-- The slewing, or stepping, of R307. -/
def followTick (s : State) (n stamp sub : Nat) : State :=
  let lat := fget s F.TCK_LAT.LAT n
  let err := tsyncErr s stamp lat sub
  let s := putErr s err
  if !fbit s F.TCK_STAT.LOCKED then
    let s := setReg s .TCK_NOW (BitVec.ofNat 64 ((stamp * 64 + lat + 32) / 64))
    let good := if err.natAbs < 16 then s.tickGood + 1 else 0
    if good = 4 then fput { s with tickGood := 0, tickSlew := 0 } F.TCK_STAT.LOCKED 1 else { s with tickGood := good }
  else if 128 < err.natAbs then
    let s := fput { s with tickGood := 0, tickSlew := 0 } F.TCK_STAT.LOCKED 0
    fbOffer (fsat s F.TCK_UNLOCKS.COUNT 1) (srcPort n) 0x0508 n (fget s F.TCK_STAT.ERR) (tickNow s)
  else { s with tickSlew := err }

/-- A TSYNC of the parent port sets the follower's counter; any other is discarded. -/
def execTsyncReceive (sub : Nat) (s : State) : Out :=
  if isFrozen s then .next s
  else match takeFirst (fun p => pktType p = 8) s.arrived with
    | none => .next s
    | some (p, rest) =>
      let n := ((s.arrived.find? (fun x => pktType x.1 = 8)).map (·.2)).getD 24
      let s := { s with arrived := rest }
      if sget s F.TCK_CTL.ROLE = 2 && sget s F.TCK_CTL.PARENT = n && pState s n = pACTIVE
      then .next (followTick s n (deliveredData p.h1).toNat sub) else .next s

end Sys2Proof.Machine
end

