-- ==== Sys2Proof/Machine/Quantiser.lean ====
section
/-! DEFINITION. The quantiser and its outlier modes (R48 to R56, R101 to R107, R217). The update units encode by the same rules (R106). -/

namespace Sys2Proof.Machine

/-- A place in a tensor. -/
structure Place4 where
  i0 : Nat
  i1 : Nat
  i2 : Nat
  i3 : Nat
  deriving DecidableEq

/-- First place of every block of layout 1, of every sheet of layout 2, or of every 32-element segment of layout 0 (assumption log 36),
dimension 0 first. -/
def blocksAll (t : Tens) : List Place4 :=
  let h := if t.layout = 2 then 32 else 1
  (List.range t.n3).flatMap (fun c => (List.range t.n2).flatMap (fun b => (List.range (t.n1 / h)).flatMap (fun y =>
    (List.range (cdiv t.n0 32)).map (fun x => ⟨32 * x, h * y, b, c⟩))))

/-- The places of one block, sheet or segment, dimension 0 first. -/
def blockPlaces (t : Tens) (p : Place4) : List Place4 :=
  (List.range (if t.layout = 2 then 32 else 1)).flatMap (fun y =>
    (List.range (min 32 (t.n0 - p.i0))).map (fun x => ⟨p.i0 + x, p.i1 + y, p.i2, p.i3⟩))

/-- The larger magnitude; a NaN is passed over. -/
def magMax (a v : Num) : Num := if numLt a (numAbs v) then numAbs v else a

/-- R102: element i of a 32-element segment qualifies at threshold exponent t. -/
def qualifies (seg : List Num) (i t : Nat) : Bool :=
  let v := nth seg i numZero
  let m := ((List.range 32).filter (· ≠ i)).foldl (fun a k => magMax a (nth seg k numZero)) numZero
  numIsFinite v && !numIsZero v && !numIsZero m && !numLt (numAbs v) (numScale m t)

/-- Places of one block that qualify: by R102 within their segment, or as the crush candidate of the encoding given (R55). -/
def blockQualified (ps : List Place4) (vs : List Num) (t : Nat) (crush : Option Nat) : List Place4 :=
  (ps.zip (List.range ps.length)).filterMap (fun x =>
    let seg := (vs.drop (x.2 / 32 * 32)).take 32
    if qualifies seg (x.2 % 32) t || crush = some x.2 then some x.1 else none)

/-- A candidate channel of a slice: score, largest magnitude over all rows, offset (R103). -/
structure Cand where
  score : Nat
  mag : Num
  ch : Nat

/-- The order of R103. -/
def candBefore (a b : Cand) : Bool :=
  b.score < a.score || (a.score = b.score && (numLt b.mag a.mag || (!numLt a.mag b.mag && a.ch < b.ch)))

def insertCand (x : Cand) : List Cand → List Cand
  | [] => [x]
  | y :: ys => if candBefore x y then x :: y :: ys else y :: insertCand x ys

/-- Put a number into a rising list. -/
def insertNat (x : Nat) : List Nat → List Nat
  | [] => [x]
  | y :: ys => if x ≤ y then x :: y :: ys else y :: insertNat x ys

/-- Nominated channels of a slice in rising order, and the excess (R103). -/
def nominate (cs : List Cand) : List Nat × Nat :=
  let l := cs.foldl (fun l c => insertCand c l) []
  ((l.take 8).foldl (fun r c => insertNat c.ch r) [], l.length - 8)

/-- What the values and the layout give before anything is removed: the trial encoding's CRUSH count and the places that qualify. -/
def trialOf (t : Tens) (inf : Bool) (te : Nat) (gone : Nat → Bool) (val : Place4 → Num) : Nat × List Place4 :=
  (blocksAll t).foldl (fun a b =>
    let ps := blockPlaces t b
    let vs := ps.map val
    let cr := if t.layout = 0 then none else (encodeBlock t.fmt inf (ps.map (fun p => if gone p.i0 then numZero else val p))).crush
    (a.1 + b2n cr.isSome, a.2 ++ blockQualified ps vs te cr)) (0, [])

/-- Largest magnitude of a channel over all rows. -/
def channelMag (t : Tens) (val : Place4 → Num) (i0 : Nat) : Num :=
  (List.range t.n3).foldl (fun a c => (List.range t.n2).foldl (fun a b => (List.range t.n1).foldl (fun a y =>
    magMax a (val ⟨i0, y, b, c⟩)) a) a) numZero

/-- The channels among qualifying places, each once, with their scores (rows in which they qualify). -/
def candidates (t : Tens) (val : Place4 → Num) (q : List Place4) (j : Nat) : List Cand :=
  (List.range 128).filterMap (fun ch =>
    let n := (q.filter (fun p => p.i0 = 128 * j + ch)).length
    if n = 0 then none else some ⟨n, channelMag t val (128 * j + ch), ch⟩)

/-- The map that OM = 1 nominates, slice by slice, and the excess over all slices. -/
def nominateAll (t : Tens) (val : Place4 → Num) (q : List Place4) : List (List Nat) × Nat :=
  let l := (List.range (mapSlices t)).map (fun j => nominate (candidates t val q j))
  (l.map (·.1), (l.map (·.2)).sum)

/-- Channels outside a fixed map that qualify, each once (R104, R107). -/
def fixedSpill (t : Tens) (mp : List (List Nat)) (q : List Place4) : Nat :=
  ((List.range t.n0).filter (fun i0 => (listedAt mp i0).isNone && q.any (fun p => p.i0 = i0))).length

/-- Write the index table (R48). -/
def writeMap (t : Tens) (mp : List (List Nat)) (s : State) : State :=
  (mp.zip (List.range mp.length)).foldl (fun s x =>
    wrBytes s (t.omap + 16 * x.2) (((x.1.length :: x.1) ++ List.replicate (15 - x.1.length) 0).map (fun n => BitVec.ofNat 8 n))) s

/-- A side value as the map holds it: the value, under layout 0 in units of the scale (R49). -/
def sideUnits (t : Tens) (v : Num) : Num := if t.layout = 0 then numDiv v (f32Of t.scaleBits) else v

/-- Write the side values of every row and slice: value m at its place, +0 above COUNT (R48, R103). -/
def writeSide (t : Tens) (mp : List (List Nat)) (val : Place4 → Num) (s : State) : State :=
  (List.range t.n3).foldl (fun s c => (List.range t.n2).foldl (fun s b => (List.range t.n1).foldl (fun s y =>
    (mp.zip (List.range mp.length)).foldl (fun s x =>
      (List.range 8).foldl (fun s m =>
        let code := match x.1[m]? with
          | some ch => floatCode .bf16 (toWide .bf16 (sideUnits t (val ⟨128 * x.2 + ch, y, b, c⟩)))
          | none => 0
        wrNat s (sideAddr t x.2 m y b c) 2 code) s) s) s) s) s

/-- Side values that are not finite: one NONFINITE each (R103). -/
def sideNonfinite (t : Tens) (mp : List (List Nat)) (val : Place4 → Num) : Nat :=
  (List.range t.n3).foldl (fun n c => (List.range t.n2).foldl (fun n b => (List.range t.n1).foldl (fun n y =>
    (mp.zip (List.range mp.length)).foldl (fun n x => x.1.foldl (fun n ch =>
      n + b2n (!numIsFinite (toWide .bf16 (sideUnits t (val ⟨128 * x.2 + ch, y, b, c⟩))))) n) n) n) n) 0

/-- Words of side values to poison. -/
def sideBad (t : Tens) (mp : List (List Nat)) (bad : Place4 → Bool) : List Nat :=
  (List.range t.n3).flatMap (fun c => (List.range t.n2).flatMap (fun b => (List.range t.n1).flatMap (fun y =>
    (mp.zip (List.range mp.length)).flatMap (fun x => (x.1.zip (List.range x.1.length)).filterMap (fun z =>
      if bad ⟨128 * x.2 + z.1, y, b, c⟩ then some (sideAddr t x.2 z.2 y b c) else none)))))

/-- Counts of one encoding under outlier modes. -/
structure QzCounts where
  nf : Nat
  spill : Nat
  crush : Nat
  slices : Nat
  blocks : Nat
  amax : Num

/-- Encode a tensor from its values under mode om with threshold exponent te (R101 to R104, R107): the state and what it counts. -/
def quantise (t : Tens) (om te : Nat) (wrap inf : Bool) (val : Place4 → Num) (bad : Place4 → Bool) (s : State) : State × QzCounts :=
  let fixed := loadMap s t
  let trial := if om = 1 then trialOf t inf te (fun _ => false) val
               else if om = 2 then trialOf t inf te (fun i0 => (listedAt fixed i0).isSome) val else (0, [])
  let (mp, excess) := if om = 1 then nominateAll t val trial.2
                      else if om = 2 then (fixed, fixedSpill t fixed trial.2) else ([], 0)
  let gone := fun i0 => (listedAt mp i0).isSome
  let s := if om = 1 then writeMap t mp s else s
  let s := if om = 0 then s else writeSide t mp val s
  let e := storeAll t wrap inf (fun a b c d => if gone a then (numZero, false) else (val ⟨a, b, c, d⟩, bad ⟨a, b, c, d⟩)) (encStart s)
  let s := (sideBad t mp bad).foldl poisonAt (finishEnc e)
  let am := (List.range t.n0).foldl (fun a i0 => if gone i0 then (List.range t.n3).foldl (fun a d => (List.range t.n2).foldl (fun a c =>
    (List.range t.n1).foldl (fun a b => amaxOf a (val ⟨i0, b, c, d⟩)) a) a) a else a) e.amax
  (s, { nf := e.nf + sideNonfinite t mp val, spill := excess, crush := if om = 0 then e.cr else trial.1,
        slices := if om = 0 then 0 else mapSlices t, blocks := e.bl, amax := am })

/-- A quantiser operation encodes its source (R101 to R107). -/
def runQuantiser (s : State) (c : Nat) (r : OpRec) : State :=
  match opTens c r 0, opTens c r 1 with
  | some d, some x =>
    let (s, bad) := checkRanges (sourceOf c r) s (wholeRanges x)
    let s := faultFor s c (sourceOf c r) bad
    let s0 := s
    let mp := loadMap s0 x
    let el := fun (p : Place4) => readElem s0 x mp false (bitOf r.f 30) p.i0 p.i1 p.i2 p.i3
    let te := bitsOf (nth r.words 0 0) 2 0
    let q := quantise d (bitsOf r.f 39 38) te (bitOf r.f 31) (bitOf r.f 30) (fun p => (el p).v) (fun p => (el p).bad) s
    let s := opEvent q.1 c r.layer 0 q.2.nf
    let s := opEvent s c r.layer 1 q.2.spill
    let s := opEvent s c r.layer 2 q.2.crush
    let s := opCount s c r.layer 24 q.2.slices
    let s := opCount s c r.layer 28 q.2.blocks
    opAmax s c r.layer r.st q.2.amax
  | _, _ => s

/-- A quantiser operation finishes writing its output and raises its token (R105). -/
def execQuantiserComplete (cl : ClusterIx) (s : State) : Out := .next (completeOn s cl 8 runQuantiser)

end Sys2Proof.Machine
end

