-- ==== Sys2Proof/Machine/Update.lean ====
section
/-! DEFINITION. The update units: update descriptors, MODE 0 and emit (R243 to R247). -/

namespace Sys2Proof.Machine

/-- Layer of a descriptor (R244). -/
def updLayer (s : State) (d : Nat) : Nat := rdNat s d 2 % 2048
def updOpt (s : State) (d : Nat) : Nat := rdNat s (d + 2) 1
def updMode (s : State) (d : Nat) : Nat := rdNat s (d + 3) 1
/-- Buffer of a parity: masters at 8, first moments at 24, second moments at 40 (R244). -/
def updBuf (s : State) (d off parity : Nat) : Nat := rdNat s (d + off + 8 * parity) 8
def updParam (s : State) (d k : Nat) : Num := f32Of (BitVec.ofNat 32 (rdNat s (rdNat s (d + 72) 8 + 4 * k) 4))

/-- The buffers that an OPT uses, as offsets in the descriptor. -/
def updUsed (opt : Nat) : List Nat := if opt = 0 then [8, 24, 40] else if opt = 1 then [8, 24] else [8]

/-- The descriptor of one copy of a pair breaks R169: version and reserved bits, lengths, format and layout as the units write them, multiples,
alignment, strides, map address, a tag, the windows (FMT, LAYOUT and SCALE of the pair are ignored, R244). -/
def copyInvalid (s : State) (p d n parity : Nat) (fwd : Bool) : Bool :=
  let raw := BitVec.ofNat 512 (rdNat s (rdNat s (d + (if fwd then 56 else 64)) 8 % 2 ^ 48 + 64 * parity) 64)
  let t := copyTens s p d parity fwd
  let pos : Position := { dest := true, fmts := [], layouts := [] }
  countOf t ≠ n || t.tag ≠ 0 || !descVersionOk raw || !descDimsOk t || !layoutAllowed t.fmt t.layout || !descMultipleOk pos t ||
  !descAlignOk t || !descStridesOk pos t || !descMapOk pos raw || (operandBreach s p t true).isSome

/-- A descriptor of a shard of n elements is invalid: a reserved field or value, an address outside the partition's window, or a copy that
breaks R169 or does not have the shard's elements (R169, R244; assumption log 38). -/
def updInvalid (s : State) (p d n : Nat) : Bool :=
  let inWin := fun a b => within a b (winLo s p) (winHi s p)
  let opt := updOpt s d
  d % 128 ≠ 0 || !inWin d 128 || 2048 ≤ rdNat s d 2 || 2 < opt || 1 < updMode s d || !zeroBytes s (d + 4) 4 || !zeroBytes s (d + 80) 48 ||
  !(updUsed opt).all (fun o => inWin (updBuf s d o 0) (4 * n) && inWin (updBuf s d o 1) (4 * n)) ||
  !inWin (rdNat s (d + 72) 8) 32 || !inWin (rdNat s (d + 56) 8) 128 || !inWin (rdNat s (d + 64) 8) 128 ||
  [0, 1].any (fun q => copyInvalid s p d n q true || copyInvalid s p d n q false)

/-- UPD_REJECT (R244, R276). -/
def logReject (s : State) (d : Nat) : State := fbOffer s (srcCore 1) 0x0306 (updLayer s d) d 0

/-- What one element of MODE 0 becomes: master, first moment, second moment (R245). -/
def updElem (s : State) (d e i : Nat) (g : Num) : Num × Num × Num :=
  let one : Num := .fin false 1 0
  let rd := fun off => f32Of (BitVec.ofNat 32 (rdNat s (updBuf s d off (e % 2) + 4 * i) 4))
  let lr := updParam s d 0
  let b1 := updParam s d 1
  let b2 := updParam s d 2
  let eps := updParam s d 3
  let wd := updParam s d 4
  let bc1 := updParam s d 5
  let bc2 := updParam s d 6
  let w := rd 8
  let step := fun u => f32Sub w (f32Mul lr (f32Add u (f32Mul wd w)))
  match updOpt s d with
  | 0 =>
    let m1 := f32Add (f32Mul b1 (rd 24)) (f32Mul (f32Sub one b1) g)
    let m2 := f32Add (f32Mul b2 (rd 40)) (f32Mul (f32Sub one b2) (f32Mul g g))
    let u := f32Div (f32Mul m1 bc1) (f32Add (f32Sqrt (f32Mul m2 bc2)) eps)
    (step u, m1, m2)
  | 1 =>
    let m1 := f32Add (f32Mul b1 (rd 24)) g
    (step m1, m1, numZero)
  | _ => (step g, numZero, numZero)

/-- Write an FP32 element, poisoned when a bad word took part. -/
def putF32 (s : State) (a : Nat) (v : Num) (bad : Bool) : State :=
  let s := wrNat s a 4 (f32Bits v).toNat
  if bad then poisonAt s a else s

/-- The element number of a place of a dense tensor of a copy's shape. -/
def flatIndex (t : Tens) (p : Place4) : Nat := p.i0 + t.n0 * (p.i1 + t.n1 * (p.i2 + t.n2 * p.i3))

/-- Encode one copy from the master buffer at m (R52, R106, R117), counting in role W (R109, R112). A copy made between runs counts in the table that
the last run closed, until the next run start clears it (DESIGN CHOICE, assumption log 73). -/
def encodeCopy (s : State) (p d m parity : Nat) (fwd : Bool) : State :=
  let t := copyTens s p d parity fwd
  let layer := updLayer s d
  let s0 := s
  let val := fun q => f32Of (BitVec.ofNat 32 (rdNat s0 (m + 4 * flatIndex t q) 4))
  let bad := fun q => badIn s0 (m + 4 * flatIndex t q) (m + 4 * flatIndex t q + 4)
  let q := quantise t (if t.hasMap then 1 else 0) (sclOT s p layer) false false val bad s
  let s := troubleEvent q.1 p layer 0 q.2.nf
  let s := troubleEvent s p layer 1 q.2.spill
  let s := troubleEvent s p layer 2 q.2.crush
  let s := troubleAdd s p layer 24 q.2.slices
  let s := troubleAdd s p layer 28 q.2.blocks
  troubleAmax s p layer 0 q.2.amax

/-- Both copies of a parity. -/
def encodeCopies (s : State) (p d m parity : Nat) : State := encodeCopy (encodeCopy s p d m parity true) p d m parity false

/-- The update units read ranges; the first bad word faults the step (R264, R265). -/
def updRead (s : State) (p : Nat) (rs : List (Nat × Nat)) : State :=
  let src := srcEdge (edgeOf s ((rs.headD (0, 0)).1)) 3
  match checkRanges src s rs with
  | (s, some b) => stepFault s p src b.1 b.2
  | (s, none) => s

/-- What a unit reads of an update descriptor: itself, and the two pairs of tensor descriptors that it names in the partition's window (R244). -/
def updDescs (s : State) (p d : Nat) : List (Nat × Nat) :=
  (d, d + 128) :: (([56, 64].map (fun o => rdNat s (d + o) 8)).filter (fun a => within a 128 (winLo s p) (winHi s p))).map (fun a => (a, a + 128))

/-- What MODE 0 reads for n elements: masters, moments and parameters of epoch e (R245). -/
def updRanges (s : State) (d e n : Nat) : List (Nat × Nat) :=
  (updUsed (updOpt s d)).map (fun o => (updBuf s d o (e % 2), updBuf s d o (e % 2) + 4 * n)) ++ [(rdNat s (d + 72) 8, rdNat s (d + 72) 8 + 28)]

/-- Emit: the copies of buffer E mod 2 from the master of buffer E mod 2 (R246). -/
def runEmit (s : State) (p d n : Nat) : State :=
  let e := fget s F.CRN_EPOCH.EPOCH p % 2
  let m := updBuf s d 8 e
  encodeCopies (updRead s p [(m, m + 4 * n)]) p d m e

/-- MODE 0: masters, moments and copies of the shadow from the shard's gradients (R243, R245). grad: value and badness of element i. -/
def runUpdate (s : State) (p d n : Nat) (grad : Nat → Num × Bool) : State :=
  let e := fget s F.CRN_EPOCH.EPOCH p
  let s0 := updRead s p (updRanges s d e n)
  let used := updUsed (updOpt s0 d)
  let prm := rdNat s0 (d + 72) 8
  let pbad := badIn s0 prm (prm + 28)
  let at_ := fun o q i => updBuf s0 d o (q % 2) + 4 * i
  let (s, nf) := foldRange n (fun (x : State × Nat) i =>
    let g := grad i
    let bad := pbad || g.2 || used.any (fun o => badIn s0 (at_ o e i) (at_ o e i + 4))
    let v := updElem s0 d e i g.1
    let s := putF32 x.1 (at_ 8 (e + 1) i) v.1 bad
    let s := if used.contains 24 then putF32 s (at_ 24 (e + 1) i) v.2.1 bad else s
    let s := if used.contains 40 then putF32 s (at_ 40 (e + 1) i) v.2.2 bad else s
    (s, x.2 + b2n (!numIsFinite v.1 || !numIsFinite v.2.1 || !numIsFinite v.2.2))) (s0, 0)
  let s := troubleEvent s p (updLayer s d) 0 nf
  encodeCopies s p d (updBuf s d 8 ((e + 1) % 2)) ((e + 1) % 2)

/-- Element i of the FP32 shard that a bucket kept (R318). -/
def shardValue (e : BucketEntry) (x : Bucket) (i : Nat) : Num × Bool :=
  let b := shardLo e e.pos + i / 256
  (f32Of (nth (ngetD [] x.sums b) (i % 256) 0), x.badElems.contains (256 * b + i % 256))

/-- An update descriptor completes (R244). -/
def execUpdateComplete (p : PartIx) (s : State) : Out :=
  match (part s p).updates with
  | [] => .next s
  | (tag, d) :: rest =>
    if isFrozen s || isStopped s then .next s
    else
      let s := updRead (modPart s p (fun x => { x with updates := rest })) p (updDescs s p d)
      match bucketEntry s p tag, nget (part s p).buckets tag with
      | some e, some x =>
        let n := 256 * shardLen e e.pos
        .next (if updMode s d = 1 then runEmit s p d n else runUpdate s p d n (shardValue e x))
      | _, _ => .next s

/-- UPD_REJECT of an emit: the step that the boundary starts is faulted (R244). -/
def rejectEmit (s : State) (p d : Nat) : State := modPart (logReject s d) p (fun x => { x with badEmit := true })

/-- The update units re-encode the copies of one owned shard of a changed layer (R246); an invalid descriptor is rejected. -/
def execEmit (p : PartIx) (s : State) : Out :=
  match (part s p).emits with
  | [] => .next s
  | (tag, d) :: rest =>
    if isFrozen s || isStopped s then .next s
    else
      let s := updRead (modPart s p (fun x => { x with emits := rest })) p (updDescs s p d)
      match bucketEntry s p tag with
      | some e =>
        let n := 256 * shardLen e e.pos
        .next (if updInvalid s p d n then rejectEmit s p d else runEmit s p d n)
      | none => .next s

end Sys2Proof.Machine
end

