-- ==== Sys2Proof/Machine/Reduce.lean ====
section
/-! DEFINITION. Gradient reduction: buckets, their runs and closure (R223, R317 to R335, R339). -/

namespace Sys2Proof.Machine

/-! ### A bucket in flight -/

def bucket (s : State) (p tag : Nat) : Option Bucket := nget (part s p).buckets tag
def setBucket (s : State) (p tag : Nat) (x : Bucket) : State := modPart s p (fun y => { y with buckets := nset y.buckets tag x })

/-- In flight: entered and not yet closed or faulted (R337). -/
def bucketLive (x : Bucket) : Bool := x.phase ≠ .closed && x.phase ≠ .faulted

/-- A bucket leaves the counts of buckets in flight (R337, R338). -/
def leaveCounts (s : State) (p tag : Nat) : State :=
  fsub (fsub s F.HUB_RED_STAT.INFLIGHT 1 p) F.LNK_RED_STAT.ACTIVE 1 0 (redDie tag)

/-- Half of the scale table that a parity names: address of its VALID byte (R320). -/
def scaleHalfAt (e : BucketEntry) (parity : Nat) : Nat := e.stable + parity % 2 * scaleHalf (blocksOf e)

/-- The station after this one, and the one before it, in the ring. -/
def ringNext (s : State) (e : BucketEntry) : Nat := ringAt s e (e.pos + 1)
def ringPrev (s : State) (e : BucketEntry) : Nat := ringAt s e (e.pos + e.p - 1)

/-! ### Contributions and wire values -/

/-- m of one value: floor(log2 |v|) + 127 for a finite non-zero value, not below 0; else 0 (R322; assumption log 39). -/
def mOf (v : Num) : Nat :=
  match v with
  | .fin _ m e => if m = 0 then 0 else (magLog2 m e + 127).toNat
  | _ => 0

/-- Element i of the contribution, flattened with dimension 0 fastest (R316, R317). -/
def contribution (s : State) (t : Tens) (i : Nat) : Elem :=
  readElem s t (loadMap s t) false false (i % t.n0) (i / t.n0 % t.n1) (i / (t.n0 * t.n1) % t.n2) (i / (t.n0 * t.n1 * t.n2))

/-- The words that wire block b of a contribution is read from. -/
def contribWords (s : State) (t : Tens) (b : Nat) : List (Nat × Nat) :=
  let mp := loadMap s t
  let as_ := (List.range 256).flatMap (fun k =>
    let i := 256 * b + k
    let i0 := i % t.n0
    let i1 := i / t.n0 % t.n1
    let i2 := i / (t.n0 * t.n1) % t.n2
    let i3 := i / (t.n0 * t.n1 * t.n2)
    match listedAt mp i0 with
    | some m => [wordAddr (sideAddr t (i0 / 128) m i1 i2 i3)]
    | none => wordAddr (elemAddr t i0 i1 i2 i3) :: (if t.layout = 0 then [] else [wordAddr (scaleAddr t i0 i1 i2 i3)]))
  as_.dedup.map (fun a => (a, a + 8))

/-- The reduction unit reads ranges; a bad word faults the step (R264, R265, R334). -/
def redRead (s : State) (p tag : Nat) (rs : List (Nat × Nat)) : State :=
  match checkRanges (srcRed tag) s rs with
  | (s, some b) => stepFault s p (srcRed tag) b.1 b.2
  | (s, none) => s

/-- m[b] of the contribution alone (R323). -/
def contribMax (s : State) (t : Tens) (b : Nat) : Nat :=
  (List.range 256).foldl (fun m k => max m (mOf (contribution s t (256 * b + k)).v)) 0

/-- ⌈log2 P⌉. -/
def ceilLog2 (p : Nat) : Nat := if p ≤ 1 then 0 else Nat.log2 (p - 1) + 1

/-- The agreed byte of R323. -/
def agreedByte (m p : Nat) : Nat := if m = 0 then 0x7F else min (m + ceilLog2 p - 6) 0xFE

/-- The scale exponent of a working byte (R320). -/
def wireExp (b : Nat) : Int := (b : Int) - 127

/-- decode of R318. -/
def wireDecode (w16 : Bool) (code : Nat) (x : Int) : Num :=
  if w16 then bf16Of code else numScale (floatValue .e4m3 code) x

/-- One encoded value: code, whether a finite value became non-finite, the shortfall of a miss (R321). -/
structure WireOut where
  code : Nat
  made : Bool
  short : Nat

/-- encode of R321. -/
def wireEncode (w16 : Bool) (v : Num) (x : Int) : WireOut :=
  if w16 then
    let r := toWide .bf16 v
    ⟨floatCode .bf16 r, numIsFinite v && !numIsFinite r, 0⟩
  else match v with
    | .fin n m e =>
      let t := Num.fin false m (e - x)
      if numLt (.fin false 464 0) t then ⟨if n then 0xFE else 0x7E, false, (magLog2 m e - (x + 8) + 1).toNat⟩
      else ⟨floatCode .e4m3 (roundTo 4 (-9) (.fin n m (e - x))), false, 0⟩
    | _ => ⟨0x7F, false, 0⟩

/-! ### Incoming and outgoing streams -/

/-- Key of word w of shard j's stream. -/
def wordKey (j w : Nat) : Nat := j * 2 ^ 28 + w

/-- Words of one wire block. -/
def blockWords (w16 : Bool) : Nat := if w16 then 64 else 32

/-- This station is the first of the order of shard j (R318). -/
def firstOf (e : BucketEntry) (j : Nat) : Bool := e.pos = (j + 1) % e.p

/-- Every word of block b of the incoming stream is there. -/
def blockArrived (e : BucketEntry) (x : Bucket) (b : Nat) : Bool :=
  let j := shardOf e b
  let n := blockWords x.in16
  (List.range n).all (fun k => (nget x.incoming (wordKey j ((b - shardLo e j) * n + k))).isSome)

/-- Block b of the incoming stream can be taken: its words are there, or the trailer has come while a packet that this station refused has not
come again, which may have left the window of its sender: its bytes leave their places unfilled (R326, R327; assumption log 81). -/
def blockReady (s : State) (e : BucketEntry) (x : Bucket) (b : Nat) : Bool :=
  blockArrived e x b || (x.hop.isSome && s.nakSeen.any (fun k => k.1 == ringPrev s e))

/-- Word k of block b of the incoming stream. -/
def incomingWord (e : BucketEntry) (x : Bucket) (b k : Nat) : CodeWord :=
  let j := shardOf e b
  ngetD (codeWord 0) x.incoming (wordKey j ((b - shardLo e j) * blockWords x.in16 + k))

/-- The code of element i of block b of the incoming stream, and whether its word came poisoned. -/
def incomingCode (e : BucketEntry) (x : Bucket) (b i : Nat) : Nat × Bool :=
  let per := if x.in16 then 4 else 8
  let sz := 64 / per
  let w := incomingWord e x b (i / per)
  (bitsOf (deliveredData w) (sz * (i % per) + sz - 1) (sz * (i % per)), !isGood (classOf (syndromeOf w)))

/-- The blocks of a hop stream from position q, in logical order (R326). -/
def hopBlocks (e : BucketEntry) (q : Nat) : List Nat :=
  (List.range (e.p - 1)).flatMap (fun k =>
    let j := (q + 2 * e.p - 1 - k) % e.p
    (List.range (shardLen e j)).map (fun i => shardLo e j + i))

/-- The bytes that this station sent, in logical order. -/
def sentBytes (e : BucketEntry) (x : Bucket) : List Byte := (hopBlocks e e.pos).flatMap (fun b => ngetD [] x.outgoing b)

/-- The bytes that it received, in logical order; none while one is missing (R326). -/
def recvBytes (e : BucketEntry) (x : Bucket) : Option (List Byte) :=
  let bs := hopBlocks e (e.pos + e.p - 1)
  if bs.all (blockArrived e x) then
    some (bs.flatMap (fun b => (List.range (blockWords x.in16)).flatMap (fun k =>
      leBytes 8 (deliveredData (incomingWord e x b k)).toNat)))
  else none

/-- SENT and RECV (R326). -/
def sentDigest (e : BucketEntry) (x : Bucket) : Nat := crc64 (sentBytes e x)
def recvDigest (e : BucketEntry) (x : Bucket) : Option Nat := (recvBytes e x).map crc64

/-- Every block that this station sends has been sent. -/
def allSent (e : BucketEntry) (x : Bucket) : Bool := (hopBlocks e e.pos).all (fun b => (nget x.outgoing b).isSome)

/-- Every block of the owned shard is kept. -/
def allKept (e : BucketEntry) (x : Bucket) : Bool :=
  (List.range (shardLen e e.pos)).all (fun i => (nget x.sums (shardLo e e.pos + i)).isSome)

/-- The HOP trailer follows the last byte of the hop stream (R325, R328). -/
def sendTrailer (s : State) (p tag : Nat) (e : BucketEntry) : State :=
  match bucket s p tag with
  | some x =>
    if e.p = 1 || x.phase ≠ .scatter || !allSent e x then s
    else
      let bs := sentBytes e x
      sendRedPacket s (ringNext s e) 5 (rtrlWord1 tag 0 x.run e.pos 0) (trailerWords (crc64 bs) bs.length)
  | none => s

/-! ### Entering a bucket -/

/-- The scatter phase begins; a station that sends no block has sent its whole hop stream. -/
def beginScatter (s : State) (p tag : Nat) (e : BucketEntry) : State :=
  match bucket s p tag with
  | some x =>
    let s := setBucket s p tag { x with phase := .scatter }
    if (hopBlocks e e.pos).isEmpty then sendTrailer s p tag e else s
  | none => s

/-- The station's contribution enters its bucket (R223, R317, R320, R323). -/
def startBucket (s : State) (p c : Nat) (r : OpRec) : State :=
  let tag := bitsOf r.f 45 34
  match bucketEntry s p tag with
  | none => s
  | some e =>
    let n := blocksOf e
    let half := scaleHalfAt e (fget s F.CRN_EPOCH.EPOCH p)
    let s := redRead s p tag [(half, half + scaleHalf n)]
    let valid := rdNat s half 1 = 1
    let work := if valid then (List.range n).map (fun b => (b, rdNat s (half + 64 + b) 1)) else []
    let desc := r.descs.headD 0
    let x : Bucket :=
      { run := 0, bf16 := r.op = .rsendBf16, digUsed := false, scaleRuns := 0, phase := .pre, since := s.tick, send := desc,
        sendCl := c, sendOp := r.id, working := work, agreed := [], incoming := [], in16 := false, outgoing := [], sums := [],
        badElems := [], mmax := [], nf := 0, miss := false, short := 0, hop := none, digestBad := false, downMax := [],
        status := none }
    let s := setBucket s p tag x
    let s := fput s F.HUB_RED_STAT.INFLIGHT (fget s F.HUB_RED_STAT.INFLIGHT p + 1) p
    let s := fput s F.LNK_RED_STAT.ACTIVE (fget s F.LNK_RED_STAT.ACTIVE 0 (redDie tag) + 1) 0 (redDie tag)
    if valid then beginScatter s p tag e
    else
      let t := tensOf c desc
      let s := if e.p = 1 || e.pos = 0 then redRead s p tag ((List.range n).flatMap (contribWords s t)) else s
      let ms := (List.range n).map (contribMax s t)
      if e.p = 1 then
        let l := (ms.zip (List.range n)).map (fun y => (y.2, agreedByte y.1 1))
        beginScatter (setBucket s p tag { x with working := l, agreed := l }) p tag e
      else if e.pos = 0 then sendTable s (ringNext s e) tag 5 0 e.pos 0 ms
      else s

/-- Checks before an element is read, then entry (R49, R152, R317). -/
def enterBucket (s : State) (p c : Nat) (r : OpRec) : State :=
  match ((srcsOf c r).filter (fun t => t.tag ≠ 0)).find? (fun t => !tagLive s c t.tag) with
  | some t => tagTrap s c r t.tag
  | none => match mapFault s c r with
    | some a => deferTrap s c r 0x03 a
    | none => startBucket s p c r

/-- An rrecv whose bucket has closed writes the owned shard, encoded for TD under layout 0 (R52), and completes (R223, R317, R331). -/
def serveRrecv (s : State) (p c : Nat) (r : OpRec) : State :=
  let tag := bitsOf r.f 45 34
  match bucketEntry s p tag, bucket s p tag with
  | some e, some x =>
    match opTens c r 0 with
    | none => releaseAndFinish s c r
    | some t =>
      if shardLen e e.pos = 0 then releaseAndFinish s c r
      else match placePuts s c r [t] with
        | (s, false) => s
        | (s, true) =>
          let s := foldRange (256 * shardLen e e.pos) (fun s i =>
            let v := shardValue e x i
            let a := elemAddr t (i % t.n0) (i / t.n0 % t.n1) (i / (t.n0 * t.n1) % t.n2) (i / (t.n0 * t.n1 * t.n2))
            let s := wrNat s a 4 (encodeScalar t.fmt (f32Of t.scaleBits) false false v.1).code
            if v.2 then poisonAt s a else s) s
          releaseAndFinish s c r
  | _, _ => s

/-- What follows the issue of a bucket operation: an rsend enters, an rrecv of a closed bucket completes. -/
def bucketIssued (s : State) (c : Nat) : State :=
  match (clu s c).inflight.getLast?, partOf s c with
  | some r, some p => match r.op with
    | .rsendB8 | .rsendBf16 => enterBucket s p c r
    | .rrecv => if (bucket s p (bitsOf r.f 45 34)).any (fun x => x.phase = .closed) then serveRrecv s p c r else s
    | _ => s
  | _, _ => s

/-- Issue of a tensor operation with what follows at once. -/
def issueBody (op : TOp) (i : Issue) (s : State) : State :=
  let t := tensorBody op i s
  if (clu t i.cl).nextId = (clu s i.cl).nextId then t else bucketIssued t i.cl

def execRsendB8 (i : Issue) (s : State) : Out := issue 0xD0 (zeroBits i 33 8) (issueBody .rsendB8 i) i s
def execRsendBf16 (i : Issue) (s : State) : Out := issue 0xD1 (zeroBits i 33 8) (issueBody .rsendBf16 i) i s
def execRrecv (i : Issue) (s : State) : Out := issue 0xD2 (zeroBits i 33 8) (issueBody .rrecv i) i s

/-- A stream stalled at the limits of R165 issues its operation once room frees. -/
def execIssueStallRelease (cl : ClusterIx) (st : Stream) (s : State) : Out :=
  if isFrozen s || isStopped s then .next s
  else match (stream s cl st).stalled with
    | some (op, i) =>
      if inflightRoom s cl st then .next (issueBody op i (modStr s cl st (fun x => { x with stalled := none }))) else .next s
    | none => .next s

/-! ### Closing (R329 to R331) -/

/-- Fields of a status word (R328). -/
def stMiss (w : Nat) : Bool := natBit w 0
def stNf (w : Nat) : Bool := natBit w 1
def stDig (w : Nat) : Bool := natBit w 2
def stShort (w : Nat) : Nat := natBits w 31 24
def stBadPos (w : Nat) : Nat := natBits w 47 32
def stFirstNf (w : Nat) : Nat := natBits w 63 48

/-- Combination of two status words (R328). -/
def statusJoin (a b : Nat) : Nat :=
  let pick := fun (fa fb : Bool) (x y : Nat) => if fa && fb then min x y else if fa then x else if fb then y else 0
  pick (stNf a) (stNf b) (stFirstNf a) (stFirstNf b) * 2 ^ 48 + pick (stDig a) (stDig b) (stBadPos a) (stBadPos b) * 2 ^ 32 +
  max (stShort a) (stShort b) * 2 ^ 24 + b2n (stDig a || stDig b) * 4 + b2n (stNf a || stNf b) * 2 + b2n (stMiss a || stMiss b)

/-- The status word of this station alone (R328). -/
def ownStatus (e : BucketEntry) (x : Bucket) : Nat :=
  (if x.nf = 0 then 0 else e.pos * 2 ^ 48 + 2) + (if x.digestBad then e.pos * 2 ^ 32 + 4 else 0) +
  min x.short 0xFF * 2 ^ 24 + b2n x.miss

/-- The status record of a bucket (R331). -/
def statusRecord (sent recv status runs wire pos nf step tick : Nat) : List Byte :=
  leBytes 8 sent ++ leBytes 8 recv ++ leBytes 8 status ++ leBytes 1 runs ++ leBytes 1 wire ++ leBytes 2 pos ++ leBytes 4 nf ++
  leBytes 8 step ++ leBytes 8 tick ++ leBytes 16 0

/-- The bucket faults (R331, R334, R336). cause: 1 digest twice, 2 timeout, 3 refused packet. -/
def faultBucket (s : State) (p tag cause : Nat) : State :=
  match bucketEntry s p tag, bucket s p tag with
  | some e, some x =>
    if !bucketLive x then s
    else
      let s := wrBytes s (statusAddr s p tag) (statusRecord 0 0 0 (x.run + 1) 0 e.pos 0 (part s p).step 0)
      let s := fset s F.LNK_RED_EVT.FAULT 1 0 (redDie tag)
      let s := fbOffer s (srcRed tag) 0x0605 tag cause (part s p).step
      let s := leaveCounts (setBucket s p tag { x with phase := .faulted }) p tag
      stepFault s p (srcRed tag) tag 4
  | _, _ => s

/-- The next half of the scale table (R322). -/
def nextHalf (s : State) (p : Nat) (e : BucketEntry) (x : Bucket) : List Byte :=
  let cur := scaleHalfAt e (fget s F.CRN_EPOCH.EPOCH p)
  let body := (List.range (blocksOf e)).map (fun b =>
    let m := ngetD 0 x.downMax b
    BitVec.ofNat 8 (if m = 0 then (if x.agreed.isEmpty then rdNat s (cur + 64 + b) 1 else ngetD 0x7F x.agreed b)
                    else min (m - 6) 0xFE))
  [1] ++ List.replicate 63 0 ++ body

/-- In-flight rrecv operations of the partition that name a tag: cluster and operation. -/
def rrecvsOf (s : State) (p tag : Nat) : List (Nat × OpRec) :=
  (clustersOf s p).flatMap (fun c => ((clu s c).inflight.filter (fun r => r.op = .rrecv && bitsOf r.f 45 34 = tag)).map (fun r => (c, r)))

/-- The bucket closes (R330, R331). -/
def closeBucket (s : State) (p tag w : Nat) : State :=
  match bucketEntry s p tag, bucket s p tag with
  | some e, some x =>
    let d := redDie tag
    let s := wrBytes s (scaleHalfAt e (fget s F.CRN_EPOCH.EPOCH p + 1)) (nextHalf s p e x)
    let desc := shardDesc s e e.pos
    let hand := e.upd && shardLen e e.pos ≠ 0 && desc ≠ 0
    let s := if hand then updRead s p (updDescs s p desc) else s
    let invalid := hand && updInvalid s p desc (256 * shardLen e e.pos)
    let s := if hand && !invalid then modPart s p (fun y => { y with updates := y.updates ++ [(tag, desc)] }) else s
    let s := wrBytes s (statusAddr s p tag) (statusRecord (sentDigest e x) ((recvDigest e x).getD 0) w (x.run + 1) (b2n x.bf16)
      e.pos x.nf (part s p).step (tickNow s))
    let s := troubleEvent s p e.layer 0 x.nf
    let s := if stNf w then
        let q := stFirstNf w
        fbOffer (fset s F.LNK_RED_EVT.NONFINITE 1 0 d) (srcRed tag) 0x0601 tag (ringAt s e q + q * 65536) x.nf
      else s
    let s := fadd s F.LNK_RED_CLOSED.COUNT 1 0 d
    let s := leaveCounts (setBucket s p tag { x with phase := .closed, status := some (BitVec.ofNat 64 w) }) p tag
    let s := (rrecvsOf s p tag).foldl (fun s y => if stillThere s y.1 y.2 then serveRrecv s p y.1 y.2 else s) s
    let s := match (clu s x.sendCl).inflight.find? (fun r => r.id = x.sendOp) with
      | some r => releaseAndFinish s x.sendCl r
      | none => s
    if invalid then
      let s := logReject s desc
      if (part s p).abandoned || barGen s (64 + p) ≠ 0 then s else arriveWith (abandonPart s p) p gTrapped
    else s
  | _, _ => s

/-- A bucket whose final status says close closes once the combined m[b] are complete (R322, R329). -/
def tryClose (s : State) (p tag : Nat) : State :=
  match bucketEntry s p tag, bucket s p tag with
  | some e, some x => match x.status with
    | some w => if x.phase = .lap && (List.range (blocksOf e)).all (fun b => (nget x.downMax b).isSome)
                then closeBucket s p tag w.toNat else s
    | none => s
  | _, _ => s

/-- A re-run starts from the contributions (R329). -/
def rerunBucket (s : State) (p tag : Nat) (e : BucketEntry) (x : Bucket) : State :=
  let s := fsat s F.LNK_RED_RERUNS.COUNT 1 0 (redDie tag)
  let s := setBucket s p tag
    { x with run := x.run + 1, since := s.tick, incoming := [], outgoing := [], sums := [], badElems := [], mmax := [], nf := 0,
             miss := false, short := 0, hop := none, digestBad := false, downMax := [], status := none }
  beginScatter s p tag e

/-- The final status word decides the run (R329). -/
def decideBucket (s : State) (p tag w : Nat) : State :=
  match bucketEntry s p tag, bucket s p tag with
  | some e, some x =>
    let d := redDie tag
    let s := if x.miss then troubleEvent s p e.layer 5 1 else s
    let s := if stMiss w then fset s F.LNK_RED_EVT.MISS 1 0 d else s
    let s := if stDig w then fsat s F.LNK_RED_DIGBAD.COUNT 1 0 d else s
    if stDig w then
      if x.digUsed then faultBucket s p tag 1
      else
        let s := fbOffer (fset s F.LNK_RED_EVT.DIGEST 1 0 d) (srcRed tag) 0x0604 tag (stBadPos w) x.run
        rerunBucket s p tag e { x with digUsed := true }
    else if stMiss w then
      let s := fbOffer s (srcRed tag) 0x0602 tag x.run (stShort w)
      if x.scaleRuns < 2 then
        rerunBucket s p tag e { x with scaleRuns := x.scaleRuns + 1, working := x.working.map (fun y => (y.1, min (y.2 + stShort w) 0xFE)) }
      else
        let s := fsat (fset s F.LNK_RED_EVT.BF16 1 0 d) F.LNK_RED_BF16CNT.COUNT 1 0 d
        let s := fbOffer s (srcRed tag) 0x0603 tag e.layer (part s p).step
        rerunBucket s p tag e { x with bf16 := true }
    else
      tryClose (setBucket s p tag { x with status := some (BitVec.ofNat 64 w) }) p tag
  | _, _ => s

/-! ### The scatter phase -/

/-- What one element of a wire block becomes (R318, R321). -/
structure BlockElem where
  v : Num
  out : WireOut
  nf : Bool
  bad : Bool
  sr : Bool

def blockElem (s : State) (e : BucketEntry) (x : Bucket) (t : Tens) (b i : Nat) : BlockElem :=
  let j := shardOf e b
  let ex := wireExp (ngetD 0x7F x.working b)
  let c := contribution s t (256 * b + i)
  let inc := incomingCode e x b i
  let a := wireDecode x.in16 inc.1 ex
  let v := if firstOf e j then c.v else f32Add a c.v
  let inBad := !firstOf e j && !numIsFinite a
  let o := wireEncode x.bf16 v ex
  let made := j ≠ e.pos && o.made
  ⟨v, o, (!numIsFinite v && !inBad) || made, c.bad || (!firstOf e j && inc.2), c.sr⟩

/-- A wire block is added, encoded and forwarded, or kept by the shard's owner (R318, R321, R322). SCALE_RANGE of the source counts in
run 0 of the bucket alone, also where a re-run decodes it again (R58; assumption log 77). -/
def forwardBlock (s : State) (p tag b : Nat) (e : BucketEntry) (x : Bucket) : State :=
  let t := tensOf x.sendCl x.send
  let s := redRead s p tag (contribWords s t b)
  let l : List BlockElem := (List.range 256).map (blockElem s e x t b)
  let j := shardOf e b
  let m := l.foldl (fun m y => max m (mOf y.v)) 0
  let s := if x.run = 0 then troubleEvent s p e.layer 3 (l.filter (·.sr)).length else s
  let s := fadd s F.LNK_RED_ELEMS.COUNT 256 0 (redDie tag)
  let x := { x with nf := x.nf + (l.filter (fun (y : BlockElem) => y.nf)).length, mmax := nput 0 x.mmax b m }
  if j = e.pos then
    let bads := (l.zip (List.range 256)).filterMap (fun y => if y.1.bad then some (256 * b + y.2) else none)
    setBucket s p tag { x with sums := nset x.sums b (l.map (fun (y : BlockElem) => f32Bits y.v)), badElems := x.badElems ++ bads }
  else
    let sz := if x.bf16 then 2 else 1
    let bytes := l.flatMap (fun y => leBytes sz y.out.code)
    let per := 8 / sz
    let ws := ((chunks 8 bytes).zip (chunks per l)).map (fun y =>
      let d := BitVec.ofNat 64 (leNat y.1)
      if y.2.any (·.bad) then poisonWord d else codeWord d)
    let x := { x with outgoing := nset x.outgoing b bytes, miss := x.miss || l.any (fun (y : BlockElem) => y.out.short ≠ 0),
                      short := l.foldl (fun m (y : BlockElem) => max m y.out.short) x.short }
    let s := setBucket s p tag x
    let s := sendStream s (ringNext s e) tag (b2n x.bf16) x.run j (256 * sz * (b - shardLo e j)) ws
    sendTrailer s p tag e

/-- WIRE_BLOCK_FORWARD: block b, once its incoming data and the contribution are there (R335). -/
def execWireBlockForward (p : PartIx) (tag : BitVec 12) (block : Nat) (s : State) : Out :=
  match bucketEntry s p tag.toNat, bucket s p tag.toNat with
  | some e, some x =>
    let done := (nget x.outgoing block).isSome || (nget x.sums block).isSome
    if isFrozen s || isStopped s || x.phase ≠ .scatter || blocksOf e ≤ block || done ||
       !(firstOf e (shardOf e block) || blockReady s e x block) then .next s
    else .next (forwardBlock s p tag.toNat block e x)
  | _, _ => .next s

/-! ### Packets of a bucket -/

/-- The bucket that a packet from the station before this one belongs to: the lowest partition with the tag in flight whose ring names
the sender there (assumption log 40). -/
def bucketOf (s : State) (k : Packet) : Option (Nat × BucketEntry × Bucket) :=
  let tag := pktW1 k 63 52
  (List.range 8).findSome? (fun p => match bucketEntry s p tag, bucket s p tag with
    | some e, some x => if bucketLive x && e.p ≠ 1 && ringPrev s e = pktSrc k then some (p, e, x) else none
    | _, _ => none)

/-- RUN of a RED or RTRL packet. -/
def pktRun (k : Packet) : Nat := if pktType k = 4 then pktW1 k 49 47 else pktW1 k 47 45

/-- The station can act on a packet of a bucket: one of an earlier run it discards, one of this run when ok holds; others wait. -/
def bucketReady (s : State) (ok : BucketEntry → Bucket → Bool) (k : Packet) : Bool :=
  match bucketOf s k with
  | some (_, e, x) => pktRun k < x.run || (pktRun k = x.run && ok e x)
  | none => false

/-- Act on a packet of the bucket's present run. -/
def onBucket (use : Nat → Nat → BucketEntry → Bucket → Packet → State → State) (k : Packet) (s : State) : State :=
  match bucketOf s k with
  | some (p, e, x) => if pktRun k = x.run then use p (pktW1 k 63 52) e x k s else s
  | none => s

/-- A poisoned word on the wire faults the step; the spec gives such a word no address (R264, R334; assumption log 41). -/
def wirePoison (p tag : Nat) (k : Packet) (s : State) : State :=
  if k.payload.any (fun w => classOf (syndromeOf w) = .poison) then
    let d := drawFree s
    stepFault d.2 p (srcRed tag) ((Config.freeWord d.1).toNat % 2 ^ 48) 2
  else s

/-- Scatter bytes take their places (R324, R326). -/
def takeScatter (p tag : Nat) (_ : BucketEntry) (x : Bucket) (k : Packet) (s : State) : State :=
  let j := pktW1 k 46 31
  let w := pktW1 k 30 0 / 8
  let inc := (k.payload.zip (List.range k.payload.length)).foldl (fun m y =>
    nset m (wordKey j (w + y.2)) y.1) x.incoming
  setBucket (wirePoison p tag k s) p tag { x with incoming := inc, in16 := pktW1 k 51 50 = 1 }

/-- RED_SCATTER_RECEIVE (R318, R324). -/
def execRedScatterReceive (s : State) : Out :=
  .next (receivePacket (fun k => pktType k = 4 && pktW1 k 51 50 < 2) (bucketReady s (fun _ x => x.phase = .scatter))
    (onBucket takeScatter) s)

def isRtrl (kind : Nat) (k : Packet) : Bool := pktType k = 5 && pktW1 k 51 48 = kind

/-- HOP_RECEIVE: the trailer of the station before (R326, R328). -/
def execHopReceive (s : State) : Out :=
  .next (receivePacket (isRtrl 0) (bucketReady s (fun _ x => x.phase = .scatter))
    (onBucket (fun p tag _ x k s => setBucket (wirePoison p tag k s) p tag { x with hop := some (BitVec.ofNat 64 (pktWord k 0)) })) s)

/-- m[b] of this station for n blocks. -/
def ownMax (x : Bucket) (n : Nat) : List Nat := (List.range n).map (ngetD 0 x.mmax)

/-- CLOSURE_FINAL: digests are compared and the closure lap entered (R328). -/
def execClosureFinal (p : PartIx) (tag : BitVec 12) (s : State) : Out :=
  let tag := tag.toNat
  match bucketEntry s p tag, bucket s p tag with
  | some e, some x =>
    if isFrozen s || isStopped s || x.phase ≠ .scatter || !allKept e x || (e.p ≠ 1 && (x.hop.isNone || !allSent e x)) then .next s
    else if e.p = 1 then
      let x := { x with phase := .lap, downMax := (ownMax x (blocksOf e)).zip (List.range (blocksOf e)) |>.map (fun y => (y.2, y.1)) }
      .next (decideBucket (setBucket s p tag x) p tag (ownStatus e x))
    else
      let bad := (recvDigest e x).map (BitVec.ofNat 64) ≠ x.hop
      let x := { x with phase := .lap, digestBad := bad }
      let s := setBucket s p tag x
      if e.pos ≠ 0 then .next s
      else
        let s := sendRedPacket s (ringNext s e) 5 (rtrlWord1 tag 1 x.run 0 0) [codeWord (BitVec.ofNat 64 (ownStatus e x))]
        .next (sendTable s (ringNext s e) tag 2 x.run 0 0 (ownMax x (blocksOf e)))
  | _, _ => .next s

/-- An up-lap status word is combined; position P - 1 forms the final word and acts on it (R325, R328). -/
def takeUpStatus (p tag : Nat) (e : BucketEntry) (x : Bucket) (k : Packet) (s : State) : State :=
  let w := statusJoin (pktWord k 0) (ownStatus e x)
  let last := e.pos = e.p - 1
  let s := sendRedPacket s (ringNext s e) 5 (rtrlWord1 tag (if last then 3 else 1) x.run e.pos 0) [codeWord (BitVec.ofNat 64 w)]
  if last then decideBucket s p tag w else s

def execUpStatusReceive (s : State) : Out :=
  .next (receivePacket (isRtrl 1) (bucketReady s (fun e x => x.phase = .lap && e.pos ≠ 0)) (onBucket takeUpStatus) s)

/-- Set combined bytes. -/
def putTable (m : List (Nat × Nat)) (l : List (Nat × Nat)) : List (Nat × Nat) := l.foldl (fun m y => nset m y.1 y.2) m

/-- Up-lap m[b] bytes are combined by maximum (R322). -/
def takeUpMax (p tag : Nat) (e : BucketEntry) (x : Bucket) (k : Packet) (s : State) : State :=
  let l := (tableBytes k (blocksOf e)).map (fun y => (y.1, max y.2 (ngetD 0 x.mmax y.1)))
  let last := e.pos = e.p - 1
  let s := sendTable s (ringNext s e) tag (if last then 4 else 2) x.run e.pos (pktW1 k 28 0) (l.map (·.2))
  if last then tryClose (setBucket s p tag { x with downMax := putTable x.downMax l }) p tag else s

def execUpMaxReceive (s : State) : Out :=
  .next (receivePacket (isRtrl 2) (bucketReady s (fun e x => x.phase = .lap && e.pos ≠ 0)) (onBucket takeUpMax) s)

/-- Whether a down-lap packet goes on from here: down ends at position P - 2 (R325). -/
def downGoesOn (e : BucketEntry) : Bool := e.pos + 2 < e.p

/-- DOWN_STATUS: every station acts on the final status word (R328, R329). -/
def takeDownStatus (p tag : Nat) (e : BucketEntry) (x : Bucket) (k : Packet) (s : State) : State :=
  let s := if downGoesOn e then sendRedPacket s (ringNext s e) 5 (rtrlWord1 tag 3 x.run e.pos 0) [codeWord (BitVec.ofNat 64 (pktWord k 0))] else s
  decideBucket s p tag (pktWord k 0)

def execDownStatusReceive (s : State) : Out :=
  .next (receivePacket (isRtrl 3) (bucketReady s (fun e x => x.phase = .lap && e.pos + 1 ≠ e.p && x.status.isNone)) (onBucket takeDownStatus) s)

/-- DOWN_MAX: combined m[b] (R322). -/
def takeDownMax (p tag : Nat) (e : BucketEntry) (x : Bucket) (k : Packet) (s : State) : State :=
  let l := tableBytes k (blocksOf e)
  let s := if downGoesOn e then sendTable s (ringNext s e) tag 4 x.run e.pos (pktW1 k 28 0) (l.map (·.2)) else s
  tryClose (setBucket s p tag { x with downMax := putTable x.downMax l }) p tag

def execDownMaxReceive (s : State) : Out :=
  .next (receivePacket (isRtrl 4) (bucketReady s (fun e x => x.phase = .lap && e.pos + 1 ≠ e.p)) (onBucket takeDownMax) s)

/-- Agreed bytes become working bytes; the scatter begins with the last of them (R323). -/
def takeAgreed (p tag : Nat) (e : BucketEntry) (x : Bucket) (l : List (Nat × Nat)) (s : State) : State :=
  let a := putTable x.agreed l
  let s := setBucket s p tag { x with agreed := a, working := a }
  if a.length = blocksOf e then beginScatter s p tag e else s

/-- PRE_UP: m[b] of contributions are combined; position P - 1 forms the agreed bytes (R323). -/
def takePreUp (p tag : Nat) (e : BucketEntry) (x : Bucket) (k : Packet) (s : State) : State :=
  let t := tensOf x.sendCl x.send
  let bs := tableBytes k (blocksOf e)
  let s := redRead s p tag (bs.flatMap (fun y => contribWords s t y.1))
  let l := bs.map (fun y => (y.1, max y.2 (contribMax s t y.1)))
  if e.pos = e.p - 1 then
    let l := l.map (fun y => (y.1, agreedByte y.2 e.p))
    takeAgreed p tag e x l (sendTable s (ringNext s e) tag 6 0 e.pos (pktW1 k 28 0) (l.map (·.2)))
  else sendTable s (ringNext s e) tag 5 0 e.pos (pktW1 k 28 0) (l.map (·.2))

def execPreUpReceive (s : State) : Out :=
  .next (receivePacket (isRtrl 5) (bucketReady s (fun e x => x.phase = .pre && e.pos ≠ 0)) (onBucket takePreUp) s)

/-- PRE_DOWN: the agreed bytes (R323). -/
def takePreDown (p tag : Nat) (e : BucketEntry) (x : Bucket) (k : Packet) (s : State) : State :=
  let l := tableBytes k (blocksOf e)
  let s := if downGoesOn e then sendTable s (ringNext s e) tag 6 0 e.pos (pktW1 k 28 0) (l.map (·.2)) else s
  takeAgreed p tag e x l s

def execPreDownReceive (s : State) : Out :=
  .next (receivePacket (isRtrl 6) (bucketReady s (fun e x => x.phase = .pre && e.pos + 1 ≠ e.p)) (onBucket takePreDown) s)

/-- A bucket has not closed within LNK_RED_TMO ticks of its entry or latest re-run (R334). -/
def execBucketTimeout (p : PartIx) (tag : BitVec 12) (s : State) : Out :=
  match bucket s p tag.toNat with
  | some x =>
    if isFrozen s || isStopped s || !bucketLive x || s.tick < x.since + sget s F.LNK_RED_TMO.TICKS then .next s
    else .next (faultBucket s p tag.toNat 2)
  | none => .next s

end Sys2Proof.Machine
end

