-- ==== Sys2Proof/Machine/Sync.lean ====
section
/-! DEFINITION. Control and synchronisation of a stream (R172, R173, R176, R180 to R182, R190, R205 to R207) and the events that end a
block. -/

namespace Sys2Proof.Machine

/-! ### Blocking -/

def blockFld : Stream → Fld
  | .F => F.SEQ_STAT.BLOCK_F
  | .B => F.SEQ_STAT.BLOCK_B

/-- Whether BLOCK_F or BLOCK_B shows a block (R192). -/
def blockShown : Block → Bool
  | .wait _ _ => true
  | .barWait _ _ => true
  | .put _ => true
  | .fence _ => false
  | .loadFault => false

/-- The stream blocks; the count of R180 starts with the limit then set, in units of 125 ticks. -/
def blockStream (s : State) (c : Nat) (st : Stream) (b : Block) : State :=
  let lim := 125 * sget s F.SEQ_WAIT_LIMIT.LIMIT 0 c
  let s := modStr s c st (fun x => { x with block := some b, since := s.tick, limit := lim })
  fput s (blockFld st) (b2n (blockShown b)) 0 c

/-- The stream no longer blocks and goes on at its next instruction. -/
def unblock (s : State) (c : Nat) (st : Stream) : State :=
  let s := modStr s c st (fun x => { x with block := none })
  let s := fput s (blockFld st) 0 0 c
  setPc s c st (pcOf s c st + 8)

/-- The block of a stream that runs. -/
def blockOf (s : State) (c : Nat) (st : Stream) : Option Block :=
  if isFrozen s || isStopped s || !(stream s c st).running then none else (stream s c st).block

/-! ### Plain control -/

/-- nop: none. An opcode that R197 does not list is ILLEGAL (R195). -/
def execNop (i : Issue) (opc : BitVec 8) (s : State) : Out :=
  issue opc.toNat (opc == 0 && zeroBits i 51 0) (fun t => advance t i) i s

/-- end: the stream issues nothing more in the run (R190). -/
def execEnd (i : Issue) (s : State) : Out :=
  issue 0x01 (zeroBits i 51 0) (fun t => retire (fun x => { x with ended := true }) t i) i s

/-- trap: SOFT with the immediate (R206). -/
def execTrap (i : Issue) (s : State) : Out :=
  issue 0x02 (zeroBits i 51 48) (fun t => precise t i 0x0D (fIMM48 i)) i s

/-! ### Branches (R205) -/

/-- Go to a target, or trap with ADDR_FAULT at the branch. -/
def branchTo (target : Word) (f : StreamState → StreamState) (s : State) (i : Issue) : State :=
  if target.toNat < 2 ^ 48 && inCodeRegion s i.cl target.toNat
  then setPc (modStr s i.cl i.st f) i.cl i.st target.toNat
  else precise s i 0x04 target.toNat

/-- pc + 8 × sext(OFF). -/
def branchTarget (s : State) (i : Issue) : Word := BitVec.ofNat 64 (pcNow s i) + 8 * sext32 (fOFF i)

def execB (i : Issue) (s : State) : Out :=
  issue 0x50 (zeroBits i 51 32) (fun t => branchTo (branchTarget t i) id t i) i s

def execBl (i : Issue) (s : State) : Out :=
  issue 0x51 (isS (fRD i) && zeroBits i 45 32)
    (fun t => branchTo (branchTarget t i) (fun x => setSreg x (fRD i) (BitVec.ofNat 64 (pcNow t i + 8))) t i) i s

def execBi (i : Issue) (s : State) : Out :=
  issue 0x52 (zeroBits i 51 46 && isA (fRA i) && zeroBits i 39 0)
    (fun t => branchTo (areg (strOf t i) (fRA i)) id t i) i s

/-! ### Tokens -/

/-- sig: COUNT rises by V, or TOKEN_RANGE (R172). -/
def execSig (i : Issue) (s : State) : Out :=
  issue 0x60 (zeroBits i 51 48 && zeroBits i 39 16 && fV i ≠ 0)
    (fun t =>
      if tokFull t i.cl (fK i) (fV i) then precise t i 0x08 (fK i)
      else advance (setTokCount t i.cl (fK i) (tokCount t i.cl (fK i) + fV i)) i) i s

/-- Take v from a token; held rings then find room (R173, R426). -/
def takeToken (s : State) (c k v : Nat) : State := applyBells (setTokCount s c k (tokCount s c k - v)) c

/-- wait (R173). -/
def execWait (i : Issue) (s : State) : Out :=
  issue 0x61 (zeroBits i 51 48 && zeroBits i 39 16)
    (fun t =>
      if fV i = 0 then advance t i
      else if fV i ≤ tokCount t i.cl (fK i) then advance (takeToken t i.cl (fK i) (fV i)) i
      else blockStream t i.cl i.st (.wait (fK i) (fV i))) i s

/-- Whether stream F waits on token k and would be served first (R173, R193). -/
def servedFirst (s : State) (c : Nat) (st : Stream) (k : Nat) : Bool :=
  match st, (stream s c .F).block with
  | .B, some (.wait k' v') => k' = k && v' ≤ tokCount s c k
  | _, _ => false

/-- A blocked wait whose token holds enough unblocks and subtracts (R173). -/
def execWaitSatisfied (cl : ClusterIx) (st : Stream) (s : State) : Out :=
  match blockOf s cl st with
  | some (.wait k v) =>
    if v ≤ tokCount s cl k && !servedFirst s cl st k then .next (unblock (takeToken s cl k v) cl st) else .next s
  | _ => .next s

/-! ### Fences (R176) -/

/-- Whether the operations that a fence covers have completed. A remote write is acknowledged when its operation completes, so fence.g asks for
no more than fence.c; the writes become visible as it ends (fenceWrites). -/
def fenceClear (s : State) (c : Nat) (st : Stream) : FenceKind → Bool
  | .s => (clu s c).inflight.all (fun o => o.st != st)
  | _ => (clu s c).inflight.isEmpty

/-- Format Y with KIND as given and every other field reserved. -/
def fenceLegal (kind : Nat) (i : Issue) : Bool := zeroBits i 51 40 && fKIND i = kind && zeroBits i 37 0

/-- Fence: go on, or block. -/
def fenceOr (kind : FenceKind) (i : Issue) (s : State) : State :=
  if fenceClear s i.cl i.st kind then advance (if kind = .g then fenceWrites s i.cl else s) i else blockStream s i.cl i.st (.fence kind)

def execFenceS (i : Issue) (s : State) : Out := issue 0x03 (fenceLegal 0 i) (fenceOr .s i) i s
def execFenceC (i : Issue) (s : State) : Out := issue 0x03 (fenceLegal 1 i) (fenceOr .c i) i s
def execFenceG (i : Issue) (s : State) : Out := issue 0x03 (fenceLegal 2 i) (fenceOr .g i) i s

/-! ### Barriers (R181, R182) -/

/-- The barrier is named by the image, is not barrier 63, and the cluster takes part (R181). -/
def barNamed (s : State) (c b : Nat) : Bool :=
  b < 63 && (match partOf s c with
    | some p => (match (part s p).image with
      | some im => natBit im.barriers.toNat b && (barMembers s p b).contains c
      | none => false)
    | none => false)

/-- A first arrival of the cluster in the generation (R182). -/
def barFresh (s : State) (c b : Nat) : Bool := barNamed s c b && !(bar s b).locals.contains c

/-- The wait part of bar and bar.wt: pass, or block until the generation of the last arrival completes; the stream stands at its
instruction. -/
def barWaitPart (s : State) (c : Nat) (st : Stream) (b : Nat) : State :=
  if barPassed s c b then unblock (seeWrites s c) c st
  else blockStream s c st (.barWait b ((nget (clu s c).barLast b).getD 0))

/-- The arrival after its fence.g, and for bar the wait. -/
def barAfterFence (s : State) (c : Nat) (st : Stream) (b : Nat) (waits : Bool) : State :=
  if barFresh s c b then
    let s := barArrive (fenceWrites s c) c b
    if waits then barWaitPart s c st b else unblock s c st
  else takeTrap s c st (pcOf s c st) 0x0A b false

def barLegal (i : Issue) : Bool := zeroBits i 51 38 && zeroBits i 31 0

/-- bar.arr and bar: BARRIER_FAULT, or fence.g and then the arrival. -/
def barIssue (waits : Bool) (i : Issue) (s : State) : State :=
  if !barFresh s i.cl (fBAR i) then precise s i 0x0A (fBAR i)
  else if fenceClear s i.cl i.st .g then barAfterFence s i.cl i.st (fBAR i) waits
  else blockStream s i.cl i.st (.fence (if waits then .thenBar (fBAR i) else .thenArrive (fBAR i)))

def execBar (i : Issue) (s : State) : Out := issue 0x62 (barLegal i) (barIssue true i) i s
def execBarArr (i : Issue) (s : State) : Out := issue 0x63 (barLegal i) (barIssue false i) i s

/-- bar.wt (R182). -/
def execBarWt (i : Issue) (s : State) : Out :=
  issue 0x64 (barLegal i)
    (fun t => if !barNamed t i.cl (fBAR i) then precise t i 0x0A (fBAR i) else barWaitPart t i.cl i.st (fBAR i)) i s

/-- A blocked fence releases its stream once the operations it covers have completed (R176). -/
def execFenceRelease (cl : ClusterIx) (st : Stream) (s : State) : Out :=
  match blockOf s cl st with
  | some (.fence kind) =>
    if !fenceClear s cl st kind then .next s
    else match kind with
      | .thenArrive b => .next (barAfterFence s cl st b false)
      | .thenBar b => .next (barAfterFence s cl st b true)
      | .g => .next (unblock (fenceWrites s cl) cl st)
      | _ => .next (unblock s cl st)
  | _ => .next s

/-! ### mbx.put (R207) -/

/-- The private mailbox of a cluster takes a put: empty, open, and no notice of the sequencer waits before it (R422). -/
def privateFree (s : State) (c : Nat) : Bool := !mbxFull s c && !mbxClosed s c && (clu s c).notices.isEmpty

/-- The address of MBX_PUTn. -/
def putAddr (n : Nat) : Nat := regAddr .MBX_PUT n 0

/-- mbx.put to the private mailbox (SELF = 1) or to the partition's open mailbox. -/
def putBody (i : Issue) (s : State) : State :=
  let w := sreg (strOf s i) (fieldOf i 51 46)
  if fSELF i = 1 then
    if privateFree s i.cl then advance (mbxPost s i.cl w 0 i.cl) i
    else blockStream s i.cl i.st (.put w)
  else
    let n := fMB i
    if some n ≠ (partOf s i.cl).map (· + 56) then precise s i 0x04 (putAddr n)
    else if mbxFull s n || mbxClosed s n then precise s i 0x0B n
    else advance (mbxPost s n w 0 i.cl) i

def execMbxPut (i : Issue) (s : State) : Out :=
  issue 0x65 (isS (fieldOf i 51 46) && zeroBits i 38 0 && (fSELF i = 0 || fMB i = 0)) (putBody i) i s

/-- A stream blocked on its full private mailbox posts once space frees; F before B (R207, R422). -/
def execPutUnblock (cl : ClusterIx) (st : Stream) (s : State) : Out :=
  match blockOf s cl st with
  | some (.put w) =>
    let fFirst := match st, (stream s cl .F).block with
      | .B, some (.put _) => true
      | _, _ => false
    if privateFree s cl && !fFirst then .next (unblock (mbxPost s cl w 0 cl) cl st) else .next s
  | _ => .next s

/-! ### The wait limit and the end of a stream -/

/-- What a blocked instruction waits for has come: arrival wins over expiry (R180, R193). -/
def blockMet (s : State) (c : Nat) : Block → Bool
  | .wait k v => v ≤ tokCount s c k
  | .barWait b _ => barPassed s c b
  | .put _ => privateFree s c
  | _ => false

/-- Token, barrier or mailbox number of a block that R180 counts. -/
def blockInfo (c : Nat) : Block → Option Nat
  | .wait k _ => some k
  | .barWait b _ => some b
  | .put _ => some c
  | _ => none

/-- The block of a stream that runs or has the rest of the cycle in which the other stream trapped (R193). -/
def timedBlock (s : State) (c : Nat) (st : Stream) : Option Block :=
  if isFrozen s || isStopped s || !((stream s c st).running || (stream s c st).lastCycle) then none else (stream s c st).block

/-- A stream blocked for SEQ_WAIT_LIMIT traps with WAIT_TIMEOUT (R180); the cycle of the other stream's trap ends with it (R185). -/
def execWaitTimeout (cl : ClusterIx) (st : Stream) (s : State) : Out :=
  match timedBlock s cl st with
  | none => .next s
  | some b =>
    match blockInfo cl b with
    | none => .next s
    | some info =>
      let x := stream s cl st
      let t := takeTrap s cl st (pcOf s cl st) 0x09 info false
      if x.limit ≠ 0 && x.since + x.limit ≤ s.tick && !blockMet s cl b
      then .next (if x.running then t else endCycle t cl) else .next s

def endedFld : Stream → Fld
  | .F => F.SEQ_STAT.F_ENDED
  | .B => F.SEQ_STAT.B_ENDED

/-- A stream that executed end stops once its operations have completed; the second stop posts the step-end notice (R190). -/
def execStreamEnd (cl : ClusterIx) (st : Stream) (s : State) : Out :=
  let x := stream s cl st
  if isFrozen s || isStopped s || !x.running || !x.ended || !fenceClear s cl st .s then .next s
  else
    let s := modStr s cl st (fun x => { x with running := false })
    let s := fput s (endedFld st) 1 0 cl
    if fbit s F.SEQ_STAT.F_ENDED 0 cl && fbit s F.SEQ_STAT.B_ENDED 0 cl
    then .next (seqNotice (fput s F.SEQ_STAT.STATE 3 0 cl) cl 1) else .next s

end Sys2Proof.Machine
end

