-- ==== Sys2Proof/Machine/Packets.lean ====
section
/-! DEFINITION. End-to-end delivery: WRITE, WACK, REFUSE, E_NAK and their timeout (R297, R298), and the barrier packets (R304, R305). -/

namespace Sys2Proof.Machine

/-! ### A WRITE arrives (R249, R296, R297) -/

/-- Bytes that the mask of the last payload word spans. -/
def maskSpan (mask : Nat) : Nat := ((List.range 8).filter (natBit mask)).foldl (fun m i => max m (i + 1)) 0

/-- Bytes that a WRITE spans from its address. -/
def writeSpan (p : Packet) : Nat :=
  if p.payload.isEmpty then 0 else 8 * (p.payload.length - 1) + maskSpan (pktW1 p 55 48)

/-- Store payload word k of n: bytes that the mask lists, all but for the last word; a poisoned word poisons what it touches. -/
def storeWord (addr mask n : Nat) (s : State) (x : CodeWord × Nat) : State :=
  let d := deliveredData x.1
  let bad := !isGood (classOf (syndromeOf x.1))
  foldRange 8 (fun s i =>
    if x.2 + 1 < n || natBit mask i then
      let a := addr + 8 * x.2 + i
      let s := wrBytes s a [BitVec.ofNat 8 (bitsOf d (8 * i + 7) (8 * i))]
      if bad then poisonAt s a else s
    else s) s

/-- The packet is written and acknowledged, or refused with cause 1. -/
def takeWrite (p : Packet) (s : State) : State :=
  let a := pktW1 p 47 0
  if remoteAccepts s a (writeSpan p) then
    let n := p.payload.length
    let s := (p.payload.zip (List.range n)).foldl (storeWord a (pktW1 p 55 48) n) s
    sendPacket s (mkPacket s (pktSrc p) 2 0 (BitVec.ofNat 64 (pktTid p)) [])
  else sendPacket s (mkPacket s (pktSrc p) 3 0 (BitVec.ofNat 64 (pktTid p + 2 ^ 21)) [])

def execWriteReceive (s : State) : Out := .next (receivePacket (fun p => pktType p = 1) (fun _ => true) takeWrite s)

/-! ### Acknowledgements (R210, R297, R298) -/

/-- Link die of a station's own traffic toward a destination: that of the port it goes out by. -/
def homeDie (s : State) (dst : Nat) : Nat := dieOf ((routeOf s 0 dst).getD 24)

/-- The owner of a WRITE learns that it is acknowledged. -/
def ackedOwner (s : State) (x : Sent) : State := if x.kind = 0 then finishRemote s x.who x.op else mirrorAcked s x.who

/-- One TID is acknowledged, or came too late. -/
def ackTid (src : Nat) (s : State) (tid : Nat) : State :=
  match nget s.sent tid with
  | some x => if x.dst = src then ackedOwner { s with sent := ndel s.sent tid } x else fsat s F.LNK_LATEACK.COUNT 1 0 (homeDie s src)
  | none => fsat s F.LNK_LATEACK.COUNT 1 0 (homeDie s src)

/-- The oldest delivered packet of a type is used, also while the P40 is stopped (R313); a bad one draws E_NAK or REFUSE (R297). -/
def receiveType (t : Nat) (use : Packet → State → State) (s : State) : State :=
  if isFrozen s then s
  else match takeFirst (fun p => pktType p = t) s.arrived with
    | none => s
    | some (p, rest) =>
      let s := { s with arrived := rest }
      if pktBad p then nakPacket s p else use p (acceptPacket s p)

/-- A WACK covers 1 to 16 TIDs. -/
def takeWack (p : Packet) (s : State) : State :=
  foldRange (pktW1 p 20 17 + 1) (fun s k => ackTid (pktSrc p) s ((pktW1 p 16 0 + k) % 131072)) s

def execWackReceive (s : State) : Out := .next (receiveType 2 takeWack s)

/-- A refused WRITE: E2E_REFUSE; it halts its channel, or fails the mirror send (R250, R297, R354). cause by R296. -/
def refuseTid (s : State) (tid cause : Nat) (x : Sent) : State :=
  let s := { s with sent := ndel s.sent tid }
  let s := fbOffer s (srcSwitch (homeDie s x.dst)) 0x0507 x.dst tid cause
  if x.kind ≠ 0 then failMirror s x.who 1
  else match (clu s x.who).inflight.find? (fun o => o.id = x.op) with
    | none => s
    | some o =>
      let ch := bitsOf o.f 51 50
      if fget s F.SEQ_DMA_STAT.STATE ch x.who = 2 then s else haltChannel s x.who ch 3 x.addr x.dst

/-- The partition whose bucket of a tag is in flight. -/
def bucketPart (s : State) (tag : Nat) : Option Nat := (List.range 8).find? (fun p => (bucket s p tag).any bucketLive)

/-- A REFUSE of a reduction packet faults its bucket (R327, R334). -/
def refuseReduction (s : State) (tid src : Nat) : State :=
  match s.resend.find? (fun x => x.1 == tid && pktDst x.2 == src) with
  | some (_, q) =>
    if pktType q = 4 || pktType q = 5 then
      match bucketPart s (pktW1 q 63 52) with
      | some p => faultBucket s p (pktW1 q 63 52) 3
      | none => s
    else s
  | none => fsat s F.LNK_LATEACK.COUNT 1 0 (homeDie s src)

def takeRefuse (p : Packet) (s : State) : State :=
  let tid := pktW1 p 16 0
  match nget s.sent tid with
  | some x => if x.dst = pktSrc p then refuseTid s tid (pktW1 p 23 21) x else refuseReduction s tid (pktSrc p)
  | none => refuseReduction s tid (pktSrc p)

def execRefuseReceive (s : State) : Out := .next (receiveType 3 takeRefuse s)

/-- Whether a packet is a WACK or a REFUSE of a TID from a station. -/
def acknowledges (tid dst : Nat) (p : Packet) : Bool :=
  !pktBad p && pktSrc p == dst &&
  ((pktType p == 2 && (tid + 131072 - pktW1 p 16 0) % 131072 ≤ pktW1 p 20 17) || (pktType p == 3 && pktW1 p 16 0 == tid))

/-- Neither WACK nor REFUSE within LNK_E2E_TMO ticks; one that has arrived wins (R298, R313). -/
def execE2eTimeout (tid : BitVec 17) (s : State) : Out :=
  match nget s.sent tid.toNat with
  | none => .next s
  | some x =>
    if isFrozen s || s.tick < x.since + sget s F.LNK_E2E_TMO.TICKS 0 (homeDie s x.dst) ||
       s.arrived.any (fun a => acknowledges tid.toNat x.dst a.1) then .next s
    else .next (refuseTid s tid.toNat 3 x)

/-- A WRITE is sent again, once, from its source; a packet of a reduction unit or the barrier network from what its unit keeps (R297, R327). -/
def takeENak (p : Packet) (s : State) : State :=
  let tid := pktW1 p 16 0
  match nget s.sent tid with
  | some x =>
    if x.dst ≠ pktSrc p || x.resent then s
    else
      let s := { s with sent := nset s.sent tid { x with resent := true } }
      sendPacket s (mkPacket s x.dst 1 tid (writeWord1 x.addr (lastMask x.n)) (wordsFrom s x.srcAddr x.n))
  | none =>
    match s.resend.find? (fun x => x.1 == tid && pktDst x.2 == pktSrc p) with
    | some (_, q) => sendPacket s q
    | none => s

def execENakReceive (s : State) : Out := .next (receiveType 9 takeENak s)

/-! ### Barrier packets (R304, R305) -/

/-- The barrier that a BAR_UP or BAR_DOWN is for, when it is enabled here. -/
def barOf (s : State) (p : Packet) : Option Nat :=
  let b := pktW1 p 5 0
  if b < 63 then (if barEnabled s b then some b else none)
  else (List.range 8).findSome? (fun i =>
    if barEnabled s (64 + i) && sget s F.LNK_VBARCFG.VID i = pktW1 p 28 26 then some (64 + i) else none)

def barDisc (s : State) : State := fsat s F.LNK_BAR_DISC.COUNT 1

/-- Words of a packet as a payload from word lo up. -/
def wordsAt (p : Packet) (lo : Nat) : List (Nat × Nat) :=
  ((List.range p.payload.length).map (fun i => (lo + i, pktWord p i))).filter (fun x => x.2 ≠ 0)

/-- Fragments of a child's BAR_UP seen, counted when the last has come (R292, R304 step 1). -/
def countUp (s : State) (k src frag total : Nat) : State :=
  let key := 16 * src + frag
  let s := modBar s k (fun x => { x with frags := if x.frags.contains key then x.frags else x.frags ++ [key] })
  if (List.range total).all (fun f => (bar s k).frags.contains (16 * src + f)) then
    let s := modBar s k (fun x => { x with ups := x.ups ++ [src], frags := x.frags.filter (fun f => f / 16 ≠ src) })
    barProgress (setBarUps s k (bar s k).ups.length) k
  else s

/-- A BAR_UP is counted and combined, or discarded. -/
def takeBarUp (p : Packet) (s : State) : State :=
  match barOf s p with
  | none => barDisc s
  | some k =>
    let src := pktSrc p
    if pktW1 p 21 6 ≠ barGen s k || (bar s k).ups.contains src then barDisc s
    else if k < 63 then countUp s k src 0 1
    else
      let n := p.payload.length
      let f := pktW1 p 25 22
      let s := modBar s k (fun x => { x with payload := payloadOr x.payload (wordsAt p (n * f)) })
      countUp s k src f (if n = 0 then 1 else cdiv 128 n)

def execBarUpReceive (s : State) : Out := .next (receiveType 6 takeBarUp s)

/-- The station has done its part in the generation (R304): it has sent its BAR_UP, or it is a root that is complete. -/
def barSent (s : State) (k : Nat) : Bool := if barRoot s k then (bar s k).release.isSome else (bar s k).sentUp

/-- A group of 8 words of the combined verdict payload has come down (assumption log 20). -/
def downGroup (i : Nat) : Nat := 2 ^ 20 + i

/-- The whole payload has come down, or none comes: a program barrier, a commit, a root, a lone station. -/
def downDone (s : State) (k : Nat) : Bool :=
  k < 64 || barGen s k ≠ 0 || !barEnabled s k || barRoot s k || (List.range 16).all (fun i => (bar s k).frags.contains (downGroup i))

/-- A stream that waits for a generation of barrier b that has completed goes on (R182). -/
def wakeWaiter (b : Nat) (s : State) (c : Nat) (st : Stream) : State :=
  match (stream s c st).block with
  | some (.barWait b' _) => if b' = b && barPassed s c b then unblock (seeWrites s c) c st else s
  | _ => s

/-- Release (R304 step 5): the waiting streams of a program barrier go on, a verdict completes the combined verdict (R123), unless a stop has
abandoned the run since it arrived (R131), a commit flips
(R342). -/
def releaseBar (s : State) (k : Nat) : State :=
  if k < 64 then foldRange 32 (fun s c => wakeWaiter k (wakeWaiter k s c .F) c .B) (barRelease s k)
  else
    let p := k - 64
    let g := barGen s k
    let pay := (bar s k).payload
    let s := barRelease s k
    if g = 0 then modPart s p (fun x => { x with combined := pay, verdictReady := x.atVerdict }) else flipStation s p

/-- The tick at which this station releases (R304 step 5), by the offset of the generation (R399). -/
def releaseTick (s : State) (k tr : Nat) : Nat := tr + (bar s k).offset

/-- Releases on arrival when the tick has passed (R304 step 6). -/
def lateRelease (s : State) (k tr : Nat) : State :=
  if tickNow s ≤ releaseTick s k tr then s
  else
    let s := fsat s F.LNK_BAR_LATE.COUNT 1
    let s := fbOffer s (srcLink 0 0x30) 0x0509 (barNumber k) (barGen s k) (tickNow s - releaseTick s k tr)
    if downDone s k then releaseBar s k else s

/-- A BAR_DOWN carries the release tick, or a part of the combined payload, down the tree; or it is discarded. -/
def takeBarDown (p : Packet) (s : State) : State :=
  match barOf s p with
  | none => barDisc s
  | some k =>
    if pktW1 p 21 6 ≠ barGen s k || !barSent s k || barRoot s k then barDisc s
    else if p.payload.length ≤ 1 then
      if (bar s k).release.isSome then barDisc s
      else
        let tr := pktWord p 0
        let s := barComplete s k tr
        lateRelease (sendBarDown s k tr) k tr
    else
      let lo := 8 * pktW1 p 25 22
      let n := p.payload.length
      let s := modBar s k (fun x => { x with payload := payloadOr x.payload (wordsAt p lo),
                                             frags := x.frags ++ (List.range (cdiv n 8)).map (fun i => downGroup (lo / 8 + i)) })
      let s := sendDownPayload s k lo n
      match (bar s k).release with
      | some tr => if releaseTick s k tr < tickNow s && downDone s k then releaseBar s k else s
      | none => s

def execBarDownReceive (s : State) : Out := .next (receiveType 7 takeBarDown s)

/-- At the release tick the station releases the generation. -/
def execBarrierRelease (b : BarrierId) (s : State) : Out :=
  let k := barKey b
  match (bar s k).release with
  | some tr => if isFrozen s || tickNow s < releaseTick s k tr || !downDone s k then .next s else .next (releaseBar s k)
  | none => .next s

end Sys2Proof.Machine
end

