-- ==== Sys2Proof/Machine/Integrity.lean ====
section
/-! DEFINITION. The scrubber (R271 to R273), the location table's drops (R266), retirement records (R268, R270), the Field Book's writes
(R274 to R278) and the conservation check (R470, R471). -/

namespace Sys2Proof.Machine

/-- A Meridian WRITE or HC3 (R281, R406). -/
def fromHc3 (src : Source) (s : State) : Bool := !isFrozen s && (src == .meridian || (src == .core 3 && coreRuns s 3))

/-! ### The Field Book (R274, R277, R278) -/

def fbBase : Nat := 0x7E0000C00000
def fbEntryBytes (e : FbEntry) : List Byte :=
  leBytes 8 e.tick ++ leBytes 2 e.source ++ leBytes 2 e.code ++ leBytes 4 e.a0 ++ leBytes 8 e.a1 ++ leBytes 8 e.a2

/-- The oldest queued entry is written at the next index; a fatal one freezes the Field Book, and the entries behind it are lost. -/
def fbWriteOne (s : State) : State :=
  match s.fb with
  | [] => s
  | e :: rest =>
    if fbit s F.FBK_STAT.FROZEN then s
    else
      let n := fget s F.FBK_COUNT.COUNT
      let i := n % 8192
      let s := wrBytes { s with fb := rest } (fbBase + 32 * i) (fbEntryBytes e)
      let s := if 8192 ≤ n then fput s F.FBK_STAT.WRAPPED 1 else s
      let s := fadd s F.FBK_COUNT.COUNT 1
      if e.code < 0x8000 then s
      else
        let s := fput (fput s F.FBK_STAT.FROZEN 1) F.FBK_STAT.FREEZE_IDX i
        fsat { s with fb := [] } F.FBK_LOST.COUNT rest.length

/-- Up to four entries of the queue in one tick. -/
def execFieldBookWrite (s : State) : Out :=
  if isFrozen s then .next s
  else
    let done := if s.fbTick = s.tick then s.fbDone else 0
    let n := min (4 - done) s.fb.length
    .next { foldRange n (fun s _ => fbWriteOne s) s with fbTick := s.tick, fbDone := done + n }

/-- THAW: from Meridian WRITE and SMBus only (R278, R284). -/
def thawWrite (src : Source) (v : Nat) (s : State) : State :=
  if isFrozen s || !(src == .meridian || src == .smbus) || v % 2 = 0 then s else fput s F.FBK_STAT.FROZEN 0

def execThaw (src : Source) (v : BitVec 32) (s : State) : Out := .next (thawWrite src v.toNat s)

/-! ### The scrubber (R271 to R273) -/

/-- A pass starts, or is rejected. -/
def scrubStart (s : State) : State :=
  let a := fget s F.ECC_SCR_ADDR.ADDR
  let n := fget s F.ECC_SCR_LEN.BYTES
  let r := fget s F.ECC_SCR_REC.ADDR
  let ok := !fbit s F.ECC_SCR_STAT.BUSY && n ≠ 0 && a % 8 = 0 && n % 8 = 0 && inOneRow s a n && r % 64 = 0 &&
    (within r 192 0 (memTop s) || within r 192 0x7E0000000000 0x7E0001000000) && !overlaps r 192 a (a + n)
  if ok then
    let s := fput (fput (fput s F.ECC_SCR_STAT.BUSY 1) F.ECC_SCR_STAT.REJECTED 0) F.ECC_SCR_STAT.ABORTED 0
    { s with integ := { s.integ with scrub := some ⟨s.tick, tickNow s, fget s F.ECC_SCR_CTL.MODE, a, n, r⟩ } }
  else fbOffer (fput s F.ECC_SCR_STAT.REJECTED 1) (srcCore 3) 0x040A (reg s .ECC_SCR_CTL).toNat a n

def scrubWrite (src : Source) (v : Nat) (s : State) : State := if fromHc3 src s && v % 2 = 1 then scrubStart s else s

def execScrubGo (src : Source) (v : BitVec 32) (s : State) : Out := .next (scrubWrite src v.toNat s)

/-- A word in error that a pass met: address, syndrome, kind 1 CE, 2 UE, 3 POISON. -/
abbrev Found := Nat × Byte × Nat

/-- A correctable word: in mode 1 it is written back, in mode 0 only counted and entered (R266, R272). -/
def scrubCe (s : State) (mode w : Nat) (syn : Byte) : State :=
  if mode = 1 then reportCe s w syn
  else
    let (kind, loc) := placeOf s w
    enterCe s kind loc syn false

/-- The scrubber reads one listed word. -/
def scrubWord (mode : Nat) (x : State × List Found) (e : Nat × Byte) : State × List Found :=
  match classOf e.2 with
  | .clean => x
  | .poison => (fadd x.1 F.ECC_POISONCNT.COUNT 1, x.2 ++ [(e.1, e.2, 3)])
  | .ue =>
    let (n, s) := drawFree x.1
    let syn := Config.retrySyndrome n e.1 e.2
    match classOf syn with
    | .clean => ({ retried s with syn := ndel s.syn e.1 }, x.2)
    | .poison => ({ fadd s F.ECC_POISONCNT.COUNT 1 with syn := nset s.syn e.1 0x7F }, x.2 ++ [(e.1, syn, 3)])
    | .ue => (reportUe s (srcCore 3) e.1 syn, x.2 ++ [(e.1, syn, 2)])
    | _ => (scrubCe (retried s) mode e.1 syn, x.2 ++ [(e.1, syn, 1)])
  | _ => (scrubCe x.1 mode e.1 e.2, x.2 ++ [(e.1, e.2, 1)])

/-- The scrubber reads words that are listed. -/
def scrubWords (mode lo hi : Nat) (x : State × List Found) : State × List Found := (storedIn x.1 lo hi).foldl (scrubWord mode) x

/-- The scrubber reads a segment of LPDDR5X: its tag, and its words unless the tag mismatches, which makes each of them a UE (R272). -/
def scrubSegment (mode : Nat) (x : State × List Found) (g : Nat) : State × List Found :=
  let lo := g * 448
  match nget x.1.tags g with
  | none => scrubWords mode lo (lo + 448) x
  | some t =>
    if tagOwn g t then
      let (kind, loc) := placeOf x.1 lo
      let s := enterCe x.1 kind loc (syndromeOf t) (mode == 1)
      scrubWords mode lo (lo + 448) (if mode = 1 then { s with tags := ndel s.tags g } else s, x.2)
    else
      let (n, s) := drawFree x.1
      if Config.retryTag n g then scrubWords mode lo (lo + 448) ({ retried s with tags := ndel s.tags g }, x.2)
      else (foldRange 56 (fun s k => reportUe s (srcCore 3) (lo + 8 * k) (syndromeOf t)) s,
            x.2 ++ (List.range 56).map (fun k => (lo + 8 * k, syndromeOf t, 2)))

/-- What a pass over [a, a + n) finds; in LPDDR5X it reads whole segments (R272; assumption log 78). -/
def scrubRange (mode a n : Nat) (s : State) : State × List Found :=
  if n = 0 then (s, [])
  else if a < 0x400000000000
  then (badSegments s (a / 448 * 448) (cdiv (a + n) 448 * 448)).foldl (scrubSegment mode) (s, [])
  else scrubWords mode a (a + n) (s, [])

/-- The summary record (R273). -/
def scrubRecord (s : State) (x : Scrub) (words status : Nat) (l : List Found) : List Byte :=
  let count := fun (k : Nat) => (l.filter (fun f => f.2.2 == k)).length
  let first := l.take 16
  leBytes 8 words ++ leBytes 4 (count 1) ++ leBytes 4 (count 2) ++ leBytes 4 (count 3) ++ leBytes 2 first.length ++
  leBytes 1 x.mode ++ leBytes 1 status ++ leBytes 8 (s.tick - x.tick) ++ leBytes 8 x.start ++ leBytes 8 x.addr ++ leBytes 8 x.len ++ zeros 8 ++
  first.flatMap (fun f => leBytes 8 (f.1 % 2 ^ 48 + f.2.1.toNat * 2 ^ 48 + f.2.2 * 2 ^ 56)) ++ zeros (8 * (16 - first.length))

/-- A pass ends after a number of words (R272, R285): 0 complete, 1 stopped. -/
def endScrub (s : State) (x : Scrub) (words status : Nat) : State :=
  let (s, l) := scrubRange x.mode x.addr (8 * words) s
  let s := wrBytes s x.rec_ (scrubRecord s x words status l)
  let s := fbOffer s (srcCore 3) 0x0409 status x.rec_ words
  fput { s with integ := { s.integ with scrub := none } } F.ECC_SCR_STAT.BUSY 0

def execScrubDone (s : State) : Out :=
  match s.integ.scrub with
  | some x => if !coreActs s 3 || isStopped s then .next s else .next (endScrub s x (x.len / 8) 0)
  | none => .next s

/-- A coolant-flow stop ends the pass; how far it has come is not stated (R285). -/
def stopScrub (s : State) : State :=
  match s.integ.scrub with
  | some x =>
    let (k, s) := drawFree s
    endScrub s x ((Config.freeWord k).toNat % (x.len / 8 + 1)) 1
  | none => s

/-! ### Places and retirements (R266, R268, R270) -/

/-- An entry of the location table is dropped 2^40 ticks after its last event. -/
def execLocationDrop (i : Nat) (s : State) : Out :=
  match s.integ.places[i]? with
  | some p =>
    if !coreActs s 3 || s.tick < p.last + 2 ^ 40 then .next s
    else .next { s with integ := { s.integ with places := s.integ.places.eraseIdx i } }
  | none => .next s

/-- A lane that a record lists stays out from the retraining that starts at once (R268, R291). -/
def retireLane (s : State) (e : RetEntry) : State :=
  let n := e.loc % 256
  if 24 ≤ n then s
  else
    let s := pput s F.LNK_PSTAT.RETIRED (pget s F.LNK_PSTAT.RETIRED n ||| 2 ^ (e.loc / 256 % 4)) n
    retrain (pset s F.LNK_PEVT.LANE_RETIRED n) n

/-- What takes effect once its record is written (R268): lanes, edge-cache and hub SRAM lines, lines of clusters without a run. -/
def retireNow (s : State) : State :=
  let lanes := s.integ.recorded.filter (fun e => e.kind == 4)
  let s := takeEffect s (fun e => e.kind == 4 || lineNow s none e)
  lanes.foldl retireLane s

/-- HC3 writes a new record with the places declared since, channels apart, which wait for a boundary (R234); what may take effect at once
does so. -/
def execRetirementRecordWrite (s : State) : Out :=
  if coreActs s 3 then .next (retireNow (recordPlaces s (fun d => d.1 ≠ 3))) else .next s

/-! ### Conservation (R470, R471) -/

/-- Sum of a register field over indices 0 to n - 1. -/
def sumOf (s : State) (f : Fld) (n : Nat) : Nat := ((List.range n).map (fun i => fget s f i)).sum

/-- One row of the table: its number, left and right side. -/
abbrev Identity := Nat × Nat × Nat

def stashIdentities (s : State) : List Identity :=
  (List.range 32).map (fun c =>
    (9, fget s F.SEQ_STH_USED.GRAN 0 c, (((clu s c).stash.filter (fun e => !e.2.spill)).map (·.2.gran)).sum)) ++
  (List.range 8).map (fun p => (9, ((clustersOf s p).map (fun c => fget s F.SEQ_STH_SPILLG.GRAN 0 c)).sum, fget s F.HUB_STH_SPILLUSED.GRAN p))

def energyIdentities (s : State) : List Identity :=
  let total := fget s F.PWR_TOTAL.UJ
  [(11, (((List.range 8).map (fun p => acctSum s p)).sum + fget s F.PWR_POOL.UJ) % 2 ^ 64, total),
   (11, total, (sumOf s F.PWR_DOM.UJ 50 + sumOf s F.PWR_MEM.UJ 8) % 2 ^ 64)]

/-- The identities that HC3 checks. -/
def identities (s : State) : List Identity :=
  (6, fget s F.PWR_TOK_STAT.TOKENS + fget s F.PWR_TOK_GRANT.COUNT, 64 + fget s F.PWR_TOK_REFILL.COUNT) ::
  (8, s.recOffered, s.recAcked + ((List.range 8).filter (fun i => mbxFull s (48 + i))).length +
    ((List.range 8).map (fun i => (ngetD [] s.records i).length)).sum + fget s F.MBX_LOST.COUNT) ::
  (stashIdentities s ++
   (List.range 32).map (fun c => (10, fget s F.SEQ_ROW_STAT.SIDE_USED 0 c, (clu s c).side.length)) ++
   energyIdentities s ++
   [(12, s.fbOffered, fget s F.FBK_COUNT.COUNT + fget s F.FBK_LOST.COUNT + s.fb.length)])

/-- HC3 latches the terms and compares; a failed check is fatal for the Field Book and asserts ALERT_n. -/
def conserve (s : State) : State :=
  match (identities s).find? (fun x => x.2.1 ≠ x.2.2) with
  | some (row, l, r) => alert (fbOffer s (srcCore 3) 0x8B01 row l r) F.HUB_ALERT.CONSERVE
  | none => s

def execConserveCheck (s : State) : Out := if coreActs s 3 then .next (conserve s) else .next s

end Sys2Proof.Machine
end

