-- ==== Sys2Proof/Machine/Power.lean ====
section
/-! DEFINITION. Power, energy and cooling (chapter 13): measurement and accounts, the governor, droop, wake tokens, domains, the stop. -/

namespace Sys2Proof.Machine

def modPower (s : State) (f : Power → Power) : State := { s with power := f s.power }

/-! ### Measurement and accounts (R382 to R387) -/

/-- An account gains energy. -/
def creditAcct (s : State) (p cat n : Nat) : State := fadd s (acctFld cat) n p

/-- Activity of account (p, cat) in a sample. -/
def activityOf (l : List Activity) (p cat : Nat) : Nat := ((l.filter (fun a => a.p.val == p && a.cat.val == cat)).map (·.amount)).sum

/-- R387: whole shares to the accounts, the rest to the pool. -/
def splitEnergy (s : State) (de : Nat) (x : Sampled) : State :=
  let total := (x.acts.map (·.amount)).sum + x.untagged
  if total = 0 then fadd s F.PWR_POOL.UJ de
  else
    let keys := (List.range 8).flatMap (fun p => (List.range 5).map (fun c => (p, c)))
    let share := fun (k : Nat × Nat) => de * activityOf x.acts k.1 k.2 / total
    let s := keys.foldl (fun s k => creditAcct s k.1 k.2 (share k)) s
    fadd s F.PWR_POOL.UJ (de - (keys.map share).sum)

/-- Categories among which a shared counter is split: five for the uncore, CORE, DMA and UPD for an edge die, LINK and RED for a link die (R386). -/
def catsOf (j : Nat) : List Nat := if j < 36 then [0, 1, 2, 3, 4] else if j < 44 then [0, 1, 4] else [2, 3]

/-- The activity that can split counter j. -/
def activityFor (j : Nat) (x : Sampled) : Sampled := { x with acts := x.acts.filter (fun a => (catsOf j).contains a.cat.val) }

/-- Who gets the energy of domain j (R386). -/
def settleDomain (s : State) (j de : Nat) (x : Sampled) : State :=
  if j < 32 then
    match partOf s j with
    | some p => creditAcct s p 0 de
    | none => fadd s F.PWR_POOL.UJ de
  else if j < 48 then splitEnergy s de (activityFor j x)
  else fadd s F.PWR_POOL.UJ de

/-- The whole µJ that a counter gains in a sample, with its residue (R383). -/
def gain (s : State) (key : Nat) (x : Sampled) : State × Nat :=
  let r := ngetD 0 s.power.residue key + x.mv * x.ma
  (modPower s (fun y => { y with residue := nput 0 y.residue key (r % 1000000) }), r / 1000000)

def sampleDomain (s : State) (j : Nat) (x : Sampled) : State :=
  let (s, de) := gain s j x
  let s := fput (fput s F.PWR_SAMP.MV (min x.mv 65535) j) F.PWR_SAMP.MA (min x.ma 65535) j
  settleDomain (fadd (fadd s F.PWR_DOM.UJ de j) F.PWR_TOTAL.UJ de) j de x

/-- Memory rail e is split by the activity of its edge die, as PD36 + e is (R386). -/
def sampleMem (s : State) (e : Nat) (x die : Sampled) : State :=
  let (s, de) := gain s (50 + e) x
  splitEnergy (fadd (fadd s F.PWR_MEM.UJ de e) F.PWR_TOTAL.UJ de) de (activityFor (36 + e) die)

def sampleInput (s : State) (x : Sampled) : State :=
  let (s, de) := gain s 58 x
  fadd s F.PWR_IN.UJ de

/-- The samples of one µs, in ticks that are multiples of 125 (R382); what each die moved in that µs comes with them (assumption log 79). -/
def execEnergySample (x : EnergySample) (s : State) : Out :=
  if isFrozen s || s.tick % 125 ≠ 0 || s.power.sampled = s.tick + 1 then .next s
  else
    let s := modPower s (fun y => { y with sampled := s.tick + 1 })
    let s := ((x.doms.take 50).zip (List.range 50)).foldl (fun s d => sampleDomain s d.2 d.1) s
    let s := ((x.mems.take 8).zip (List.range 8)).foldl (fun s d => sampleMem s d.2 d.1 (nth x.doms (36 + d.2) ⟨0, 0, [], 0⟩)) s
    .next (sampleInput s x.input)

/-! ### Settings and the core voltage (R390, R392) -/

/-- CORECLK divisor of a code. -/
def divisorOf (d : Nat) : Nat := nth [8, 9, 10, 11, 12, 14, 16, 20] d 16

/-- Setting a has the higher effective frequency, or the same and the smaller skip count. -/
def ranksAbove (a b : Nat × Nat) : Bool :=
  let x := (16 - a.2) * divisorOf b.1
  let y := (16 - b.2) * divisorOf a.1
  y < x || (x == y && a.2 < b.2)

def insertSetting (a : Nat × Nat) : List (Nat × Nat) → List (Nat × Nat)
  | [] => [a]
  | b :: t => if ranksAbove a b then a :: b :: t else b :: insertSetting a t

/-- The 64 settings, highest first. -/
def settings : List (Nat × Nat) :=
  ((List.range 8).flatMap (fun d => (List.range 8).map (fun j => (d, j)))).foldr insertSetting []

def rankOf (x : Nat × Nat) : Nat := (settings.findIdx? (· == x)).getD 63

/-- One step lower in the order. -/
def stepBelow (x : Nat × Nat) : Nat × Nat := nth settings (min 63 (rankOf x + 1)) (7, 7)

/-- The lower of two settings. -/
def lowerOf (a b : Nat × Nat) : Nat × Nat := if rankOf a < rankOf b then b else a

/-- The setting in force. -/
def setting (s : State) : Nat × Nat := (fget s F.PWR_GOV_STAT.DIV, fget s F.PWR_GOV_STAT.SKIP)

/-- How an entry's argument gives a setting: divisor code, then skip count, as PWR_GOV_STAT orders them. -/
def settingCode (x : Nat × Nat) : Nat := 8 * x.1 + x.2

/-- Core voltage of a divisor code, in 0.04 mV, with the margin that the last change of setting took (R390, R407). -/
def voltOf (s : State) (d : Nat) : Nat := 25 * (fget s F.PWR_VF.MV d + s.power.margin)

/-- A change of setting takes PWR_VCFG.MARGIN (R407). -/
def takeMargin (s : State) : State := modPower s (fun y => { y with margin := sget s F.PWR_VCFG.MARGIN })

/-- The core voltage now: 10 mV per µs is 2 units a tick. -/
def voltNow (s : State) : Nat :=
  let y := s.power
  let k := 2 * (s.tick - y.vTick)
  if y.vFrom ≤ y.vTo then min y.vTo (y.vFrom + k) else max y.vTo (y.vFrom - k)

/-- A ramp toward a voltage starts. -/
def rampTo (s : State) (v : Nat) : State :=
  if s.power.vTo = v then s else modPower s (fun y => { y with vFrom := voltNow s, vTo := v, vTick := s.tick })

/-- The configuration record has been loaded and measured: PWR_VF and PWR_IDLE hold (R435, R446, R447). -/
def vfKnown (s : State) : Bool := (nget s.boot.digests 5).isSome

/-! ### The governor (R391 to R395, R401) -/

/-- est(x) ≤ p_t, in 1/100 W and cross-multiplied: gain is the input energy of the last period in µJ. -/
def estFits (s : State) (lim gain : Nat) (x : Nat × Nat) : Bool :=
  let cur := setting s
  let ps : Int := 100 * fget s F.PWR_IDLE.WATTS
  let d : Int := divisorOf x.1 * (16 - cur.2)
  (10 * (gain : Int) - ps) * ((16 - x.2) * divisorOf cur.1 : Nat) ≤ ((lim : Int) - ps) * d

/-- p_t in 1/100 W: the history holds PWR_IN at period boundaries, newest first. -/
def budget (s : State) : Nat :=
  let cap := sget s F.PWR_CAP.CAP
  let win := sget s F.PWR_CAP.WINDOW
  let e := nth s.power.hist 0 0 - nth s.power.hist (100 * win - 1) 0
  min (10 * (cap * win * 1000 - e)) (sget s F.PWR_CAP.PEAK * cap)

/-- Junction temperatures: the hottest sensor to PWR_THERM, throttling at 100 °C until 97 °C (R401). -/
def readSensors (s : State) (l : List Sensor) : State :=
  match l with
  | [] => s
  | x :: t =>
    let hot := t.foldl (fun (a : Sensor) b => if a.tj.toNat < b.tj.toNat then b else a) x
    let tj := hot.tj.toNat
    let s := fput (fput s F.PWR_THERM.SOURCE hot.source.toNat) F.PWR_THERM.TJ tj
    let low := stepBelow (setting s)
    if 400 ≤ tj then
      match s.power.ceiling with
      | some c => modPower s (fun y => { y with ceiling := some (lowerOf c low) })
      | none =>
        let s := fput (fset s F.PWR_EVT.THROTTLE) F.PWR_GOV_STAT.THROTTLE 1
        fbOffer (modPower s (fun y => { y with ceiling := some low })) srcGovernor 0x0802 hot.source.toNat tj (settingCode (setting s))
    else if s.power.ceiling.isSome && tj ≤ 388 then
      fbOffer (modPower (fput s F.PWR_GOV_STAT.THROTTLE 0) (fun y => { y with ceiling := none })) srcGovernor 0x0803 hot.source.toNat tj (settingCode (setting s))
    else s

/-- A new target: a change becomes pending, or none is left; a raise of the voltage starts to ramp (R391, R392). -/
def setTarget (s : State) (x : Nat × Nat) : State :=
  if x = setting s then
    rampTo (fput (modPower s (fun y => { y with pending := none })) F.PWR_GOV_STAT.PENDING 0) (voltOf s (setting s).1)
  else
    let same := s.power.pending = some x
    let s := if same then s else modPower (takeMargin s) (fun y => { y with pending := some x, pendSince := s.tick, waitLogged := false })
    rampTo (fput s F.PWR_GOV_STAT.PENDING 1) (max (voltOf s (setting s).1) (voltOf s x.1))

/-- CAP_UNMET, in the Field Book once per 125,000,000 ticks. -/
def capUnmet (s : State) (lim gain : Nat) : State :=
  let s := fput (fset s F.PWR_EVT.CAP_UNMET) F.PWR_GOV_STAT.CAP_UNMET 1
  let due : Bool := match s.power.unmetLogged with
    | some t => t + 125000000 ≤ s.tick
    | none => true
  if due then fbOffer (modPower s (fun y => { y with unmetLogged := some s.tick })) srcGovernor 0x0801 (sget s F.PWR_CAP.CAP) (lim / 100) (gain / 10) else s

/-- DROOP_WAIT: a change that has waited more than 100 periods (R395). -/
def droopWait (s : State) : State :=
  match s.power.pending with
  | some x =>
    if s.power.waitLogged || s.tick ≤ s.power.pendSince + 125000 then s
    else
      let s := fset (modPower s (fun y => { y with waitLogged := true })) F.PWR_EVT.DROOP_WAIT
      fbOffer s srcGovernor 0x0808 (settingCode x) ((s.tick - s.power.pendSince) / 1250) s.power.lastTrip
  | none => s

/-- The power of the last period (R391, R407). -/
def showLast (s : State) : State := fput s F.PWR_GOV_STAT.P_LAST (min 2047 ((nth s.power.hist 0 0 - nth s.power.hist 1 0) / 10))

/-- The target of a period (R391). -/
def chooseTarget (s : State) : State :=
  let gain := nth s.power.hist 0 0 - nth s.power.hist 1 0
  let lim := budget s
  let (s, x) := match settings.find? (estFits s lim gain) with
    | some x => (fput s F.PWR_GOV_STAT.CAP_UNMET 0, x)
    | none => (capUnmet s lim gain, (7, 7))
  let x := match s.power.ceiling with
    | some c => lowerOf x c
    | none => x
  droopWait (setTarget s x)

/-! ### The stop and the restart (R402 to R404) -/

/-- A partition at a stop: its run is abandoned without a trap and without a verdict, also one that waits for its verdict (R131); gathers are
discarded (R339); the stash is emptied when the step is issued again (R162); a station that waits at the commit barrier stays there (R379). -/
def stopPart (s : State) (p : Nat) : State :=
  let x := part s p
  let s := if x.running || (x.committing && !atCommit s p) || x.atVerdict then endRun (stopRun s p) p else s
  abortStaging (countGathers (modPart s p (fun y => { y with atVerdict := false, gathers := [] })) p) p 3

/-- What a stop does in its tick: runs, broadcast, gathers, staging and the scrubber end. -/
def stopWork (s : State) : State := stopScrub (foldRange 8 stopPart s)

/-- The P40 stops: cause 1 coolant, 2 thermal; the Field Book follows in the next tick. A second cause is recorded beside the first. -/
def stopP40 (s : State) (cause : Nat) : State :=
  let s := fput s F.PWR_STOP_STAT.CAUSE (if isStopped s then fget s F.PWR_STOP_STAT.CAUSE ||| cause else cause)
  let s := if isStopped s then s else
    stopWork (modPower (fput s F.PWR_STOP_STAT.STOPPED 1) (fun y => { y with stopTick := s.tick }))
  let s := fset s (if cause = 1 then F.PWR_EVT.COOL_STOP else F.PWR_EVT.THERM_STOP)
  alert (modPower s (fun y => { y with stopLog := y.stopLog ++ [cause] })) F.HUB_ALERT.STOP

/-- A cause that has not stopped the P40 yet. -/
def newCause (s : State) (cause : Nat) : Bool := !isStopped s || fget s F.PWR_STOP_STAT.CAUSE &&& cause = 0

/-- A period boundary: temperatures, the stop at 115 °C, the history, the target. Before the configuration record is loaded no target is
chosen. -/
def execGovernorPeriod (sensors : List Sensor) (s : State) : Out :=
  if isFrozen s || s.tick % 1250 ≠ 0 || s.power.period = s.tick + 1 then .next s
  else
    let s := modPower s (fun y => { y with period := s.tick + 1, hist := (fget s F.PWR_IN.UJ :: y.hist).take 100001 })
    let s := readSensors (showLast s) sensors
    let s := if vfKnown s then chooseTarget s else s
    .next (if 460 ≤ fget s F.PWR_THERM.TJ && newCause s 2 && !sensors.isEmpty then stopP40 s 2 else s)

/-- COOL_OK has read low for 125 ticks in a row (R403). -/
def execCoolLoss (s : State) : Out :=
  if isFrozen s || s.power.coolLow < 125 || !newCause s 1 then .next s else .next (stopP40 s 1)

/-- PWR_RESTART (R404): only from a Meridian WRITE (R406). A start-up that waits for it goes on (R456). -/
def restartWrite (src : Source) (v : Nat) (s : State) : State :=
  if isFrozen s || src ≠ .meridian then s
  else
    let ok := fget s F.PWR_STOP_STAT.OK_TICKS
    let tj := fget s F.PWR_THERM.TJ
    let cause := fget s F.PWR_STOP_STAT.CAUSE
    if v % 65536 = 0x434C && isStopped s && fbit s F.PWR_STOP_STAT.COOL_OK && 125000000 ≤ ok && (cause < 2 || tj ≤ 360) then
      let s := fput s F.PWR_STOP_STAT.STOPPED 0
      let s := fput (fput (fput s F.PWR_GOV_STAT.DIV 6) F.PWR_GOV_STAT.SKIP 0) F.PWR_GOV_STAT.PENDING 0
      let s := takeMargin (modPower s (fun y => { y with pending := none, divTick := s.tick }))
      let s := rampTo s (voltOf s 6)
      let s := if s.boot.held = 3
        then { fput s F.HUB_BOOT_STAT.HELD 0 with boot := { s.boot with held := 0, since := s.tick } } else s
      fbOffer s srcGovernor 0x0806 cause (s.tick - s.power.stopTick) 0
    else fbOffer (fset s F.PWR_EVT.RESTART_REJECT) srcGovernor 0x0807 v ok tj

def execRestart (src : Source) (v : BitVec 32) (s : State) : Out := .next (restartWrite src v.toNat s)

/-! ### Changes of setting and droop (R392, R394, R395, R459) -/

/-- No cluster is in a droop hold, and 16 ticks have passed since the last hold ended. -/
def changePermitted (s : State) : Bool :=
  s.clusters.all (fun k => k.2.droopHold.isNone) &&
  (match s.power.lastHoldEnd with
   | some t => t + 16 ≤ s.tick
   | none => true)

/-- An aligned boundary of the divisor in force (R458). -/
def aligned (s : State) : Bool :=
  let d := divisorOf (setting s).1
  (s.tick - s.power.divTick) % (d / Nat.gcd 128 d) = 0

/-- The pending change takes effect; the voltage follows a lowering down. -/
def execSettingChange (s : State) : Out :=
  match s.power.pending with
  | none => .next s
  | some x =>
    if isFrozen s || !changePermitted s || !aligned s || voltNow s < voltOf s x.1 then .next s
    else
      let old := (setting s).1
      let s := fput (fput (fput s F.PWR_GOV_STAT.DIV x.1) F.PWR_GOV_STAT.SKIP x.2) F.PWR_GOV_STAT.PENDING 0
      let s := modPower s (fun y => { y with pending := none, divTick := if x.1 = old then y.divTick else s.tick })
      .next (rampTo s (voltOf s x.1))

/-- A droop detector of the cluster trips: its clock is stretched, or the hold starts again (R394). -/
def execDroopTrip (cl : ClusterIx) (s : State) : Out :=
  if isFrozen s then .next s
  else
    let s := fset (fsat s F.PWR_DROOP_CNT.COUNT 1) F.PWR_EVT.DROOP
    .next (modClu (modPower s (fun y => { y with lastTrip := cl.val })) cl.val (fun k => { k with droopHold := some s.tick }))

/-- HOLD ticks have passed without a trip in the cluster. -/
def execDroopHoldEnd (cl : ClusterIx) (s : State) : Out :=
  match (clu s cl.val).droopHold with
  | some t =>
    if isFrozen s || s.tick < t + sget s F.PWR_DROOP_CFG.HOLD then .next s
    else .next (modClu (modPower s (fun y => { y with lastHoldEnd := some s.tick })) cl.val (fun k => { k with droopHold := none }))
  | none => .next s

/-! ### Wake tokens and domains (R380, R381, R396 to R398) -/

/-- One token each tick while the bucket is not full. -/
def execTokenRefill (s : State) : Out :=
  if isFrozen s || s.power.refilled = s.tick + 1 then .next s
  else
    let s := modPower s (fun y => { y with refilled := s.tick + 1 })
    let n := fget s F.PWR_TOK_STAT.TOKENS
    if n < 64 then .next (fadd (fput s F.PWR_TOK_STAT.TOKENS (n + 1)) F.PWR_TOK_REFILL.COUNT 1) else .next s

/-- State of a cluster domain: 0 ON, 1 RETAIN, 2 WAKING (R407). -/
def domState (s : State) (c : Nat) : Nat := natBits (reg s .PWR_DOM_STAT).toNat (2 * c + 1) (2 * c)
def setDom (s : State) (c v : Nat) : State := setReg s .PWR_DOM_STAT (BitVec.ofNat 64 (natPut (reg s .PWR_DOM_STAT).toNat (2 * c + 1) (2 * c) v))

/-- Cost of a request: 1 for an engine start (R71), 8 for the optical engine, 16 for every other domain (R380). -/
def wakeCost (code : Nat) : Nat := if 64 ≤ code then 1 else if code = 48 then 8 else 16

/-- Engine starts granted in the 8 ticks that end now. -/
def recentStarts (s : State) : List Nat := s.power.grants.filter (fun t => s.tick < t + 8)

/-- The head of the queue may be granted now; grants follow the refill of the tick. -/
def canGrant (s : State) (w : WakeReq) : Bool :=
  s.power.refilled = s.tick + 1 && w.tick ≤ s.tick && wakeCost w.code ≤ fget s F.PWR_TOK_STAT.TOKENS &&
  (w.code < 64 || (recentStarts s).length < 16)

/-- Parts of a CORECLK cycle in which a start ramp is counted: every divisor divides it. -/
def rampUnit : Nat := 55440

/-- A grant: a domain starts to wake, an engine starts its pass with a ramp of 256 cycles (R71). -/
def grantWake (s : State) (w : WakeReq) (rest : List WakeReq) : State :=
  let s := fput s F.PWR_TOK_STAT.TOKENS (fget s F.PWR_TOK_STAT.TOKENS - wakeCost w.code)
  let s := fadd s F.PWR_TOK_GRANT.COUNT (wakeCost w.code)
  let s := fput (modPower s (fun y => { y with queue := rest })) F.PWR_TOK_STAT.QUEUED rest.length
  if w.code < 64 then
    let s := modPower s (fun y => { y with waking := nset y.waking w.code s.tick })
    if w.code < 32 then setDom s w.code 2 else s
  else
    let c := (w.code - 64) / 4
    let s := modPower s (fun y => { y with grants := recentStarts s ++ [s.tick] })
    match (clu s c).inflight.find? (fun o => o.id = w.op && !o.begun) with
    | some r => beginOp (modClu (fput s F.SEQ_MX_STAT.RAMP 1 (w.code % 4) c) c (fun k => { k with ramp := nset k.ramp (w.code % 4) (256 * rampUnit) })) c r
    | none => s

def execWakeGrant (s : State) : Out :=
  match s.power.queue with
  | w :: rest => if isFrozen s || !canGrant s w then .next s else .next (grantWake s w rest)
  | [] => .next s

/-- The near store of a cluster holds zero (R381). -/
def clearNear (s : State) (c : Nat) : State := zeroRange s (nearBase c) (nearBase c + 0x2000000)

/-- A woken domain is usable after its wake time; a cluster's near store reads zero whatever was written to it in RETAIN
(R381), and its engines have admitted no row since (R380, R396). -/
def execDomainWakeDone (d : DomainIx) (s : State) : Out :=
  match nget s.power.waking d.val with
  | some t =>
    if isFrozen s || s.tick < t + (if d.val < 32 then 250 else 500) then .next s
    else
      let s := modPower s (fun y => { y with waking := ndel y.waking d.val })
      if d.val < 32 then .next (modClu (setDom (clearNear s d.val) d.val 0) d.val (fun k => { k with lastRow := [] }))
      else .next (modPower s (fun y => { y with on := if y.on.contains d.val then y.on else y.on ++ [d.val] }))
  | none => .next s

/-- Registers of a sequencer block go to their reset values. -/
def resetSeq (s : State) (c : Nat) : State :=
  let lo := blockBase .SEQ + c * blockStride .SEQ
  { s with regs := ndelRange s.regs lo (lo + blockStride .SEQ) }

/-- What a cluster loses without power, as it stands when its domain wakes (R381): near store, accumulators, side memory, SEQ_ registers. The
deep store stays. -/
def losePower (s : State) (c : Nat) : State :=
  let s := resetSeq (clearNear s c) c
  modClu s c (fun k => { Cluster.reset with bells := k.bells, droopHold := k.droopHold })

/-- A LOAD of the partition is in progress. -/
def loading (s : State) (p : Nat) : Bool :=
  s.sess.any (fun x => x.2.started && (match x.2.cmds with
    | q :: _ => q.op == 1 && bNat q.data 0 8 % 8 == p
    | [] => false))

/-- A cluster may be put into RETAIN: no partition holds it, or its partition has no image (R381, R409). -/
def mayRetain (s : State) (c : Nat) : Bool :=
  domState s c = 0 &&
  (match partOf s c with
   | none => true
   | some p => (part s p).image.isNone && !loading s p)

/-- The value of PWR_DOM_CMD for an operation. -/
def domCmd (op clusters : Nat) : Nat := op * 2 ^ 62 + clusters

def retainOne (v : Nat) (s : State) (c : Nat) : State :=
  if domState s c = 1 then s
  else if mayRetain s c then setDom (losePower s c) c 1
  else fbOffer (fset s F.PWR_EVT.GATE_REJECT) (srcCore 3) 0x0809 v (reg s .PWR_DOM_STAT).toNat 0

/-- A RETAIN command for the clusters of a written value; a refused cluster's entry gives the value (R381, R405). -/
def retainClusters (s : State) (v : Nat) : State := (indicesWhere 32 (natBit v)).foldl (retainOne v) s

/-- A cluster in RETAIN asks to wake, once. -/
def wakeOne (s : State) (c : Nat) : State :=
  if domState s c = 1 && !s.power.queue.any (fun w => w.code == c) then requestWake s c 0 else s

def wakeClusters (s : State) (clusters : Nat) : State := (indicesWhere 32 (natBit clusters)).foldl wakeOne s

def execDomRetain (src : Source) (clusters : BitVec 32) (s : State) : Out :=
  .next (if fromHc3 src s then retainClusters s (domCmd 1 clusters.toNat) else s)

def execDomWake (src : Source) (clusters : BitVec 32) (s : State) : Out :=
  .next (if fromHc3 src s then wakeClusters s clusters.toNat else s)

/-- A write of PWR_DOM_CMD. -/
def domCmdWrite (s : State) (v : Nat) : State :=
  if natBits v 63 62 = 1 then retainClusters s v else if natBits v 63 62 = 2 then wakeClusters s (v % 2 ^ 32) else s

/-- The nearer limit. -/
def clampTo (lo hi v : Nat) : Nat := max lo (min hi v)

/-- PWR_CAP: out-of-range fields take the nearer limit; each write is logged (R389, R407). -/
def capWrite (src : Source) (v : Nat) (s : State) : State :=
  if !fromHc3 src s then s
  else
    let s := fput (holdReg s .PWR_CAP 0 0) F.PWR_CAP.PEAK (clampTo 100 125 (natBits v 31 24))
    let s := fput s F.PWR_CAP.WINDOW (clampTo 1 1000 (natBits v 23 14))
    let s := fput s F.PWR_CAP.CAP (clampTo 400 1200 (natBits v 10 0))
    fbOffer s (srcCore 3) 0x080A (reg s .PWR_CAP).toNat (if src = .meridian then 0 else 1) 0

def execPwrCapWrite (src : Source) (v : BitVec 32) (s : State) : Out := .next (capWrite src v.toNat s)

end Sys2Proof.Machine
end

