-- ==== Sys2Proof/Machine/Session.lean ====
section
/-! DEFINITION. Meridian sessions and their frames (R412 to R418), and what becomes of notices when their receiver is reset (R425), with
the doorbells (R426). -/

namespace Sys2Proof.Machine

/-! ### Frames (R412) -/

def sess (s : State) (i : Nat) : Sess := ngetD .reset s.sess i
def setSess (s : State) (i : Nat) (x : Sess) : State := { s with sess := nset s.sess i x }
def modSess (s : State) (i : Nat) (f : Sess → Sess) : State := setSess s i (f (sess s i))

/-- Port states of R411. -/
def mDOWN : Nat := 0
def mLOCK : Nat := 1
def mHELLO : Nat := 2
def mUP : Nat := 3

def merState (s : State) : Nat := fget s F.MBX_MER_STAT.STATE
def merVersion (s : State) : Nat := fget s F.MBX_MER_STAT.VERSION

/-- Largest payload of the agreed version (R415). -/
def frameLimit (s : State) : Nat := if merVersion s = 2 then 1024 else 256

def tHELLO : Nat := 1
def tCMD : Nat := 2
def tRSP : Nat := 3
def tEVENT : Nat := 4
def tCTRL : Nat := 5

/-- The 16 header bytes. -/
def frameHdr (ver type session : Nat) (nak last : Bool) (len seq ack credit op status tag : Nat) : List Byte :=
  leBytes 1 (ver % 16 * 16 + type % 16) ++ leBytes 1 (session % 16 * 16 + b2n nak * 2 + b2n last) ++ leBytes 2 len ++ leBytes 2 seq ++
  leBytes 2 ack ++ leBytes 1 credit ++ leBytes 1 op ++ leBytes 2 status ++ leBytes 4 tag

def mkFrame (hdr payload : List Byte) : Frame := ⟨hdr, payload, crc32 (hdr ++ payload)⟩

def frameCrcOk (f : Frame) : Bool := f.crc == crc32 (f.hdr ++ f.payload)
def frType (f : Frame) : Nat := bNat f.hdr 0 1 % 16
def frVer (f : Frame) : Nat := bNat f.hdr 0 1 / 16
def frSession (f : Frame) : Nat := bNat f.hdr 1 1 / 16
def frNak (f : Frame) : Bool := natBit (bNat f.hdr 1 1) 1
def frLast (f : Frame) : Bool := natBit (bNat f.hdr 1 1) 0
def frLen (f : Frame) : Nat := bNat f.hdr 2 2
def frSeq (f : Frame) : Nat := bNat f.hdr 4 2
def frAck (f : Frame) : Nat := bNat f.hdr 6 2
def frCredit (f : Frame) : Nat := bNat f.hdr 8 1
def frOp (f : Frame) : Nat := bNat f.hdr 9 1
def frTag (f : Frame) : Nat := bNat f.hdr 12 4

/-! ### The lane (R410) -/

def startWord : Nat := 0xA5A55A5A00004D52

/-- A frame on the lane: the start word, then header, payload and CRC in 8-byte words, the last one filled with zeros (assumption log 82). -/
def frameWords (f : Frame) : List Nat :=
  startWord :: (chunks 8 (f.hdr ++ f.payload ++ leBytes 4 f.crc.toNat ++ zeros 4)).map leNat

/-- Word k after a start word; idle words follow the last. -/
def laneWord (ws : List Nat) (k : Nat) : Nat := match ws[k]? with
  | some w => w
  | none => (Config.idleWord (k - ws.length)).toNat

/-- Payload words of the frame whose header stands at the front. -/
def lanePayload (ws : List Nat) : Nat := cdiv (bNat (leBytes 8 (laneWord ws 0)) 2 2) 8

/-- The frame after a start word, cut by its own LEN. -/
def laneFrame (ws : List Nat) : Frame :=
  let n := lanePayload ws
  ⟨leBytes 8 (laneWord ws 0) ++ leBytes 8 (laneWord ws 1), (List.range n).flatMap (fun k => leBytes 8 (laneWord ws (2 + k))),
   BitVec.ofNat 32 (laneWord ws (2 + n))⟩

/-- The frames a receiver finds in words from the lane: where a start word is expected, everything up to the next one is discarded, idle words
too. Fuel bounds the words. -/
def framesIn : Nat → List Nat → List Frame
  | 0, _ => []
  | _, [] => []
  | k + 1, w :: ws => if w = startWord then laneFrame ws :: framesIn k (ws.drop (3 + lanePayload ws)) else framesIn k ws

/-- What the receiver makes of a frame that comes alone. -/
def heard (f : Frame) : Frame := match framesIn (frameWords f).length (frameWords f) with
  | g :: _ => g
  | [] => f

/-- ACK of a session: the last SEQ accepted, one below 0 with none. -/
def ackOf (x : Sess) : Nat := x.lastIn.getD 0xFFFF

/-- A frame that waits for a credit: SEQ and ACK are set when it is sent. -/
def queueFrame (s : State) (i type : Nat) (last : Bool) (op status tag : Nat) (payload : List Byte) : State :=
  let h := frameHdr (merVersion s) type i false last payload.length 0 0 0 op status tag
  modSess s i (fun x => { x with outgoing := x.outgoing ++ [mkFrame h payload] })

/-- A CTRL frame goes out at once: it needs no credit (R414). -/
def sendCtrl (s : State) (i : Nat) (nak : Bool) (credit : Nat) : State :=
  let h := frameHdr (merVersion s) tCTRL i nak false 0 0 (ackOf (sess s i)) credit 0 0 0
  fadd (modSess s i (fun x => { x with ctrl := some (mkFrame h []) })) F.MBX_MER_TXFR.COUNT 1

/-- An EVENT frame with a notice, with version 2 agreed (R415, R424, R425). -/
def pushEvent (s : State) (i : Nat) (notice : Word) : State :=
  if merState s = mUP && merVersion s = 2 then queueFrame s i tEVENT true 0 0 0 (leBytes 8 notice.toNat) else s

/-! ### Answers (R416, R418, R419) -/

def stOK : Nat := 0
def stNAK_BUS : Nat := 1
def stNAK_FULL : Nat := 2
def stNAK_STATE : Nat := 3
def stNAK_ARG : Nat := 4
def stUE : Nat := 5
def stPOISON : Nat := 6
def stNAK_CLOSED : Nat := 7
def stREJECT : Nat := 8

/-- RSP frames of one answer, the last marked. -/
def queueFrames (i op tag : Nat) : List (Nat × List Byte) → State → State
  | [], s => s
  | [f], s => queueFrame s i tRSP true op f.1 tag f.2
  | f :: fs, s => queueFrames i op tag fs (queueFrame s i tRSP false op f.1 tag f.2)

/-- The first command of a session ends: its TAG is shown; the answer to one that outlived a session reset is discarded (R418). -/
def popCommand (s : State) (i : Nat) (frames : List (Nat × List Byte)) : State :=
  match (sess s i).cmds with
  | [] => s
  | c :: rest =>
    let dead := (sess s i).dead
    let s := modSess s i (fun x => { x with cmds := rest, started := false, dead := false })
    let s := fput s F.MBX_SESS_TAG.TAG c.tag i
    if dead then s else queueFrames i c.op c.tag frames s

/-- The answer of a command that is not carried out: an unknown OP, a reserved sub-op, an operand block cut short; on a frozen P40 all but READOUT and
WRITE; before firmware runs all but READ, WRITE, FREEZE and READOUT (R419, R436, R473). -/
def autoAnswer (s : State) (c : MerCmd) : Option Nat :=
  if isFrozen s then (if c.op = 9 || c.op = 4 then none else some stNAK_STATE)
  else if c.op = 0 || 9 < c.op || c.data.length < 16 || (c.op = 5 && (bNat c.data 0 1 = 0 || 4 < bNat c.data 0 1)) then some stNAK_ARG
  else if !s.boot.fwRuns && (c.op < 3 || (4 < c.op && c.op < 8)) then some stNAK_STATE
  else none

/-- No response frame of an earlier command waits (R416). -/
def mayStart (s : State) (i : Nat) : Bool :=
  let x := sess s i
  x.started || !x.outgoing.any (fun f => frType f == tRSP)

/-- The command is the hub sequencer's (R416), or HC0 runs and can start it; on a frozen P40 the frame engine answers. -/
def hasServer (s : State) (c : MerCmd) : Bool := isFrozen s || c.op = 8 || c.op = 9 || coreRuns s 0

/-- Answer such commands as their turn comes: the previous command has sent its last response frame, and its server runs (R416, R419). -/
def settle : Nat → State → Nat → State
  | 0, s, _ => s
  | k + 1, s, i =>
    match (sess s i).cmds with
    | c :: _ =>
      if (sess s i).started || !mayStart s i || !hasServer s c then s
      else match autoAnswer s c with
        | some st => settle k (popCommand s i [(st, [])]) i
        | none => s
    | [] => s

/-- Every session's command at the front. -/
def settleAll (s : State) : State := foldRange 16 (fun s i => settle (sess s i).cmds.length s i) s

/-! ### Session reset (R418) -/

/-- Frames of a session that a reset discards. -/
def framesOf (x : Sess) : Nat := x.sent.length + x.outgoing.length

/-- The session starts anew with a grant of the peer; a command that has started runs on, its response will be discarded. -/
def resetSession (s : State) (i grant : Nat) (open_ : Bool) : State :=
  let x := sess s i
  let s := setSess s i { Sess.reset with cmds := if x.started then x.cmds.take 1 else [], started := x.started, since := x.since, dead := x.started }
  let s := fput s F.MBX_SESS_STAT.OPEN (b2n open_) i
  let s := fput s F.MBX_SESS_STAT.TXCRED (if open_ then grant else 0) i
  fput s F.MBX_SESS_STAT.RXFREE (if open_ then 8 else 0) i

/-- The command that HC0 has started is gone; no response frame follows it (R27; assumption log 74). -/
def dropStarted (x : Sess) : Sess :=
  if x.started then { x with cmds := x.cmds.drop 1, started := false, dead := false } else x

/-- The port leaves UP: MER_DOWN with its cause, every session is reset (R411). -/
def merLeave (s : State) (st cause : Nat) : State :=
  let n := ((List.range 16).map (fun i => framesOf (sess s i))).sum
  let s := foldRange 16 (fun s i => resetSession s i 0 false) s
  let s := fset s F.MBX_EVT.PORT_DOWN
  let s := fput (fput s F.MBX_MER_STAT.STATE st) F.MBX_MER_STAT.VERSION 0
  fbOffer { s with merSince := s.tick } (srcCore 0) 0x0902 cause n 0

/-! ### Doorbells (R426) -/

/-- Cluster c is in a run of its partition, also once its own streams have stopped (R190, R426). -/
def inRun (s : State) (c : Nat) : Bool := match partOf s c with
  | some p => (part s p).running
  | none => false

/-- Ring doorbell n of cluster c: COUNT of token k(192 + n) rises in a run, else the ring is held; false when 255 are held already. -/
def ringBell (s : State) (c n : Nat) : State × Bool :=
  let k := 192 + n
  let held := ngetD 0 (clu s c).bells n
  if inRun s c && held = 0 && !tokFull s c k 1 then (setTokCount (seeWrites s c) c k (tokCount s c k + 1), true)
  else if 255 ≤ held then (s, false)
  else
    let s := modClu s c (fun x => { x with bells := nset x.bells n (held + 1) })
    (setReg s .MBX_DB_PEND (BitVec.ofNat 64 (natPut (reg s .MBX_DB_PEND c).toNat n n 1)) c, true)

/-! ### Receiver reset (R425) -/

/-- Mailboxes that a core receives (R421). -/
def boxesOf (core : Nat) : List Nat :=
  if core = 0 then (List.range 16).map (fun i => 32 + i)
  else if core = 1 then List.range 32 ++ (List.range 8).map (fun i => 56 + i)
  else []

/-- The notice of a mailbox is gone. -/
def emptyBox (s : State) (n sstat : Nat) : State :=
  let s := fput (setReg (setReg s .MBX_DATA 0 n) .MBX_PEEK 0 n) F.MBX_STAT.FULL 0 n
  fput s F.MBX_STAT.SSTAT sstat n

/-- An abort notice of kind 8 with the mailbox number (R425). -/
def abortNotice (seq n : Nat) : Word := BitVec.ofNat 64 (2 ^ 60 + 8 * 2 ^ 56 + seq % 256 * 2 ^ 48 + n)

/-- A notice is cleared: ABORTED, MBX_ABORT, and the sender is told. -/
def abortBox (s : State) (n : Nat) : State :=
  if !mbxFull s n then s
  else
    let kind := fget s F.MBX_STAT.SKIND n
    let sender := fget s F.MBX_STAT.SENDER n
    let seq := fget s F.MBX_STAT.SEQ n
    let s := fset (emptyBox s n 3) F.MBX_EVT.ABORT
    let s := fbOffer s srcHubSeq 0x0904 n sender seq
    if kind = 0 then (ringBell s (sender % 32) 1).1
    else if kind = 1 then pushEvent s (sender % 16) (abortNotice seq n)
    else s

/-- The mailboxes of a core are cleared and closed. -/
def closeBoxes (s : State) (core : Nat) : State := (boxesOf core).foldl (fun s n => fput (abortBox s n) F.MBX_STAT.CLOSED 1 n) s

/-- They open again, and waiting notices of the sequencers are posted. -/
def openBoxes (s : State) (core : Nat) : State :=
  (boxesOf core).foldl (fun s n => let s := fput s F.MBX_STAT.CLOSED 0 n; if n < 32 then postWaiting s n else s) s

end Sys2Proof.Machine
end

