-- ==== Sys2Proof/Machine/Hub.lean ====
section
/-! DEFINITION. Management cores and their watchdogs (R22 to R27, R264), partitions (R31, R32) and windows (R229, R230). -/

namespace Sys2Proof.Machine

/-! ### Watchdogs and core resets -/

/-- A watchdog in ticks; HUB_WDT_LEFT shows whole µs (R24). -/
def setLeft (s : State) (n ticks : Nat) : State :=
  fput (modCore s n (fun x => { x with left := ticks })) F.HUB_WDT_LEFT.LEFT (ticks / 125) n

/-- Reload with TIMEOUT. -/
def reloadWdt (s : State) (n : Nat) : State := setLeft s n (125 * sget s F.HUB_WDT_CTL.TIMEOUT n)

/-- A kick by core n itself with the key (R24). -/
def kick (src : Source) (n : CoreIx) (v : Nat) (s : State) : State :=
  if src = .core n && !isFrozen s && coreRuns s n && v % 65536 = 0x4B4A then reloadWdt s n else s

def execWdtKick (src : Source) (n : CoreIx) (v : BitVec 32) (s : State) : Out := .next (kick src n v.toNat s)

/-- Resets of a core in the last second. -/
def recentResets (s : State) (n : Nat) : List Nat := (core s n).resets.filter (fun t => s.tick < t + 125000000)

def showRecent (s : State) (n : Nat) : State := fput s F.HUB_CORE_STAT.RECENT (min 255 (recentResets s n).length) n

/-- A fatal entry stops start-up (R455). -/
def stopStart (s : State) (code a0 a1 : Nat) : State := fbOffer (fput s F.HUB_BOOT_STAT.STOPPED 1) (srcCore 0) code a0 a1 0

/-- The stops of R432 and R434 assert ALERT_n too. -/
def stopBoot (s : State) (code a0 a1 : Nat) : State := alert (stopStart s code a0 a1) F.HUB_ALERT.BOOT_STOP

/-- Work that core n had in progress at its reset is discarded, and fails where its chapter has a failure for it (R27; assumption log 74):
commands of the Meridian port that HC0 has started, what HC2 does for Cairn, a scrubber pass. HC1's duties have no duration. -/
def discardWork (s : State) (n : Nat) : State :=
  match n with
  | 0 => { s with sess := s.sess.map (fun x => (x.1, dropStarted x.2)) }
  | 2 => foldRange 8 discardCairn s
  | 3 => if s.integ.scrub.isSome then fput { s with integ := { s.integ with scrub := none } } F.ECC_SCR_STAT.BUSY 0 else s
  | _ => s

/-- Core n runs again and takes up what waited for it (R20, R27). -/
def resumeWork (s : State) (n : Nat) : State :=
  match n with
  | 0 => settleAll s
  | 1 => foldRange 8 waitingAnswers s
  | 2 => foldRange 8 waitingCairn s
  | _ => s

/-- The hub sequencer resets core n (R26): counts, mailboxes, a Field Book entry with the given code and arguments after the core. Before
READY it stops start-up (R432). -/
def resetCore (s : State) (n code : Nat) (args : State → Nat × Nat) : State :=
  let s := fput s F.HUB_CORE_STAT.STATE 1 n
  let s := modCore s n (fun x => { x with resets := recentResets s n ++ [s.tick], since := s.tick })
  let s := showRecent (fsat s F.HUB_CORE_STAT.TOTAL 1 n) n
  let s := discardWork (closeBoxes s n) n
  let a := args s
  let s := if fbit s F.HUB_BOOT_STAT.READY || fbit s F.HUB_BOOT_STAT.STOPPED then s else stopBoot s 0x8A0A (fget s F.HUB_BOOT_STAT.PHASE) (s.tick - s.boot.since)
  fbOffer s (if code = 0x0101 then srcHubSeq else srcCore n) code n a.1 a.2

/-- The watchdog of a core has reached zero (R26). Until firmware runs, none counts. -/
def execCoreWdt (n : CoreIx) (pc : Word) (s : State) : Out :=
  if isFrozen s || !s.boot.fwRuns || !coreRuns s n || (core s n).left ≠ 0 then .next s
  else
    let s := fset s F.HUB_CORE_EVT.WDT_EXP (2 ^ n.val)
    let s := modCore s n (fun x => { x with lastPc := pc })
    .next (resetCore s n 0x0101 (fun s => (pc.toNat, fget s F.HUB_CORE_STAT.RECENT n)))

/-- A management core meets a bad word: counted by its class, and the core is reset (R264). -/
def execCoreUe (n : CoreIx) (addr : BitVec 48) (syndrome : BitVec 8) (s : State) : Out :=
  if isFrozen s || !coreRuns s n then .next s
  else
    match classOf syndrome with
    | .poison => .next (resetCore (fadd s F.ECC_POISONCNT.COUNT 1) n 0x040D (fun _ => (addr.toNat, syndrome.toNat)))
    | .ue => .next (resetCore (reportUe s (srcCore n) addr.toNat syndrome) n 0x040D (fun _ => (addr.toNat, syndrome.toNat)))
    | _ => .next s

/-- The firmware in hub SRAM agrees with its measurement (R26). -/
def imageIntact (s : State) : Bool := sha3 (rdBytes s 0x7E0000000000 s.boot.fwLen) == s.boot.fwDigest

/-- A core is held failed: cause 1 image check, 2 RECENT (R27). -/
def holdCore (s : State) (n cause : Nat) : State :=
  let s := fset (fput s F.HUB_CORE_STAT.STATE 2 n) F.HUB_CORE_EVT.HELD (2 ^ n)
  fbOffer (alert s F.HUB_ALERT.CORE_HELD) srcHubSeq 0x8102 n cause (fget s F.HUB_CORE_STAT.RECENT n)

/-- A core runs again from its entry point, its mailboxes open. -/
def releaseCore (s : State) (n : Nat) : State := resumeWork (openBoxes (reloadWdt (fput s F.HUB_CORE_STAT.STATE 0 n) n) n) n

/-- After the image check a reset core is released, or held (R26, R27). -/
def execCoreRestart (n : CoreIx) (s : State) : Out :=
  if isFrozen s || fget s F.HUB_CORE_STAT.STATE n ≠ 1 then .next s
  else if !imageIntact s then .next (holdCore s n 1)
  else if 3 ≤ fget s F.HUB_CORE_STAT.RECENT n then .next (holdCore s n 2)
  else .next (releaseCore s n)

/-- HUB_CORE_RELEASE: bit n restarts a core that is held failed and clears its RECENT (R25). -/
def releaseHeld (src : Source) (v : Nat) (s : State) : State :=
  if isFrozen s || !(src == .meridian || src == .smbus) then s
  else foldRange 4 (fun s n =>
    if natBit v n && fget s F.HUB_CORE_STAT.STATE n = 2
    then releaseCore (showRecent (modCore s n (fun x => { x with resets := [] })) n) n else s) s

def execCoreRelease (src : Source) (v : BitVec 32) (s : State) : Out := .next (releaseHeld src v.toNat s)

/-! ### Partitions and windows -/

/-- A Meridian WRITE or a management core that runs. -/
def fromHub (src : Source) (s : State) : Bool :=
  !isFrozen s && (match src with
    | .meridian => true
    | .core n => coreRuns s n
    | .smbus => false)

/-- The cases in which R32 rejects a new set of clusters. -/
def partRejects (s : State) (p new : Nat) : Bool :=
  let old := fget s F.HUB_PART.CLUSTERS p
  (part s p).image.isSome ||
  (List.range 32).any (fun c =>
    (natBit new c && (List.range 8).any (fun q => q ≠ p && natBit (fget s F.HUB_PART.CLUSTERS q) c)) ||
    (natBit new c != natBit old c && (fget s F.SEQ_STAT.STATE 0 c = 1 || !(clu s c).inflight.isEmpty)) ||
    (natBit new c && natBit (fget s F.ECC_STEST_CLU.WITHHELD) c))

def writePart (s : State) (p v : Nat) : State :=
  if partRejects s p (v % 2 ^ 32) then fbOffer (fput s F.HUB_PART.REJECTED 1 p) srcHubSeq 0x0103 p v 0
  else fput (fput s F.HUB_PART.CLUSTERS (v % 2 ^ 32) p) F.HUB_PART.REJECTED 0 p

def execPartWrite (src : Source) (p : PartIx) (v : Word) (s : State) : Out :=
  .next (if fromHub src s then writePart s p v.toNat else s)

/-- The cases in which R230 rejects a window. -/
def winRejects (s : State) (p base size : Nat) : Bool :=
  (part s p).image.isSome || memTop s < (base + size) * MiB ||
  (List.range 8).any (fun q => q ≠ p && size ≠ 0 && fget s F.HUB_WIN.SIZE q ≠ 0 && overlaps base size (fget s F.HUB_WIN.BASE q) (fget s F.HUB_WIN.BASE q + fget s F.HUB_WIN.SIZE q))

def writeWin (s : State) (p v : Nat) : State :=
  if winRejects s p (natBits v 27 0) (natBits v 59 32) then fbOffer (fput s F.HUB_WIN.REJECTED 1 p) srcHubSeq 0x0105 p v 0
  else
    let s := fput (fput (fput s F.HUB_WIN.BASE (natBits v 27 0) p) F.HUB_WIN.SIZE (natBits v 59 32) p) F.HUB_WIN.CACHE (natBits v 62 62) p
    fput s F.HUB_WIN.REJECTED 0 p

def execWinWrite (src : Source) (p : PartIx) (v : Word) (s : State) : Out :=
  .next (if fromHub src s then writeWin s p v.toNat else s)

end Sys2Proof.Machine
end

