-- ==== Sys2Proof/Machine/Mailbox.lean ====
section
/-! DEFINITION. The mailboxes as the management cores and the control node use them (R421 to R425), the posting of records (R424), and
doorbell rings (R426). -/

namespace Sys2Proof.Machine

/-- A management core receives a bus error: its firmware writes BUS_ERROR (R226). Other requesters are told by their own protocol. -/
def hubBusError (src : Source) (addr : Nat) (s : State) : State :=
  match src with
  | .core n => if !isFrozen s && coreRuns s n then fbOffer s (srcCore n) 0x0104 (srcCore n) addr 0 else s
  | _ => s

/-- A well-formed notice (R421). -/
def noticeOk (v : Word) : Bool :=
  let kind := bitsOf v 59 56
  bitsOf v 63 60 == 1 && 1 ≤ kind && kind ≤ 9 && bitsOf v 47 0 % 64 == 0

/-- A write of MBX_PUTn, and whether it is accepted: management cores post to mailboxes 48 to 63 (R421, R422). A notice to the control node
posted so counts as a record offered (assumption log 63). -/
def mbxPutWrite (src : Source) (n : Nat) (v : Word) (s : State) : State × Bool :=
  match src with
  | .core i =>
    if isFrozen s || !coreRuns s i || n < 48 || 64 ≤ n || mbxFull s n || mbxClosed s n then (s, false)
    else
      let s := mbxPost s n v 2 i
      if n < 56 then (pushEvent { s with recOffered := s.recOffered + 1 } (sget s F.MBX_MER_CFG.EVSESS) v, true) else (s, true)
  | _ => (s, false)

def execMbxPost (src : Source) (n : MbxIx) (v : Word) (s : State) : Out :=
  let r := mbxPutWrite src n.val v s
  .next (if r.2 then r.1 else hubBusError src (regAddr .MBX_PUT n.val 0) s)

/-- The core that receives a mailbox (R421): HC1, HC0, or HC0 for the control node. -/
def receiverOf (n : Nat) : Nat := if n < 32 || 56 ≤ n then 1 else 0

/-- The receiver takes the notice: ACKED, or ABORTED when it is malformed (R421, R422). -/
def takeBox (s : State) (n : Nat) : State :=
  if !mbxFull s n then s
  else
    let ok := noticeOk (reg s .MBX_DATA n)
    let s := emptyBox s n (if ok then 2 else 3)
    if n < 32 then postWaiting s n
    else if 48 ≤ n && n < 56 then { s with recAcked := s.recAcked + 1 } else s

/-- A read of MBX_DATAn: by the receiver; anyone else gets a bus error (R422). Mailboxes 48 to 55 are read by MBX GET only. -/
def execMbxDataRead (src : Source) (n : MbxIx) (s : State) : Out :=
  match src with
  | .core i =>
    if isFrozen s || !coreRuns s i then .next s
    else if i.val = receiverOf n.val && (n.val < 48 || 56 ≤ n.val) then .next (takeBox s n.val)
    else .next (hubBusError src (regAddr .MBX_DATA n.val 0) s)
  | _ => .next s

/-- The notice of a record (R421, R424). -/
def recordNotice (seq addr : Nat) : Word := BitVec.ofNat 64 (2 ^ 60 + 7 * 2 ^ 56 + seq % 256 * 2 ^ 48 + addr % 2 ^ 48)

/-- The firmware on HC0 posts the oldest unposted record of a ring while the mailbox is empty (R424). -/
def execRecordPost (i : RecordBoxIx) (s : State) : Out :=
  let n := 48 + i.val
  match ngetD [] s.records i.val with
  | a :: rest =>
    if !coreActs s 0 || mbxFull s n then .next s
    else
      let seq := ngetD 0 s.recSeq i.val
      let v := recordNotice seq a.toNat
      let s := { s with records := nput [] s.records i.val rest, recSeq := nput 0 s.recSeq i.val ((seq + 1) % 256) }
      let s := mbxPost (fput s F.MBX_QCNT.QUEUED rest.length i.val) n v 2 0
      .next (pushEvent s (sget s F.MBX_MER_CFG.EVSESS) v)
  | [] => .next s

/-- A write of MBX_DB_RINGc: management cores ring doorbells 2 to 63 (R426, R428). -/
def ringWrite (src : Source) (c : Nat) (v : Word) (s : State) : State :=
  match src with
  | .core i =>
    if isFrozen s || !coreRuns s i then s
    else (indicesWhere 64 (fun n => 2 ≤ n && bitOf v n)).foldl (fun s n => (ringBell s c n).1) s
  | _ => s

def execDoorbellRing (src : Source) (c : ClusterIx) (v : Word) (s : State) : Out := .next (ringWrite src c.val v s)

end Sys2Proof.Machine
end

