-- ==== Sys2Proof/Machine/Startup.lean ====
section
/-! DEFINITION. Start-up, firmware, identity and measurement (chapter 15): the phases RAILS to READY, and what stops or holds them. -/

namespace Sys2Proof.Machine

def phase (s : State) : Nat := fget s F.HUB_BOOT_STAT.PHASE

/-- Start-up is in phase k, neither stopped nor held, and the clocks run. -/
def inPhase (s : State) (k : Nat) : Bool :=
  phase s == k && !isFrozen s && !fbit s F.HUB_BOOT_STAT.STOPPED && !fbit s F.HUB_BOOT_STAT.HELD && !fbit s F.HUB_BOOT_STAT.READY

def modBoot (s : State) (f : Boot → Boot) : State := { s with boot := f s.boot }

/-- Start-up waits: 1 for an image, 2 on RECORD_BAD, 3 for a restart (R455). -/
def holdBoot (s : State) (why : Nat) : State := modBoot (fput s F.HUB_BOOT_STAT.HELD 1) (fun b => { b with held := why })

/-- What it waited for has come; its time does not count against the limit (R434, R437). -/
def unholdBoot (s : State) : State := modBoot (fput s F.HUB_BOOT_STAT.HELD 0) (fun b => { b with held := 0, since := s.tick })

/-- A phase ends and phase k begins; on a stopped P40 start-up holds there (R456). -/
def nextPhase (s : State) (k : Nat) : State :=
  let s := modBoot (fput s F.HUB_BOOT_STAT.PHASE k) (fun b => { b with since := s.tick })
  if isStopped s then holdBoot s 3 else s

/-- Limit of a phase in ticks (R433). -/
def phaseLimit (k : Nat) (warm : Bool) : Nat :=
  if k = 8 && warm then 625000000
  else nth [3125000, 1250000, 250000000, 375000000, 12500000, 125000, 25000, 6250000, 7500000000, 1250000] k 0

/-- A phase past its limit stops start-up; in RAILS no entry can be written and only STOPPED shows it (R434, R460). -/
def execBootTimeout (s : State) : Out :=
  let k := phase s
  if 10 ≤ k || !inPhase s k || s.tick < s.boot.since + phaseLimit k s.boot.warm then .next s
  else if k = 0 then .next (fput s F.HUB_BOOT_STAT.STOPPED 1)
  else .next (stopBoot s 0x8A0A k (s.tick - s.boot.since))

/-! ### Measurement (R447) -/

/-- HUB_MEASi show MEAS. -/
def showMeasure (s : State) : State :=
  foldRange 8 (fun s i => setReg s .HUB_MEAS (BitVec.ofNat 64 (bNat s.boot.measure (8 * i) 8)) i) s

/-- extend(k, d): MEAS := SHA3-512(MEAS ‖ k ‖ d) in a cold start; MEAS is frozen from READY on. The digest is kept for the report (R449). -/
def extend (s : State) (k : Nat) (d : List Byte) : State :=
  if s.boot.warm then s
  else showMeasure (modBoot s (fun b => { b with measure := sha3 (b.measure ++ leBytes 1 k ++ d), digests := nset b.digests k d }))

/-! ### Resets (R431) -/

/-- Ticks for which a cold reset of a powered P40 removes every domain: 100 ms. RAILS and its limit begin after them (R431, R433). -/
def offTicks : Nat := 12500000

/-- The state at the beginning of a cold reset: all but the queue, the flash and the free values at reset; last: what started it, 0 for input
power, which has been off. -/
def coldState (s : State) (last : Nat) : State :=
  modBoot (fput { State.reset with pending := s.pending, flash := s.flash, free := s.free } F.HUB_BOOT_STAT.LAST_RESET last)
    (fun b => { b with since := if last = 0 then 0 else offTicks })

/-- RAILS ends: tick 0 of the ticks and of TCK_NOW, identification pins sampled, the root PLL locked (R306, R433, R463, R485). -/
def startHub (s : State) (tray slot : BitVec 4) : State :=
  let t := s.tick
  let s := { s with tray := tray, slotId := slot, tick := 0 }
  let s := foldRange 4 (fun s d => fput (fput s F.LNK_STATION.TRAY tray.toNat 0 d) F.LNK_STATION.SLOT slot.toNat 0 d) s
  let s := setReg (fput (fput s F.HUB_CLK_STAT.ROOT_LOCK 1) F.HUB_CLK_STAT.REFCLK_OK 1) .TCK_NOW 0
  nextPhase (modBoot s (fun b => { b with start := (b.since : Int) - t })) 1

def execRails (tray : BitVec 4) (slot : BitVec 4) (s : State) : Out :=
  .next (if inPhase s 0 && s.boot.since ≤ s.tick then startHub s tray slot else s)

/-! ### ROM (R436) -/

/-- The root key agrees with the hash in ROM. -/
def rootOk (s : State) : Bool := sha3 (rootKey s) == fixLen 64 Config.rootHash

/-- The floor in force and the digest of its record; 0 and 64 zero bytes with none. -/
def floorNow (s : State) : Nat × List Byte :=
  match floorSlot s with
  | some k => (floorSvn (floorRecord s k), sha3 (floorRecord s k))
  | none => (0, zeros 64)

/-- The steps of the ROM after the root key has been checked. -/
def romSteps (s : State) : State :=
  let (svn, d) := floorNow s
  let s := modBoot (fput s F.HUB_FW_SVN.FLOOR svn) (fun b => { b with floor := svn })
  let s := extend (extend s 1 (fixLen 64 Config.romDigest)) 2 (sha3 (rootKey s))
  nextPhase (requestWake (extend s 3 d) 48 0) 2

/-- The ROM reads the PUF array, clears hub SRAM and checks the root key. -/
def execRom (s : State) : Out :=
  if !inPhase s 1 then .next s
  else
    let (n, s) := drawFree s
    let s := modBoot (zeroRange s 0x7E0000000000 0x7E0001000000) (fun b => { b with puf := some n })
    .next (if rootOk s then romSteps s else stopStart s 0x8A0E 0 0)

/-! ### Firmware images (R437, R445) -/

/-- A firmware image, taken apart. -/
structure FwImage where
  hdr : List Byte
  cert : List Byte
  sig : List Byte
  code : List Byte

/-- Bytes before the code. -/
def fwHead : Nat := 256 + 7347 + 4627

/-- An image from a reader of bytes; rd off n. -/
def fwImage (rd : Nat → Nat → List Byte) : FwImage :=
  let h := rd 0 256
  ⟨h, rd 256 7347, rd 7603 4627, rd fwHead (min 0x800000 (bNat h 12 4))⟩

def fwSvn (i : FwImage) : Nat := bNat i.hdr 6 2
def fwVersion (i : FwImage) : Nat := bNat i.hdr 8 4
def fwCodeBytes (i : FwImage) : Nat := bNat i.hdr 12 4
def fwEntries (i : FwImage) : List Nat := (List.range 4).map (fun k => bNat i.hdr (16 + 8 * k) 8)

/-- The header is one of R445; len: the length given with the image. -/
def fwHeaderOk (i : FwImage) (len : Option Nat) : Bool :=
  bNat i.hdr 0 4 == 0x57464B48 && bNat i.hdr 4 2 == 1 && bNat i.hdr 48 16 == 0 && bNat i.hdr 128 128 == 0 &&
  fwHead + fwCodeBytes i ≤ 0x800000 && (len.isNone || len == some (fwHead + fwCodeBytes i)) &&
  (fwEntries i).all (fun e => within e 1 0x7E0000000000 0x7E0001000000)

/-- verify: the first check that fails (R437). -/
def fwVerify (s : State) (i : FwImage) (len : Option Nat) : Option Nat :=
  if !fwHeaderOk i len then some 1
  else if !certOk (rootKey s) 1 i.cert then some 2
  else if !verifySig "KRYJO-FW" (certSubject i.cert) (i.hdr ++ i.cert) i.sig then some 3
  else if sha3 i.code ≠ (i.hdr.drop 64).take 64 then some 4
  else if fwSvn i < fget s F.HUB_FW_SVN.FLOOR then some 5
  else none

def fwSlotAddr (k : Nat) : Nat := 0x100000 + 0x800000 * k
def flashImage (s : State) (k : Nat) : FwImage := fwImage (fun off n => flBytes s (fwSlotAddr k + off) n)

/-- Firmware starts: its code at the start of hub SRAM, HC0 to HC3 at their entries, its digest measured, the port renegotiated. -/
def startFirmware (s : State) (slot : Nat) (i : FwImage) : State :=
  let s := wrBytes s 0x7E0000000000 i.code
  let s := modBoot s (fun b =>
    { b with fwSlot := slot, fwLen := i.code.length, fwDigest := sha3 i.code, fwEntry := fwEntries i,
             fwVer := fwVersion i, fwSvn := fwSvn i, fwRuns := true })
  let s := extend s 4 (sha3 i.hdr)
  let s := fput (fput s F.HUB_FW_VER.VERSION (fwVersion i)) F.HUB_FW_SVN.SVN (fwSvn i)
  let s := foldRange 4 reloadWdt s
  let s := if merState s = mUP then merLeave s mHELLO 2 else s
  nextPhase s (if s.boot.warm then 6 else 3)

/-! ### The slot selector (R443) -/

def selBytes (s : State) : List Byte := flBytes s 0 60
def selGood (s : State) : Bool := crc32 (selBytes s) == BitVec.ofNat 32 (flNat s 60 4)
def fwSlotOf (b : Nat) : Option Nat := if b < 2 then some b else none
/-- ACTIVE; with a bad selector the slot that was booted. -/
def selActive (s : State) : Nat := if selGood s then flNat s 0 1 % 2 else s.boot.fwSlot % 2
def selPending (s : State) : Option Nat := if selGood s then fwSlotOf (flNat s 1 1) else none

/-- HUB_FW_STAT mirrors the selector (R455). -/
def showSelector (s : State) : State :=
  let s := fput s F.HUB_FW_STAT.ACTIVE (selActive s)
  let s := fput s F.HUB_FW_STAT.PEND_V (b2n (selPending s).isSome)
  fput s F.HUB_FW_STAT.PENDING ((selPending s).getD 0)

/-- Write the selector; bytes 3 to 59 are 0. -/
def writeSelector (s : State) (active : Nat) (pend : Option Nat) (tries : Nat) : State :=
  let b := leBytes 1 active ++ leBytes 1 (pend.getD 0xFF) ++ leBytes 1 tries ++ zeros 57
  showSelector (flWrite s 0 (b ++ leBytes 4 (crc32 b).toNat))

/-! ### FW_LOAD (R437) -/

/-- The order in which slots are tried, the state after the selector's change, and the slot on trial. -/
def bootOrder (s : State) : List Nat × State × Option Nat :=
  if !selGood s then ([0, 1], s, none)
  else
    let a := selActive s
    match selPending s with
    | some p =>
      if flNat s 2 1 = 0 then ([p, a], writeSelector s a (some p) 1, some p)
      else ([a], fbOffer (writeSelector s a none 0) (srcCore 0) 0x0A03 p a 0, none)
    | none => ([a, 1 - a], s, none)

/-- The first slot whose image verifies; each failure writes FW_BAD. -/
def trySlots (s : State) : List Nat → State × Option (Nat × FwImage)
  | [] => (s, none)
  | k :: ks =>
    let i := flashImage s k
    match fwVerify s i none with
    | none => (s, some (k, i))
    | some c => trySlots (fbOffer s (srcCore 0) 0x0A02 k c (fwSvn i)) ks

def coldLoad (s : State) : State :=
  let (order, s, trial) := bootOrder s
  match trySlots (showSelector s) order with
  | (s, some (k, i)) => startFirmware (fput (fput s F.HUB_BOOT_STAT.SLOT k) F.HUB_BOOT_STAT.TRIAL (b2n (trial == some k))) k i
  | (s, none) => holdBoot s 1

/-- Registers that show what stands, set again after a warm reset: the running firmware, the floor in force, the clock, retirements that wait
(R455, R461; assumption log 13). -/
def showStanding (s : State) : State :=
  let s := fput (fput (fput s F.HUB_FW_VER.VERSION s.boot.fwVer) F.HUB_FW_SVN.SVN s.boot.fwSvn) F.HUB_FW_SVN.FLOOR s.boot.floor
  let s := fput (fput s F.HUB_CLK_STAT.ROOT_LOCK 1) F.HUB_CLK_STAT.REFCLK_OK 1
  countPending (fput s F.HUB_MEM_STAT.PENDING (b2n (s.integ.pending.any (fun d => d.1 == 3))))

/-- After a warm reset the running image is only checked again. -/
def warmLoad (s : State) : State :=
  if imageIntact s then
    let s := modBoot (showStanding s) (fun b => { b with fwRuns := true })
    nextPhase (foldRange 4 reloadWdt s) 6
  else holdBoot (fbOffer s (srcCore 0) 0x0A02 s.boot.fwSlot 4 s.boot.fwSvn) 1

def execFwLoad (s : State) : Out :=
  .next (if !inPhase s 2 then s else if s.boot.warm then warmLoad s else coldLoad s)

/-- The boot buffer (R436). -/
def bootBuffer : Nat := 0x7E0000000000
def bufferImage (s : State) : FwImage := fwImage (fun off n => rdBytes s (bootBuffer + off) n)

/-- A firmware command fails (R451); a cause that the spec does not number is a free value of 5 bits. -/
def fwReject (s : State) (cmd : Nat) (cause : Option Nat) : State :=
  let (s, c) := match cause with
    | some c => (s, c)
    | none => (let d := drawFree s; (d.2, (Config.freeWord d.1).toNat % 32))
  fbOffer (fput (fput s F.HUB_FW_STAT.STATE 3) F.HUB_FW_STAT.CAUSE c) (srcCore 0) 0x0A08 cmd c 0

def fwDone (s : State) : State := fput (fput s F.HUB_FW_STAT.STATE 2) F.HUB_FW_STAT.CAUSE 0

/-- BOOT: accepted only while FW_LOAD holds. -/
def bootCommand (s : State) : State :=
  if phase s ≠ 2 || s.boot.held ≠ 1 then fwReject s 4 none
  else
    let i := bufferImage s
    match fwVerify s i (some (fget s F.HUB_FW_LEN.BYTES)) with
    | some c => fwReject (fbOffer s (srcCore 0) 0x0A02 2 c (fwSvn i)) 4 (some c)
    | none => startFirmware (fput (fwDone (unholdBoot s)) F.HUB_BOOT_STAT.MERIDIAN 1) 2 i

/-- A Meridian WRITE of HUB_FW_CMD that HC0 can take (R451). -/
def fwFrom (src : Source) (s : State) : Bool := src == .meridian && !isFrozen s && coreRuns s 0

def execBoot (src : Source) (s : State) : Out := .next (if fwFrom src s then bootCommand s else s)

/-! ### Firmware update and the floor (R451, R452) -/

def fwSource (s : State) : Nat := fget s F.HUB_FW_SRC.ADDR * 64
def sourceImage (s : State) : FwImage := fwImage (fun off n => rdBytes s (fwSource s + off) n)

def programCommand (s : State) : State :=
  let len := fget s F.HUB_FW_LEN.BYTES
  if !within (fwSource s) len 0 (memTop s) then fwReject s 1 none
  else
    let i := sourceImage s
    match fwVerify s i (some len) with
    | some c => fwReject s 1 (some c)
    | none =>
      let k := 1 - selActive s
      let b := rdBytes s (fwSource s) len
      let (s, r) := burn s (fwSlotAddr k) b
      if r ≠ b then fwReject s 1 (some 6)
      else
        let s := writeSelector s (selActive s) (some k) 0
        fbOffer (fwDone s) (srcCore 0) 0x0A07 k (fwVersion i) (fwSvn i)

/-- Until firmware runs only BOOT has an effect. -/
def execProgram (src : Source) (s : State) : Out := .next (if fwFrom src s && s.boot.fwRuns then programCommand s else s)

/-- FLOOR accepts a record by R452. -/
def floorAccepts (s : State) (b : List Byte) : Bool :=
  let cur := match floorSlot s with
    | some k => some (floorRecord s k)
    | none => none
  let above := match cur with
    | some c => floorSeq c < floorSeq b && floorSvn c ≤ floorSvn b
    | none => true
  within (fwSource s) floorSize 0 (memTop s) && floorValid s b && above && floorSvn b ≤ fwSvn (flashImage s (selActive s))

def floorCommand (s : State) : State :=
  let b := rdBytes s (fwSource s) floorSize
  if !floorAccepts s b then fwReject s 2 (some 7)
  else
    let k := match floorSlot s with
      | some k => 1 - k
      | none => 0
    let (s, r) := burn s (floorAddr k) b
    if r ≠ b then fwReject s 2 none
    else fbOffer (fwDone s) (srcCore 0) 0x0A09 (floorSvn b) (floorSeq b) 0

def execFloor (src : Source) (s : State) : Out := .next (if fwFrom src s && s.boot.fwRuns then floorCommand s else s)

def abandonCommand (s : State) : State := fwDone (writeSelector s (selActive s) none 0)

def execAbandon (src : Source) (s : State) : Out := .next (if fwFrom src s && s.boot.fwRuns then abandonCommand s else s)

/-- HUB_FW_CMD: other values are rejected (R455). -/
def fwCommand (s : State) (cmd : Nat) : State :=
  if cmd = 4 then bootCommand s
  else if !s.boot.fwRuns then s
  else if cmd = 1 then programCommand s
  else if cmd = 2 then floorCommand s
  else if cmd = 3 then abandonCommand s
  else fwReject s cmd none

/-! ### RECORDS (R270, R446) -/

/-- What the configuration record gives. -/
def loadConfig (s : State) (k : Nat) : State :=
  let b := cfgRecord s k
  let s := fput (fput s F.HUB_ID.VARIANT (bNat b 80 1)) F.PWR_IDLE.WATTS (bNat b 82 2)
  let s := foldRange 8 (fun s d => fput s F.PWR_VF.MV (bNat b (84 + 2 * d) 2) d) s
  extend { s with integ := { s.integ with repairs := cfgEntries s k } } 5 (sha3 b)

/-- Every lane that a record lists (R290). -/
def showLane (s : State) (e : RetEntry) : State :=
  let n := e.loc % 256
  if e.kind ≠ 4 || 24 ≤ n then s else pput s F.LNK_PSTAT.RETIRED (pget s F.LNK_PSTAT.RETIRED n ||| 2 ^ (e.loc / 256 % 4)) n

/-- The channels that entries leave in service. -/
def channelsOf (es : List RetEntry) : List Nat := (List.range 256).filter (fun c => !es.any (fun e => e.kind == 3 && e.loc == c))

/-- Lines of the edge caches whose way an entry disables (R268). -/
def waysOf (es : List RetEntry) : List Nat :=
  (es.filter (fun e => e.kind == 1 && e.loc / 0x1000 % 16 == 3)).map (fun e => e.loc / 256 % 16 * 524288 + e.loc / 65536)

/-- What the retirement record gives. -/
def loadRetirements (s : State) (k : Nat) : State :=
  let es := retEntries s k
  let d := sha3 (retRecord s k)
  let s := { s with waysOff := waysOf es, integ := { s.integ with entries := es, noRecord := false } }
  let s := fput (fput (fput s F.ECC_RET_STAT.SLOT k) F.ECC_RET_STAT.EMPTY 0) F.ECC_RET_STAT.ENTRIES es.length
  let s := setChannels (es.foldl showLane s) (channelsOf es) (channelBytes s)
  nextPhase (extend (modBoot s (fun b => { b with digests := nset b.digests 8 d })) 6 d) 4

/-- Two free values: how a slot's status is coded is not stated. -/
def twoFree (s : State) : Nat × Nat × State :=
  let (a, s) := drawFree s
  let (b, s) := drawFree s
  ((Config.freeWord a).toNat % 2 ^ 32, (Config.freeWord b).toNat, s)

def noConfig (s : State) : State :=
  let (a, b, s) := twoFree s
  stopStart s 0x8A04 a b

def noRetirements (s : State) : State :=
  let (a, b, s) := twoFree s
  holdBoot (alert (fbOffer s (srcCore 3) 0x840B a b 0) F.HUB_ALERT.RECORD_BAD) 2

def execRecords (s : State) : Out :=
  if !inPhase s 3 then .next s
  else match bestSlot (cfgValid s) (cfgSeq s) with
    | none => .next (noConfig s)
    | some k =>
      let s := loadConfig s k
      match bestSlot (retValid s) (retSeq s) with
      | some j => .next (loadRetirements s j)
      | none => .next (noRetirements s)

/-- ACCEPT_EMPTY: start-up goes on without a retirement record (R270). -/
def acceptEmptyWrite (src : Source) (v : Nat) (s : State) : State :=
  if src ≠ .meridian || isFrozen s || v % 2 = 0 || s.boot.held ≠ 2 then s
  else
    let s := { unholdBoot s with integ := { s.integ with entries := [], noRecord := true } }
    let s := fput (fput s F.ECC_RET_STAT.EMPTY 1) F.ECC_RET_STAT.ENTRIES 0
    let s := setChannels s (channelsOf []) (channelBytes s)
    nextPhase (extend (modBoot s (fun b => { b with digests := nset b.digests 8 (zeros 64) })) 6 (zeros 64)) 4

def execAcceptEmpty (src : Source) (v : BitVec 32) (s : State) : Out := .next (acceptEmptyWrite src v.toNat s)

/-! ### IDENTITY (R448) -/

def helperData (s : State) : List Byte := flBytes s 0x20000 0x10000

/-- The seed of a key. -/
def idSeed (k : List Byte) : List Byte := (sha3 (asciiBytes "KRYJO-P40-ID" ++ fixLen 32 k)).take 32

/-- The key is derived; K and its seed are not kept. -/
def execIdentity (s : State) : Out :=
  if !inPhase s 4 then .next s
  else match Config.pufKey (s.boot.puf.getD 0) (helperData s) with
    | none => .next (stopStart s 0x8A05 1 0)
    | some k =>
      let key := Mldsa.keyGen (idSeed k)
      let pk := key.1
      if pk ≠ certSubject (devCert s) then .next (stopStart s 0x8A05 2 0)
      else
        let s := modBoot s (fun b => { b with pk := pk, sk := key.2, puf := none })
        .next (nextPhase (extend s 7 (sha3 pk)) 5)

/-! ### DOMAINS (R438) -/

/-- Requests of domains lo to hi - 1 that arrive in a tick. -/
def requestDomains (s : State) (lo hi tick : Nat) : State :=
  let q := (List.range (hi - lo)).foldl (fun q i => insertWake ⟨tick, lo + i, 0⟩ q) s.power.queue
  fput (modPower s (fun y => { y with queue := q })) F.PWR_TOK_STAT.QUEUED q.length

/-- Whether a domain has been asked for and is not usable yet. -/
def domainBusy (s : State) (n : Nat) : Bool :=
  s.power.queue.any (fun w => w.code == n) || (nget s.power.waking n).isSome

/-- The requests go out; the phase ends when the last domain is usable. -/
def execDomains (s : State) : Out :=
  if !inPhase s 5 then .next s
  else if s.power.on.contains 47 || (List.range 48).any (domainBusy s) then
    .next (if (List.range 48).any (domainBusy s) then s else nextPhase s 6)
  else .next (requestDomains (requestDomains s 32 48 s.tick) 0 32 (s.tick + 1))

/-! ### SELFTEST (R260, R261) -/

/-- A code word with bit k changed: d0 to d63, then c0 to c7 (R260). -/
def flipCode (k : Nat) (w : CodeWord) : CodeWord :=
  if k < 64 then ⟨w.data ^^^ BitVec.ofNat 64 (2 ^ k), w.chk⟩ else ⟨w.data, w.chk ^^^ BitVec.ofNat 8 (2 ^ (k - 64))⟩

/-- Patterns of the self-test for each of the two base words. -/
def patternsPerBase : Nat := 1 + 72 + 16 + 71 + 1 + 72

/-- The base word of pattern n, numbered base by base in the order of R260's table. -/
def patternBase (n : Nat) : Word := if n < patternsPerBase then 0 else BitVec.allOnes 64

/-- The words that pattern n feeds to an instance, each with its error. -/
def patternWords (inst n : Nat) : List CodeWord :=
  let b := patternBase n
  let k := n % patternsPerBase
  if k = 0 then [codeWord b]
  else if k ≤ 72 then [flipCode (k - 1) (codeWord b)]
  else if k ≤ 88 then
    let x := Config.neighbours inst (k - 73)
    [flipCode (x.1 % 72) (codeWord b), flipCode (x.2 % 72) (codeWord b)]
  else if k ≤ 159 then [flipCode (k - 89) (flipCode (k - 88) (codeWord b))]
  else if k = 160 then [poisonWord b]
  else [flipCode (k - 161) (poisonWord b)]

/-- What a checker finds: 0 clean, 1 CE, 2 UE, 3 POISON. -/
def resultOf (w : CodeWord) : Nat :=
  match classOf (syndromeOf w) with
  | .clean => 0
  | .checkBit | .dataBit _ => 1
  | .ue => 2
  | .poison => 3

/-- The result that R260 expects of each word of pattern n. -/
def patternExpects (n : Nat) : Nat :=
  let k := n % patternsPerBase
  if k = 0 then 0 else if k ≤ 88 then 1 else if k ≤ 159 then 2 else if k = 160 then 3 else 2

/-- A checker that follows the word code gives the expected result, with the word restored where that is a CE. -/
def patternPasses (inst n : Nat) : Bool :=
  (patternWords inst n).all (fun w => resultOf w == patternExpects n && (patternExpects n ≠ 1 || deliveredData w == patternBase n))

/-- Patterns of an instance in all. -/
def patternCount : Nat := 2 * patternsPerBase

/-- A channel that start-up finds bad goes to a new record (R261, R440). -/
def condemnChannel (s : State) (ch cause : Nat) : State :=
  if s.integ.pending.any (fun d => d.1 == 3 && d.2.1 == ch) || !(channels s).contains ch then s
  else { s with integ := { s.integ with pending := s.integ.pending ++ [(3, ch, cause)] } }

/-- A channel still waits for its record, and nothing blocks its retirement. -/
def channelsWait (s : State) : Bool := s.integ.pending.any (fun d => d.1 == 3) && !fbit s F.HUB_MEM_STAT.BLOCKED

/-- The hub itself, its fabric or the optical path failed. -/
def failHub (s : State) (f : SelfTestFail) : State :=
  alert (fbOffer (fput s F.HUB_BOOT_STAT.STOPPED 1) f.source.toNat 0x8408 f.inst.toNat f.pattern.toNat 0) F.HUB_ALERT.SELFTEST_HUB

/-- What a failing instance leads to, by its die (R261). -/
def failOne (s : State) (f : SelfTestFail) : State :=
  let src := f.source.toNat
  let die := src / 0x1000
  if die = 1 || die = 2 then
    fput (fbOffer s src 0x0407 f.inst.toNat f.pattern.toNat 0) F.ECC_STEST_CLU.WITHHELD (fget s F.ECC_STEST_CLU.WITHHELD ||| 2 ^ (src % 32))
  else if die = 3 then f.guards.foldl (fun s c => condemnChannel s c 3) (fbOffer s src 0x0407 f.inst.toNat f.pattern.toNat 0)
  else if die = 4 then
    f.guards.foldl (fun s n => if n < 24 then enter s n pFAILED else s) (fbOffer s src 0x0407 f.inst.toNat f.pattern.toNat 0)
  else failHub s f

/-- Clusters that the record lists are withheld too (R268, R269). -/
def withholdRecorded (s : State) : State :=
  let cs := ((s.integ.entries).filter (fun e => e.kind == 5)).map (·.loc)
  takeEffect (cs.foldl (fun s c => fput s F.ECC_STEST_CLU.WITHHELD (fget s F.ECC_STEST_CLU.WITHHELD ||| 2 ^ (c % 32))) s) (fun e => e.kind == 5)

/-- No withheld cluster stays in a partition (R32). -/
def expelWithheld (s : State) : State :=
  let w := fget s F.ECC_STEST_CLU.WITHHELD
  foldRange 8 (fun s p => let c := fget s F.HUB_PART.CLUSTERS p; fput s F.HUB_PART.CLUSTERS (c ^^^ (c &&& w)) p) s

/-- Instances fail as the operand says, each with the number of a pattern that did not give its expected result (assumption log 69). Where the
new record's read-back does not match, the phase goes on. -/
def execSelftest (fails : List SelfTestFail) (s : State) : Out :=
  if !inPhase s 6 then .next s
  else
    let fails := fails.filter (fun f => f.pattern.toNat < patternCount)
    let s := fput (fput (fput s F.ECC_STEST_STAT.DONE 1) F.ECC_STEST_STAT.PASS (b2n fails.isEmpty)) F.ECC_STEST_STAT.FAILED (min 65535 fails.length)
    let s := expelWithheld (withholdRecorded (fails.foldl failOne s))
    let edge := fails.any (fun f => f.source.toNat / 0x1000 == 3 && !f.guards.isEmpty)
    let s := if edge then retireAtRestore s else s
    .next (if fbit s F.HUB_BOOT_STAT.STOPPED || (edge && channelsWait s) then s else nextPhase s 7)

/-! ### STORES, DRAM, LINKS, READY (R433, R439 to R442) -/

/-- Accumulator and side memories are cleared; after a cold reset every store of a cluster is. Lines recorded for retirement take effect. -/
def clearStores (s : State) : State :=
  let s := if s.boot.warm then s else zeroRange s 0x400000000000 0x410040000000
  let s := (List.range 32).foldl (fun s c => modClu s c (fun k => { k with acc := [], accSyn := [], side := [] })) s
  takeEffect s (lineNow s none)

def execStores (s : State) : Out := .next (if inPhase s 7 then nextPhase (clearStores s) 8 else s)

/-- Channels whose training failed twice are retired, before a cold reset fills LPDDR5X; where the record's read-back does not match, the phase
goes on. -/
def trainDram (s : State) (failed : List Nat) : State :=
  let bad := (channels s).filter failed.contains
  let s := bad.foldl (fun s c => condemnChannel (fbOffer s (srcCore 0) 0x0A06 c 3 0) c 3) s
  let s := if bad.isEmpty then takeEffect s (fun e => e.kind == 2) else retireAtRestore s
  if fget s F.HUB_MEM_STAT.ACTIVE = 0 then stopStart s 0x8A0D 0 0
  else if !bad.isEmpty && channelsWait s then s
  else nextPhase (if s.boot.warm then s else fillLpddr s) 9

def execDram (failed : List Nat) (s : State) : Out := .next (if inPhase s 8 then trainDram s failed else s)

/-- Ports that the self-test did not rule out start (R441). -/
def startPort (s : State) (n : Nat) : State :=
  if pState s n = pFAILED then s
  else if fbit s F.LNK_PCFG.ENABLE (n % 6) (n / 6) then
    fset (enter s n pDETECT) F.HUB_CLK_STAT.PORT_LOCK (2 ^ n)
  else enter s n pDISABLED

def execLinks (s : State) : Out := .next (if inPhase s 9 then nextPhase (foldRange 24 startPort s) 10 else s)

/-- A trial image has come to READY: it is the active one (R442). -/
def endTrial (s : State) : State :=
  if !fbit s F.HUB_BOOT_STAT.TRIAL then s
  else match selPending s with
    | some k => fbOffer (writeSelector s k none 0) (srcCore 0) 0x0A07 k (fget s F.HUB_FW_VER.VERSION) (fget s F.HUB_FW_SVN.SVN)
    | none => s

def becomeReady (s : State) : State :=
  let t := ((s.tick : Int) - s.boot.start).toNat
  let warm := b2n s.boot.warm
  let v := fget s F.HUB_FW_VER.VERSION
  let s := setReg (fput s F.HUB_BOOT_STAT.READY 1) .HUB_BOOT_TIME (BitVec.ofNat 64 t)
  endTrial (offerRecord (fbOffer s (srcCore 0) 0x0A01 warm t v) 0x0A01 (srcCore 0) 0xFF warm t v)

def execReady (s : State) : Out := .next (if inPhase s 10 then becomeReady s else s)

end Sys2Proof.Machine
end

