-- ==== Sys2Proof/Machine/Reset.lean ====
section
/-! DEFINITION. Cold and warm resets (R431, R432, R499), RESET_n and the input monitor (R484). -/

namespace Sys2Proof.Machine

/-! ### What a warm reset keeps -/

/-- Registers that keep their values across a warm reset: the settings of R499, and those that their own chapters keep (R13). -/
def keptWarm : RegName → Bool
  | .HUB_PART | .HUB_WIN | .HUB_WBE_LIST | .HUB_RED_TABLE | .HUB_TRB_CFG | .HUB_STH_PLAN => true
  | .HUB_RCP_BASE | .HUB_SCL_BASE | .HUB_STH_SPILLBASE | .HUB_STH_SPILLSZ => true
  | .SEQ_ILV_CTL | .SEQ_ILV_BASE | .SEQ_STH_LIMIT | .SEQ_WAIT_LIMIT | .SEQ_MX_CTL | .HUB_WDT_CTL => true
  | .LNK_STATION | .LNK_E2E_TMO | .LNK_PCFG | .LNK_BARCFG | .LNK_BAR_MARGIN | .LNK_VBARCFG | .LNK_RTE | .LNK_RED_TMO => true
  | .TCK_CTL | .TCK_PERIOD | .TCK_NOW | .MBX_MER_CFG | .MBX_MER_MBXTMO => true
  | .ECC_SCR_CTL | .ECC_SCR_ADDR | .ECC_SCR_LEN | .ECC_SCR_REC => true
  | .ECC_CECNT | .ECC_UECNT | .ECC_POISONCNT | .ECC_RTRYCNT => true
  | .FBK_CTL | .FBK_STAT | .FBK_COUNT | .FBK_LOST | .FBK_BASE | .FBK_RDIDX | .FBK_RDDATA => true
  | .HUB_ID | .HUB_MEM_TOP | .HUB_CHT => true
  | .SEQ_DMA_BYTES | .LNK_TXBYTES | .LNK_RXBYTES => true
  | .LNK_RED_RERUNS | .LNK_RED_BF16CNT | .LNK_RED_DIGBAD | .LNK_RED_CLOSED | .LNK_RED_ELEMS => true
  | .CRN_CTL | .CRN_STAT | .CRN_EPOCH | .CRN_ARRIVED | .CRN_CMD | .CRN_EVT | .CRN_ARG | .CRN_PT | .CRN_CKAREA | .CRN_CKSIZE => true
  | .CRN_CKSTAT | .CRN_CKEPOCH | .CRN_MIRAREA | .CRN_BUDDY | .CRN_MIRSTAT | .CRN_BUDDYADDR | .CRN_DSTR | .CRN_RNG => true
  | .CRN_COMMIT_TMO | .CRN_REST | .CRN_JOB => true
  | .PWR_CAP | .PWR_VCFG | .PWR_DROOP_CFG | .PWR_DROOP_CNT | .PWR_TOK_STAT | .PWR_TOK_GRANT | .PWR_TOK_REFILL | .PWR_BAR_OFFSET => true
  | .PWR_DOM_CMD | .PWR_DOM_STAT | .PWR_EVT | .PWR_RESTART | .PWR_THERM | .PWR_STOP_STAT | .PWR_IDLE | .PWR_VF => true
  | .PWR_DOM | .PWR_MEM | .PWR_SAMP | .PWR_ACCT_CORE | .PWR_ACCT_DMA | .PWR_ACCT_LINK | .PWR_ACCT_RED | .PWR_ACCT_UPD => true
  | .PWR_POOL | .PWR_TOTAL | .PWR_IN | .PWR_EREP_ADDR => true
  | .MBX_LOST | .MBX_QCNT | .MBX_MER_TXFR | .MBX_MER_RXFR => true
  | .HUB_BOOT_STAT | .HUB_BOOT_TIME | .HUB_MEAS | .HUB_ALERT => true
  | _ => false

/-- The registers of mailboxes 48 to 55 are kept too (R428). -/
def keptReg (addr : Nat) : Bool :=
  match regAt addr with
  | some (.MBX_DATA, n, _) | some (.MBX_PEEK, n, _) | some (.MBX_STAT, n, _) => 48 ≤ n && n < 56
  | some (r, _, _) => keptWarm r
  | none => false

/-- Fields of other registers that are kept: TOTAL (R24), ABORTED (R282), and those that a record gave (R13, R446). -/
def keepFields (old s : State) : State :=
  let s := foldRange 4 (fun s n => fput s F.HUB_CORE_STAT.TOTAL (fget old F.HUB_CORE_STAT.TOTAL n) n) s
  let s := fput s F.ECC_SCR_STAT.ABORTED (fget old F.ECC_SCR_STAT.ABORTED)
  let s := fput (fput s F.ECC_RET_STAT.SLOT (fget old F.ECC_RET_STAT.SLOT)) F.ECC_RET_STAT.ENTRIES (fget old F.ECC_RET_STAT.ENTRIES)
  let s := fput s F.HUB_MEM_STAT.ACTIVE (fget old F.HUB_MEM_STAT.ACTIVE)
  foldRange 24 (fun s n => pput s F.LNK_PSTAT.RETIRED (pget old F.LNK_PSTAT.RETIRED n) n) s

/-! ### A warm reset -/

/-- Notices that stand in mailboxes 0 to 47 and 56 to 63 are cleared, their senders' status ABORTED (R430). -/
def abortedBoxes (s : State) : List Nat := (List.range 64).filter (fun n => mbxFull s n && !(48 ≤ n && n < 56))

/-- What a partition keeps: its image, what Cairn holds of it (R376, R499). A RUNNING one is HALTED; a record send stops, to be repeated by
RESUME (R379), and its registers are kept. -/
def warmPart (s : State) (p : Nat) : State :=
  let s := abortStaging s p 4
  let s := if fget s F.CRN_STAT.STATE p = 1 then fput s F.CRN_STAT.STATE 2 p else s
  modPart s p (fun x => { Part.reset with image := x.image, step := x.step, ckptAt := x.ckptAt, mir := x.mir, mirBytes := x.mirBytes,
                                          restoreEpoch := x.restoreEpoch, epochSet := x.epochSet, ckptOwed := x.ckptOwed,
                                          latest := x.latest, copies := x.copies })

/-- Ports leave ACTIVE with LINK_DOWN, and every port starts anew (R295). -/
def warmPort (s : State) (n : Nat) : State :=
  let st := pState s n
  if st = pACTIVE || st = pRETRAIN then leavePort s n pDOWN 1 else s

/-- Setting 6/0; waiting engine starts are withdrawn (R398, R408). -/
def warmPower (s : State) : State :=
  let q := s.power.queue.filter (fun w => w.code < 64)
  let s := modPower s (fun y => { y with queue := q, pending := none, waitLogged := false, ceiling := none, divTick := s.tick })
  let s := takeMargin (fput s F.PWR_TOK_STAT.QUEUED q.length)
  rampTo s (voltOf s 6)

/-- A pass of the scrubber ends without a record (R285). -/
def warmScrub (s : State) : State :=
  if s.integ.scrub.isSome then fput { s with integ := { s.integ with scrub := none } } F.ECC_SCR_STAT.ABORTED 1 else s

/-- Stashed tensors and what the clusters hold are gone; near and deep stores stay (R153, R248). -/
def warmClusters (s : State) : State :=
  { s with
    clusters := s.clusters.map (fun k => (k.1, { Cluster.reset with stashLimit := k.2.stashLimit, droopHold := k.2.droopHold })) }

/-- HUB_BOOT_STAT after a warm reset has begun (R433, R455). -/
def warmBoot (s : State) : State :=
  let s := fput (fput (fput s F.HUB_BOOT_STAT.READY 0) F.HUB_BOOT_STAT.LAST_RESET 3) F.HUB_BOOT_STAT.PHASE 2
  let s := fsat (fput (fput s F.HUB_BOOT_STAT.RESET_REJ 0) F.HUB_BOOT_STAT.HELD 0) F.HUB_BOOT_STAT.WARMS 1
  modBoot s (fun b => { b with since := s.tick, start := s.tick, warm := true, fwRuns := false, held := 0, due := 0 })

/-- A warm reset (R431, R499); the edge caches are invalidated (R252). -/
def warmReset (s : State) : State :=
  let full := abortedBoxes s
  let s := foldRange 24 warmPort s
  let s := if merState s = mUP then merLeave s mDOWN 3 else s
  let s := warmScrub (foldRange 8 warmPart s)
  let s := warmBoot (warmPower (warmClusters s))
  let t := invalidateCaches { s with
    fresh := [], held := [], unseen := [], turns := [],
    regs := s.regs.filter (fun e => keptReg e.1), cores := [], ports := [], switch := [], arrived := [], nextTid := 0, sent := [], resend := [],
    nakSeen := [], routeMiss := [], bars := [], tickGood := 0, tickSlew := 0, tickSent := 0, merSince := s.tick, helloTick := none, hello := none,
    sess := [], wbePos := [], wbeLeft := 0 }
  full.foldl (fun s n => fput s F.MBX_STAT.SSTAT 3 n) (showSelector (keepFields s t))

/-! ### HUB_RESET (R432) -/

/-- Source code of a reset request (R453). -/
def resetSource (src : Source) : Nat := if src = .smbus then 1 else 0

def resetReject (s : State) (v : Nat) (src : Source) : State :=
  fbOffer (fput s F.HUB_BOOT_STAT.RESET_REJ 1) (srcCore 0) 0x0A0C v (resetSource src) (phase s)

/-- An accepted request: its reset begins at the next tick boundary, a cold one before a warm one of the same tick (R456). -/
def resetAccept (s : State) (kind : Nat) (src : Source) : State :=
  fbOffer (modBoot (fput s F.HUB_BOOT_STAT.RESET_REJ 0) (fun b => { b with due := max b.due kind })) (srcCore 0) 0x0A0B kind (resetSource src) 0

/-- A write of HUB_RESET: from Meridian WRITE and SMBus. On a frozen P40, whose ticks have stopped, only a cold request acts, at once (R473);
without power none does. -/
def resetWrite (src : Source) (v : Nat) (s : State) : State :=
  let keyOk := natBits v 31 16 == 0x5253
  let kind := natBits v 1 0
  if !(src == .meridian || src == .smbus) || !s.boot.inputOn || s.freeze.lost then s
  else if isFrozen s then (if keyOk && kind = 2 then coldState s 2 else s)
  else if keyOk && (kind = 2 || (kind = 1 && fbit s F.HUB_BOOT_STAT.READY)) then resetAccept s kind src
  else resetReject s v src

/-- The reset that is due begins. -/
def beginReset (s : State) : State := if s.boot.due = 2 then coldState s 2 else warmReset s

def execHubResetWarm (src : Source) (v : BitVec 32) (s : State) : Out := .next (resetWrite src v.toNat s)
def execHubResetCold (src : Source) (v : BitVec 32) (s : State) : Out := .next (resetWrite src v.toNat s)

/-- RESET_n has been low for 125 ticks (R431). -/
def execResetPin (s : State) : Out := .next (if s.boot.inputOn then coldState s 1 else s)

/-! ### The input monitor (R484) -/

/-- The input switch opens: power is removed from every domain. -/
def cutPower (s : State) : State :=
  let t := coldState s 0
  { t with tick := s.tick, freeze := { frozen := true, record := [], lost := true }, boot := { t.boot with inputOn := false } }

/-- One sample of the input below 38.0 V; the second in a row opens the switch. A sample in range ends the row. -/
def execInputUndervoltage (mv : Nat) (s : State) : Out :=
  if !s.boot.inputOn then .next s
  else if 38000 ≤ mv then .next (modBoot s (fun b => { b with lowSamples := 0 }))
  else if s.boot.lowSamples = 0 then .next (modBoot s (fun b => { b with lowSamples := 1 }))
  else .next (cutPower s)

/-- The same above 62.0 V. -/
def execInputOvervoltage (mv : Nat) (s : State) : Out :=
  if !s.boot.inputOn then .next s
  else if mv ≤ 62000 then .next (modBoot s (fun b => { b with highSamples := 0 }))
  else if s.boot.highSamples = 0 then .next (modBoot s (fun b => { b with highSamples := 1 }))
  else .next (cutPower s)

/-- The input between 40.0 V and 60.0 V for 100 ms starts the cold reset. -/
def execInputPowerGood (mv : Nat) (s : State) : Out :=
  if s.boot.inputOn then .next s
  else if mv < 40000 || 60000 < mv then .next (modBoot s (fun b => { b with goodSince := none }))
  else match s.boot.goodSince with
    | none => .next (modBoot s (fun b => { b with goodSince := some s.tick }))
    | some t => if s.tick < t + 12500000 then .next s else .next (coldState s 0)

end Sys2Proof.Machine
end

