-- ==== Sys2Proof/Machine/Clock.lean ====
section
/-! DEFINITION. What the passing of one tick does (R8, R462): assumption log 1. -/

namespace Sys2Proof.Machine

/-- TCK_NOW counts on; while it slews, one tick is added or held in every 64 until less than 32/64 tick is left (R306, R307). -/
def countTick (s : State) : State :=
  let now := (reg s .TCK_NOW).toNat
  if s.tick % 64 = 0 && 32 ≤ s.tickSlew.natAbs then
    if 0 < s.tickSlew then setReg { s with tickSlew := s.tickSlew - 64 } .TCK_NOW (BitVec.ofNat 64 (now + 2))
    else { s with tickSlew := s.tickSlew + 64 }
  else setReg s .TCK_NOW (BitVec.ofNat 64 (now + 1))

/-- The watchdogs of running cores count down once firmware runs; RECENT forgets resets older than 1 s (R24, R26). -/
def countWatchdog (s : State) (n : Nat) : State :=
  let x := core s n
  let s := if s.boot.fwRuns && coreRuns s n && x.left ≠ 0 then setLeft s n (x.left - 1) else s
  if x.resets.isEmpty then s else showRecent s n

/-- COOL_OK is sampled (R403, R407); TICK, which clocks the sampling (R463), runs once PD49 is good, which ends RAILS (R433). -/
def sampleCool (s : State) : State :=
  if fget s F.HUB_BOOT_STAT.PHASE = 0 then s
  else if Config.coolPin s.tick then
    let n := fget s F.PWR_STOP_STAT.OK_TICKS
    let was := fbit s F.PWR_STOP_STAT.COOL_OK
    let s := fput (fput s F.PWR_STOP_STAT.COOL_OK 1) F.PWR_STOP_STAT.OK_TICKS (if was then min (n + 1) (2 ^ 28 - 1) else 0)
    modPower s (fun y => { y with coolLow := 0 })
  else
    modPower (fput (fput s F.PWR_STOP_STAT.COOL_OK 0) F.PWR_STOP_STAT.OK_TICKS 0) (fun y => { y with coolLow := y.coolLow + 1 })

/-- The Field Book entries of a stop come in the tick after it (R403, R405). -/
def logStops (s : State) : State :=
  let l := s.power.stopLog
  l.foldl (fun s cause =>
    if cause = 1 then fbOffer s srcGovernor 0x0805 0 (tickNow s) 0
    else fbOffer s srcGovernor 0x0804 (fget s F.PWR_THERM.SOURCE) (fget s F.PWR_THERM.TJ) 0) (modPower s (fun y => { y with stopLog := [] }))

/-- Bits 5 and 0 of HUB_ALERT are set in every tick in which their condition holds (R497). -/
def holdAlerts (s : State) : State :=
  let s := if isStopped s then alert s F.HUB_ALERT.STOP else s
  if (List.range 4).any (fun n => fget s F.HUB_CORE_STAT.STATE n = 2) then alert s F.HUB_ALERT.CORE_HELD else s

/-! ### The end of a tick -/

/-- CORECLK cycles of a tick of 8 ns, in parts of rampUnit, at the setting in force (R390): 128 / d of them, j of every 16 suppressed. -/
def rampStep (s : State) : Nat := 8 * (16 - (setting s).2) * (rampUnit / divisorOf (setting s).1)

/-- The start ramps of a cluster's engines go on; SEQ_MX_STAT.RAMP falls as one ends (R71, R98). -/
def tickRamps (s : State) (c : Nat) : State :=
  (clu s c).ramp.foldl (fun s r =>
    let left := r.2 - rampStep s
    let s := modClu s c (fun k => { k with ramp := if left = 0 then ndel k.ramp r.1 else nset k.ramp r.1 left })
    if left = 0 then fput s F.SEQ_MX_STAT.RAMP 0 r.1 c else s) s

/-- The cycle in which a cluster trapped is over (R185). -/
def closeCycle (s : State) (c : Nat) : State :=
  if (stream s c .F).lastCycle || (stream s c .B).lastCycle then endCycle s c else s

/-- A core that met a bad word in this tick is reset (R264). -/
def resetMet (s : State) (n : Nat) : State :=
  match (core s n).met with
  | some x =>
    let s := modCore s n (fun y => { y with met := none })
    if coreRuns s n then resetCore s n 0x040D (fun _ => x) else s
  | none => s

/-- Entries that the Field Book did not accept in their tick find a queue of 64: the last in order are lost (R277). -/
def closeBook (s : State) : State :=
  if s.fb.length ≤ 64 then s else fsat { s with fb := s.fb.take 64 } F.FBK_LOST.COUNT (s.fb.length - 64)

/-- What ends with a tick: the cycles of traps, resets of cores, ramps, the Field Book's acceptance, what a tick's events and writes left for its
end (R12, R99, R162, R303). -/
def endTick (s : State) : State :=
  let s := foldRange 32 (fun s c => tickRamps (closeCycle s c) c) s
  let s := closeBook (foldRange 4 resetMet s)
  { s with fresh := [], held := [] }

/-- What Cairn's engine does in a tick for a partition (R361, R377). -/
def tickCairn (s : State) (p : Nat) : State := tickRestore (tickStaging s p) p

/-- What the units do in a new tick. -/
def tickUnits (s : State) : State :=
  let s := foldRange 4 countWatchdog s
  let s := logStops (sampleCool s)
  foldRange 8 tickCairn (foldRange 24 tickPort (holdAlerts s))

/-- One tick passes, and a reset that is due begins with it (R432); on a frozen P40 none does (R472), and without power only the input
monitor's time passes (R484). -/
def passTick (s : State) : State :=
  if isFrozen s then (if s.boot.inputOn then s else { s with tick := s.tick + 1 })
  else
    let s := endTick s
    let s := countTick { s with tick := s.tick + 1 }
    if s.boot.due = 0 then tickUnits s else beginReset s

end Sys2Proof.Machine
end

