-- ==== Sys2Proof/Machine/Access.lean ====
section
/-! DEFINITION. Loads, stores and descriptor registers of a stream (R203, R204, R198, R264). -/

namespace Sys2Proof.Machine

/-- ea := a[RA] + sext(OFF) (R203). -/
def effAddr (s : State) (i : Issue) : Word := areg (strOf s i) (fRA i) + sext32 (fOFF i)

/-- The register of the cluster's own SEQ_ block that lies at an address with the width of the access. -/
def ownReg (c a n : Nat) : Option (RegName × Nat × Nat) :=
  match regAt a with
  | some (r, idx, inst) =>
    if (regPlace r).block = .SEQ && inst = c && (regPlace r).width = 8 * n then some (r, idx, inst) else none
  | none => none

/-- The rules of R203 for an access of n bytes to memory. -/
def memAccessOk (s : State) (c a n : Nat) (store : Bool) : Bool :=
  match partOf s c with
  | some p => inWindows s p a n && !(store && inCode s p a n)
  | none => false

/-- The effective address is aligned, and it and the address register have bits 63:48 clear (R167, R184, R203). -/
def eaOk (s : State) (i : Issue) (n : Nat) : Bool :=
  (areg (strOf s i) (fRA i)).toNat < 2 ^ 48 && (effAddr s i).toNat < 2 ^ 48 && (effAddr s i).toNat % n = 0

/-- A load: checks at issue, the stream then waits for the data (R198). -/
def loadBody (n : Nat) (desc : Bool) (i : Issue) (s : State) : State :=
  let ea := effAddr s i
  let a := ea.toNat
  if eaOk s i n && (memAccessOk s i.cl a n false || (!desc && (ownReg i.cl a n).isSome)) then
    modStr s i.cl i.st (fun x => { x with load := some ⟨fRD i, a, n, desc⟩ })
  else precise s i 0x04 a

def mLegal (i : Issue) : Bool := isA (fRA i) && zeroBits i 39 32

def execLdD (i : Issue) (s : State) : Out := issue 0x40 (isS (fRD i) && mLegal i) (loadBody 8 false i) i s
def execLdW (i : Issue) (s : State) : Out := issue 0x41 (isS (fRD i) && mLegal i) (loadBody 4 false i) i s
def execTdLd (i : Issue) (s : State) : Out := issue 0x44 (mLegal i) (loadBody 64 true i) i s

/-- The data of a load returns: the register takes it and the stream goes on. A word uncorrectable after its retry, or poisoned, stops
the stream without a trap, posts a FAULT notice and faults the step (R264). -/
def loadReturn (c : Nat) (st : Stream) (l : LoadRec) (s : State) : State :=
  let s := modStr s c st (fun x => { x with load := none })
  let pc := pcOf s c st
  match ownReg c l.addr l.bytes with
  | some (r, idx, inst) =>
    let (s, v) := readReg s r idx inst
    setPc (modStr s c st (fun x => setSreg x l.reg (BitVec.ofNat 64 v))) c st (pc + 8)
  | none =>
    match checkRange (srcCluster 0 c) (s, none) l.addr (l.addr + l.bytes) with
    | (s, some bad) =>
      let s := modStr s c st (fun x => { x with block := some .loadFault })
      faultFor (seqNotice s c 4) c (srcCluster 0 c) (some bad)
    | (s, none) =>
      let v := rdNat s l.addr l.bytes
      let s := if l.desc then setTd s c l.reg (BitVec.ofNat 512 v)
               else modStr s c st (fun x => setSreg x l.reg (BitVec.ofNat 64 v))
      setPc s c st (pc + 8)

def execLoadDataReturn (cl : ClusterIx) (st : Stream) (s : State) : Out :=
  if isFrozen s || isStopped s then .next s
  else match (stream s cl st).load with
    | some l => .next (throughView cl (loadReturn cl st l) s)
    | none => .next s

/-! ### Stores -/

/-- The loss of a run is written: LOSS takes it and LOSS_WRITTEN is set (R114, R129). -/
def writeLoss (s : State) (p : Nat) (v : BitVec 32) : State :=
  let s := setReg s .HUB_LOSS_REPORT (v.zeroExtend 64) p
  fput s F.HUB_TRB_STAT.LOSS_WRITTEN 1 p

def layerReg : Stream → RegName
  | .F => .SEQ_TRB_LAYERF
  | .B => .SEQ_TRB_LAYERB

/-- A store of 4 bytes to a control register that a program may write (R203): the stream's LAYER register, the other stream's
(ignored), its partition's HUB_LOSS_REPORTp. -/
def storeReg (s : State) (c : Nat) (st : Stream) (a : Nat) (v : Word) : Option State :=
  if a = regAddr (layerReg st) 0 c then
    some (writeReg s (layerReg st) 0 c (v.toNat % 2 ^ 32))
  else if a = regAddr (layerReg (otherStream st)) 0 c then some s
  else match partOf s c with
    | some p => if a = regAddr .HUB_LOSS_REPORT p 0 then some (writeLoss s p (BitVec.ofNat 32 v.toNat)) else none
    | none => none

/-- A store of the n low bytes of v. -/
def storeBody (n : Nat) (v : Nat) (i : Issue) (s : State) : State :=
  let ea := effAddr s i
  let a := ea.toNat
  if !eaOk s i n then precise s i 0x04 a
  else if memAccessOk s i.cl a n true then advance (noteWrites s (wrNat s a n v) i.cl) i
  else match (if n = 4 then storeReg s i.cl i.st a (BitVec.ofNat 64 v) else none) with
    | some t => advance t i
    | none => precise s i 0x04 a

def execStD (i : Issue) (s : State) : Out :=
  issue 0x42 (isS (fRD i) && mLegal i) (fun t => storeBody 8 (sreg (strOf t i) (fRD i)).toNat i t) i s
def execStW (i : Issue) (s : State) : Out :=
  issue 0x43 (isS (fRD i) && mLegal i) (fun t => storeBody 4 (sreg (strOf t i) (fRD i)).toNat i t) i s
def execTdSt (i : Issue) (s : State) : Out :=
  issue 0x45 (mLegal i) (fun t => storeBody 64 (tdReg (clu t i.cl) (fRD i)).toNat i t) i s

/-- The bit range of a descriptor that a FIELD code names (R204, R168). -/
def tdFieldBits : Nat → Option (Nat × Nat)
  | 0 => some (63, 60)
  | 1 => some (59, 58)
  | 2 => some (57, 57)
  | 3 => some (56, 56)
  | 4 => some (55, 54)
  | 5 => some (53, 48)
  | 6 => some (47, 0)
  | 7 => some (95, 64)
  | 8 => some (127, 96)
  | 9 => some (159, 128)
  | 10 => some (191, 160)
  | 11 => some (239, 192)
  | 12 => some (303, 256)
  | 13 => some (367, 320)
  | 14 => some (443, 432)
  | 15 => some (431, 384)
  | 16 => some (479, 448)
  | _ => none

/-- td.set: the low bits of s[RS] into one field of td[TD] (R204). -/
def execTdSet (i : Issue) (s : State) : Out :=
  issue 0x46 (isS (fRA i) && fFIELD i ≤ 16 && zeroBits i 34 0)
    (fun t => match tdFieldBits (fFIELD i) with
      | some (hi, lo) =>
        let v := (sreg (strOf t i) (fRA i)).toNat
        advance (setTd t i.cl (fRD i) (putBits (tdReg (clu t i.cl) (fRD i)) hi lo v)) i
      | none => advance t i) i s

end Sys2Proof.Machine
end

