-- ==== Sys2Proof/Machine/Copy.lean ====
section
/-! DEFINITION. DMA channels (R208 to R210, R249 to R251) and the copies they make (R134, R136, R137, R199, R209). -/

namespace Sys2Proof.Machine

/-- Apply f to every (i1, i2, i3) of an extent. -/
def overRows (n1 n2 n3 : Nat) (f : State → Nat → Nat → Nat → State) (s : State) : State :=
  foldRange n3 (fun s c => foldRange n2 (fun s b => foldRange n1 (fun s a => f s a b c) s) s) s

/-- Copy elements and scale bytes of an extent (R209); a source position beyond the lengths is +0, and a block that lies wholly beyond
them takes the scale byte 0x00 (R199). src is the state that is read. -/
def copyElems (src : State) (x d : Tens) (so dO : Origin) (n0 n1 n2 n3 : Nat) (s : State) : State :=
  overRows n1 n2 n3 (fun s r1 r2 r3 => foldRange n0 (fun s r0 =>
    let p0 := so.a + r0
    let p1 := so.b + r1
    let p2 := so.c + r2
    let q0 := dO.a + r0
    let q1 := dO.b + r1
    let q2 := dO.c + r2
    let ok := inTens x p0 p1 p2 r3
    let s := writeCode s d q0 q1 q2 r3 (if ok then readCode src x p0 p1 p2 r3 else 0)
    if x.layout ≠ 0 && r0 % 32 = 0 && (x.layout = 1 || r1 % 32 = 0) then
      wrNat s (scaleAddr d q0 q1 q2 r3) 1 (if ok then (rdByte src (scaleAddr x p0 p1 p2 r3)).toNat else 0)
    else s) s) s

/-- Copy the map entries and side values of the slices of an extent (R48, R209). -/
def copyMap (src : State) (x d : Tens) (so dO : Origin) (n0 n1 n2 n3 : Nat) (s : State) : State :=
  if !(x.hasMap && d.hasMap) then s
  else foldRange (cdiv n0 128) (fun s j =>
    let sj := so.a / 128 + j
    let dj := dO.a / 128 + j
    let there := sj < mapSlices x
    let s := wrBytes s (d.omap + 16 * dj) (if there then rdBytes src (x.omap + 16 * sj) 16 else List.replicate 16 0)
    overRows n1 n2 n3 (fun s r1 r2 r3 =>
      let ok := there && so.b + r1 < x.n1 && so.c + r2 < x.n2 && r3 < x.n3
      wrBytes s (sideAddr d dj 0 (dO.b + r1) (dO.c + r2) r3)
        (if ok then rdBytes src (sideAddr x sj 0 (so.b + r1) (so.c + r2) r3) 16 else List.replicate 16 0)) s) s

/-- ldt.tr without the requantiser: delivered (k, row) is source (row, k) (R134). -/
def transposeExact (src : State) (x d : Tens) (o : Origin) (s : State) : State :=
  overRows d.n1 d.n2 d.n3 (fun s r b c => foldRange d.n0 (fun s k =>
    let ok := inTens x (o.a + r) (o.b + k) (o.c + b) c
    let s := writeCode s d k r b c (if ok then readCode src x (o.a + r) (o.b + k) (o.c + b) c else 0)
    if d.layout = 2 && k % 32 = 0 && r % 32 = 0 then
      wrNat s (scaleAddr d k r b c) 1 (if ok then (rdByte src (scaleAddr x (o.a + r) (o.b + k) (o.c + b) c)).toNat else 0)
    else s) s) s

/-- ldt.tr through the requantiser (R137): every new row of 32 becomes a layout-1 block. -/
def transposeRequant (src : State) (c : Nat) (r : OpRec) (x d : Tens) (o : Origin) (s : State) : State :=
  let mp := loadMap src x
  let blk := fun row q b e => requantRow src x mp (o.a + row) (o.b + 32 * q) (o.c + b) e
  let s := overRows d.n1 d.n2 d.n3 (fun s row b e => foldRange (d.n0 / 32) (fun s q =>
    let y := (blk row q b e).1
    let s := (y.codes.zip (List.range 32)).foldl (fun s z => writeCode s d (32 * q + z.2) row b e z.1) s
    wrNat s (scaleAddr d (32 * q) row b e) 1 y.scale) s) s
  let all := (List.range d.n3).flatMap (fun e => (List.range d.n2).flatMap (fun b =>
    (List.range (32 * cdiv d.n1 32)).map (fun row => (List.range (d.n0 / 32)).map (fun q => blk row q b e))))
  countRequant s c r all

/-- What a local DMA operation writes, read from src. -/
def copyEffect (src : State) (c : Nat) (r : OpRec) (x d : Tens) (s : State) : State :=
  let o := originOf (nth r.words 0 0)
  match r.op with
  | .ldt => copyMap src x d o originZero d.n0 d.n1 d.n2 d.n3 (copyElems src x d o originZero d.n0 d.n1 d.n2 d.n3 s)
  | .ldtTr => if x.trq then transposeRequant src c r x d o s else transposeExact src x d o s
  | .stt => copyMap src x d originZero o x.n0 x.n1 x.n2 x.n3 (copyElems src x d originZero o x.n0 x.n1 x.n2 x.n3 s)
  | _ => copyMap src x d originZero originZero x.n0 x.n1 x.n2 x.n3
      (copyElems src x d originZero originZero x.n0 x.n1 x.n2 x.n3 s)

/-- A local operation of a channel moves its data, or halts the channel (R250). -/
def runCopy (s : State) (c : Nat) (r : OpRec) : State :=
  let ch := bitsOf r.f 51 50
  let src := sourceOf c r
  match opTens c r 0, opTens c r 1 with
  | some d, some x =>
    let rs := copyRanges r x d
    match busError s rs with
    | some a => haltChannel s c ch 2 a 0
    | none =>
      match checkRanges src s rs with
      | (s, some bad) => haltBad s c ch src bad.1
      | (s, none) =>
        let s' := copyEffect s c r x d s
        let n := if r.op = .stt then copyBytes x x.n0 x.n1 x.n2 x.n3 else copyBytes d d.n0 d.n1 d.n2 d.n3
        releaseAndFinish (fadd s' F.SEQ_DMA_BYTES.COUNT n ch c) c r
  | _, _ => releaseAndFinish s c r

/-- A local operation of a DMA channel completes in issue order (R249). -/
def execDmaComplete (cl : ClusterIx) (ch : ChanIx) (s : State) : Out :=
  if isFrozen s || isStopped s || fget s F.SEQ_DMA_STAT.STATE ch.val cl.val = 2 then .next s
  else match oldestBegun s cl (16 + ch.val) with
    | none => .next s
    | some r => if isRemote r then .next s else .next (throughView cl (fun v => runCopy v cl r) s)

end Sys2Proof.Machine
end

