-- ==== Sys2Proof/Machine/Elementary.lean ====
section
/-! DEFINITION. exp, rsqrt, the activation functions and their derivatives (R93, R146, R149). The spec bounds each result's distance from the exact
value and leaves the method open: a result is the free value of Config where that lies within the bound, else the exact value rounded to FP32
(assumption log 3). The exact value is computed in fixed point with 320 fractional bits, far inside every bound. -/

namespace Sys2Proof.Machine

/-! ### Fixed point -/

/-- 1 in units of 2^-320. -/
def fxOne : Int := 2 ^ 320

/-- A finite FP32 value; its lowest place is 2^-149. -/
def fxOf (v : Num) : Int :=
  match v with
  | .fin n m e => numUnits n (m * 2 ^ (e + 320).toNat / 2 ^ (-(e + 320)).toNat) 0 0
  | _ => 0

def fxNum (x : Int) : Num := .fin (decide (x < 0)) x.natAbs (-320)
def fxMul (a b : Int) : Int := a * b / fxOne
def fxDiv (a b : Int) : Int := a * fxOne / b
def fxSqrt (x : Int) : Int := let n := x.toNat * 2 ^ 320; isqrtAux n (Nat.log2 n / 2 + 1) 0

/-- x squared k times. -/
def fxSquare : Nat → Int → Int
  | 0, x => x
  | k + 1, x => fxSquare k (fxMul x x)

/-- 1 + r (1 + r/2 (1 + r/3 ...)) with n factors left, from factor k on. -/
def fxSeries (r : Int) : Nat → Nat → Int
  | 0, _ => fxOne
  | n + 1, k => fxOne + fxMul r (fxSeries r n (k + 1)) / k

/-- e^x for |x| up to 200; beyond, 0 or e^200. -/
def fxExp (x : Int) : Int :=
  if x < -200 * fxOne then 0 else fxSquare 12 (fxSeries (min x (200 * fxOne) / 4096) 40 1)

/-- arctan (1/n). -/
def fxArctan (n : Nat) : Int :=
  foldRange 150 (fun a k => let x := fxOne / (n ^ (2 * k + 1) * (2 * k + 1) : Nat); if k % 2 = 0 then a + x else a - x) 0

def fxPi : Int := 16 * fxArctan 5 - 4 * fxArctan 239

/-- The logistic function. -/
def fxSigma (x : Int) : Int := fxDiv fxOne (fxOne + fxExp (-x))

def fxTanh (x : Int) : Int :=
  if 100 * fxOne < x then fxOne
  else if x < -100 * fxOne then -fxOne
  else let e := fxExp (2 * x); fxDiv (e - fxOne) (e + fxOne)

/-- The density of the normal distribution. -/
def fxDensity (x : Int) : Int := fxMul (fxExp (-(fxMul x x) / 2)) (fxSqrt (fxDiv fxOne (2 * fxPi)))

/-- Its distribution function, by x + x³/3 + x⁵/15 + ...; beyond 15 it is 0 or 1 far inside every bound. -/
def fxNormal (x : Int) : Int :=
  if 15 * fxOne < x then fxOne
  else if x < -15 * fxOne then 0
  else
    let q := fxMul x x
    let r := foldRange 600 (fun (a : Int × Int) k => (a.1 + a.2, fxMul a.2 q / (2 * k + 3 : Nat))) (0, x)
    fxOne / 2 + fxMul (fxDensity x) r.1

/-- √(2/π), and 0.044715 x². -/
def geluScale : Int := fxSqrt (fxDiv (2 * fxOne) fxPi)
def geluCube (x : Int) : Int := fxMul x x * 44715 / 1000000

/-- tanh √(2/π) (x + 0.044715 x³). -/
def geluTanh (x : Int) : Int := fxTanh (fxMul geluScale (fxMul x (fxOne + geluCube x)))

/-! ### Within the bound -/

/-- The free value where it lies within b of the exact f, else f rounded; f beyond FP32 is infinite. -/
def boundBy (b : Nat) (f : Int) (free : Num) : Num :=
  let r := toF32 (fxNum f)
  if numIsFinite r && numIsFinite free && (fxOf free - f).natAbs ≤ b then free else r

/-- 1 FP32 ulp (R146). -/
def ulp32 (f : Int) : Nat := 2 ^ max (Nat.log2 f.natAbs - 23) 171

/-- Half a BF16 ulp, 2^-133 for a result below 2^-126 (R93). -/
def halfUlp16 (f : Int) : Nat := if f.natAbs < 2 ^ 194 then 2 ^ 187 else 2 ^ (Nat.log2 f.natAbs - 8)

/-- 1 BF16 ulp, at least 2^-20 (R149). -/
def ulp16 (f : Int) : Nat := 2 ^ max (Nat.log2 f.natAbs - 7) 300

/-! ### exp and rsqrt (R64, R146) -/

def f32Exp (v : Num) : Num :=
  match v with
  | .nan => .nan
  | .inf n => if n then numZero else .inf false
  | x => let f := fxExp (fxOf x); boundBy (ulp32 f) f (f32Of (Config.exp32 (f32Bits x)))

/-- The reciprocal square root; that of ±0 is ±∞, that of a negative value NaN (IEEE 754-2019). -/
def f32Rsqrt (v : Num) : Num :=
  match v with
  | .nan => .nan
  | .inf n => if n then .nan else numZero
  | .fin n m e =>
    if m = 0 then .inf n
    else if n then .nan
    else
      let q : Nat := 2 ^ 960 / (fxOf (.fin n m e)).toNat
      let f : Int := (isqrtAux q (Nat.log2 q / 2 + 1) 0 : Nat)
      boundBy (ulp32 f) f (f32Of (Config.rsqrt32 (f32Bits v)))

/-! ### Activation functions and derivatives -/

/-- f(v) of FN 3 to 7 on a finite value: 3 GELU tanh form, 4 GELU erf form, 5 SiLU, 6 sigmoid, 7 tanh (R93, R214). -/
def fxAct (fn : Nat) (x : Int) : Int :=
  match fn with
  | 3 => if 30 * fxOne < x then x else if x < -30 * fxOne then 0 else fxMul x (fxOne + geluTanh x) / 2
  | 4 => fxMul x (fxNormal x)
  | 5 => if 200 * fxOne < x then x else fxMul x (fxSigma x)
  | 6 => fxSigma x
  | _ => fxTanh x

/-- Its derivative (R149). -/
def fxDact (fn : Nat) (x : Int) : Int :=
  match fn with
  | 3 =>
    if 30 * fxOne < x then fxOne else if x < -30 * fxOne then 0
    else
      let t := geluTanh x
      (fxOne + t) / 2 + fxMul (fxMul x (fxOne - fxMul t t)) (fxMul geluScale (fxOne + 3 * geluCube x)) / 2
  | 4 => fxNormal x + fxMul x (fxDensity x)
  | 5 => if 200 * fxOne < x then fxOne else let s := fxSigma x; fxMul s (fxOne + fxMul x (fxOne - s))
  | 6 => let s := fxSigma x; fxMul s (fxOne - s)
  | _ => let t := fxTanh x; fxOne - fxMul t t

/-- f(-∞) and f(+∞) of FN 3 to 7. -/
def actEnd (fn : Nat) (neg : Bool) : Num :=
  match fn with
  | 6 => if neg then numZero else .fin false 1 0
  | 7 => .fin neg 1 0
  | _ => if neg then .fin true 0 0 else .inf false

/-- f'(-∞) and f'(+∞). -/
def dactEnd (fn : Nat) (neg : Bool) : Num :=
  match fn with
  | 6 | 7 => numZero
  | _ => if neg then numZero else .fin false 1 0

/-- f of FN: 0 identity, 1 ReLU, 2 squared ReLU, the others free within their bound. Correct rounding meets the bound of FN 2. -/
def actOf (fn : Nat) (v : Num) : Num :=
  match fn, v with
  | _, .nan => .nan
  | 0, v => v
  | 1, v => if numNeg v || numIsZero v then numZero else v
  | 2, v => if numNeg v || numIsZero v then numZero else f32Mul v v
  | k, .inf n => actEnd k n
  | k, x => let f := fxAct k (fxOf x); boundBy (halfUlp16 f) f (f32Of (Config.actFn (BitVec.ofNat 3 k) (f32Bits x)))

/-- f' of FN (R149). -/
def dactOf (fn : Nat) (z : Num) : Num :=
  match fn, z with
  | _, .nan => .nan
  | 0, _ => .fin false 1 0
  | 1, z => if numNeg z || numIsZero z then numZero else .fin false 1 0
  | 2, z => if numNeg z || numIsZero z then numZero else f32Mul (.fin false 1 1) z
  | k, .inf n => dactEnd k n
  | k, x => let f := fxDact k (fxOf x); boundBy (ulp16 f) f (f32Of (Config.dactFn (BitVec.ofNat 3 k) (f32Bits x)))

end Sys2Proof.Machine
end

