-- ==== Sys2Proof/Machine/Drain.lean ====
section
/-! DEFINITION. Drains (R92 to R96, R149, R150, R214, R215) and the parallel combination (R89). -/

namespace Sys2Proof.Machine

/-- v of a part: the entry, its error term folded in (R89, R92). -/
def partValue (k : Cluster) (e : Nat) (u : SlotUse) (r n : Nat) : Num :=
  let v := f32Of (accAt k e (physRow u r) n)
  if u.comp then f32AddF v (f32Of (accAt k e (physRow u r + 1) n)) else v

/-- The combination of R89 over the parts of a split. -/
def combineParts (k : Cluster) (e : Nat) (us : List SlotUse) (r n : Nat) : Num :=
  match us with
  | [] => numZero
  | u :: t => t.foldl (fun v u => f32AddF v (partValue k e u r n)) (partValue k e u r n)

/-- Every entry that the drain reads here is finite (R62). -/
def partsFinite (k : Cluster) (e : Nat) (us : List SlotUse) (r n : Nat) : Bool :=
  us.all (fun u => numIsFinite (f32Of (accAt k e (physRow u r) n)) &&
    (!u.comp || numIsFinite (f32Of (accAt k e (physRow u r + 1) n))))

/-- The accumulator word of an entry is poisoned (R96); its readers have met it. -/
def wordPoisoned (k : Cluster) (e row n : Nat) : Bool := (nget k.accSyn (accKey e row n / 2)).isSome

/-- An accumulator word read here is poisoned (R96). -/
def partsPoisoned (k : Cluster) (e : Nat) (us : List SlotUse) (r n : Nat) : Bool :=
  us.any (fun u => wordPoisoned k e (physRow u r) n || (u.comp && wordPoisoned k e (physRow u r + 1) n))

/-- sab of R92. -/
def scalePair (us : List SlotUse) : Num :=
  match us with
  | u :: _ => f32MulF (f32Of u.sA) (f32Of u.sB)
  | [] => .fin false 1 0

/-- Scale pair, then bias (R92). -/
def biased (sab v : Num) (bias : Option Elem) : Num :=
  let v := if f32Bits sab = 0x3F800000 then v else f32MulF v sab
  match bias with
  | some b => f32AddF v b.v
  | none => v

/-- An operand of a drain at a place; a position beyond the lengths is +0 (R199). DESIGN CHOICE (assumption log 77): the product of a layout-0
element and its scale is rounded to FP32 as R58 says and not flushed where it is subnormal; R63 item 2 names results of operations, and does
not say whether decoding is one. -/
def drainElem (s : State) (inf : Bool) (t : Option Tens) (i0 i1 i2 : Nat) : Option Elem :=
  t.map (fun t => readElem s t (loadMap s t) false inf i0 i1 i2 0)

/-- What one output entry of a drain is: value, second value of drain.dgate, whether a bad word took part, SCALE_RANGE of its operands. -/
structure DrainOut where
  v : Num
  v2 : Num
  bad : Bool
  sr : Nat

/-- Steps of R92 and R150 for entry (r, n) with output position (i0, i1). x1, x2: the operands of TX1 and TX2. -/
def drainEntry (s : State) (c : Nat) (op : TOp) (f : BitVec 52) (slots : List SlotUse) (x1 x2 : Option Tens)
    (r n i0 i1 i2 : Nat) : DrainOut :=
  let k := clu s c
  let e := bitsOf f 51 50
  let np := 2 ^ bitsOf f 41 40
  let fn := bitsOf f 44 42
  let inf := bitOf f 9
  let ups := slots.take np
  let gates := slots.drop np
  let v0 := combineParts k e ups r n
  let at1 := fun a b d => drainElem s inf x1 a b d
  let at2 := fun a b d => drainElem s inf x2 a b d
  let bad := fun (o : Option Elem) => (o.map (·.bad)).getD false
  let sr := fun (o : Option Elem) => b2n ((o.map (·.sr)).getD false)
  let val := fun (o : Option Elem) => (o.map (·.v)).getD numZero
  let pz := partsPoisoned k e slots r n
  match op with
  | .drainAct =>
    let b := at1 i0 0 0
    ⟨flush32 (actOf fn (biased (scalePair ups) v0 b)), numZero, pz || bad b, sr b⟩
  | .drainGate =>
    let b := at1 i0 0 0
    let g := at2 i0 0 0
    let w := biased (scalePair gates) (combineParts k e gates r n) g
    ⟨f32MulF (flush32 (actOf fn w)) (biased (scalePair ups) v0 b), numZero, pz || bad b || bad g, sr b + sr g⟩
  | .drainDact =>
    let z := at1 i0 i1 i2
    let b := at2 i0 0 0
    ⟨f32MulF (biased (scalePair ups) v0 b) (flush32 (dactOf fn (val z))), numZero, pz || bad z || bad b, sr z + sr b⟩
  | .drainDgate =>
    let w := at1 i0 i1 i2
    let u := at2 i0 i1 i2
    let dv := biased (scalePair ups) v0 none
    ⟨f32MulF dv (flush32 (actOf fn (val w))), f32MulF (f32MulF dv (val u)) (flush32 (dactOf fn (val w))),
     pz || bad w || bad u, sr w + sr u⟩
  | _ => ⟨v0, numZero, pz, 0⟩

/-- A wide output of a drain in the subnormal range becomes a signed zero (R62, R92). -/
def drainFlush (t : Tens) (v : Num) : Num :=
  if t.layout = 0 && (t.fmt = .fp32 || t.fmt = .bf16) then
    let c := (encodeScalar t.fmt (f32Of t.scaleBits) false false v).code
    if isSubnormal32 (floatValue t.fmt c) then .fin (numNeg v) 0 0 else v
  else v

/-- The output element as stored is not finite (R53, R62). -/
def outNonfinite (s : State) (t : Tens) (i0 i1 i2 : Nat) : Bool :=
  if !inTens t i0 i1 i2 0 then false
  else if t.layout ≠ 0 && (rdByte s (scaleAddr t i0 i1 i2 0)).toNat = 0xFF then true
  else !numIsFinite (elemValue t.fmt (t.layout ≠ 0) (readCode s t i0 i1 i2 0))

/-- Ranges of a drain's operands over the output window: biases along dimension 0, z, u and w at the output positions
(R215), for the `w` columns that are written: the words of an entry that is not written are not met (DEDUCED, log 11). -/
def drainRanges (op : TOp) (x1 x2 : Option Tens) (i0 i1 i2 m w : Nat) : List (Nat × Nat) :=
  let b := fun (t : Option Tens) => match t with | some t => windowRanges t i0 w 0 1 0 1 0 1 | none => []
  let z := fun (t : Option Tens) => match t with | some t => windowRanges t i0 w i1 m i2 1 0 1 | none => []
  match op with
  | .drainAct => b x1
  | .drainGate => b x1 ++ b x2
  | .drainDact => z x1 ++ b x2
  | .drainDgate => z x1 ++ z x2
  | _ => []

/-- Encode one output of a drain, with its counts of R62, R95, R112. -/
def drainStore (s : State) (c : Nat) (r : OpRec) (t : Tens) (i0 i1 i2 m : Nat) (pz : Bool)
    (out : Nat → Nat → Num × Bool) (fin : Nat → Nat → Bool) : State :=
  let e := bitsOf r.f 51 50
  let x := storeWindow t (bitOf r.f 10) (bitOf r.f 9) i0 256 i1 m i2 0
    (fun a b => let o := out (a - i0) (b - i1); (drainFlush t o.1, o.2 || pz)) (encStart s)
  let s := finishEnc x
  let nf := foldRange m (fun k row => foldRange 256 (fun k n =>
    k + b2n (fin n row && outNonfinite s t (i0 + n) (i1 + row) i2)) k) 0
  let s := engNonfinite s c e r.layer nf
  let s := engCrush s c e r.layer x.cr
  let s := opCount s c r.layer 28 x.bl
  opAmax s c r.layer r.st x.amax

/-- Write the bits of one FP32 output of drain.raw. -/
def rawPut (t : Tens) (i0 i1 i2 : Nat) (v : BitVec 32) (pz : Bool) (s : State) : State :=
  if i0 < t.n0 then
    let s := writeCode s t i0 i1 i2 0 v.toNat
    if pz then poisonAt s (elemAddr t i0 i1 i2 0) else s
  else s

/-- drain.raw (R92, R215). DESIGN CHOICE (assumption log 77): with parts the value v of R89 is written as its FP32 bits, not divided by the
destination's scale as R95 divides an encoded output: R92 says "with parts, v of R89 only", and not which. -/
def rawDrain (s : State) (c : Nat) (r : OpRec) (t : Tens) (i0 i1 i2 m : Nat) (pz : Bool) : State :=
  let k := clu s c
  let e := bitsOf r.f 51 50
  let u := r.slots.headD ⟨0, 0, 0, false, 0, 0⟩
  let split := bitsOf r.f 41 40 ≠ 0
  let wp := wordPoisoned k e
  let s := foldRange m (fun s row => foldRange 256 (fun s n =>
    if split then rawPut t (i0 + n) (i1 + row) i2 (f32Bits (combineParts k e r.slots row n))
        (pz || partsPoisoned k e r.slots row n) s
    else if u.comp then
      let p := physRow u row
      let s := rawPut t (i0 + n) (i1 + 2 * row) i2 (accAt k e p n) (pz || wp p n) s
      rawPut t (i0 + n) (i1 + 2 * row + 1) i2 (accAt k e (p + 1) n) (pz || wp (p + 1) n) s
    else rawPut t (i0 + n) (i1 + row) i2 (accAt k e (physRow u row) n) (pz || wp (physRow u row) n) s) s) s
  let nf := if split then foldRange m (fun q row => foldRange 256 (fun q n =>
    q + b2n (i0 + n < t.n0 && partsFinite k e r.slots row n && !numIsFinite (combineParts k e r.slots row n))) q) 0 else 0
  engNonfinite s c e r.layer nf

/-- A drain writes its rows (R92). -/
def runDrain (s : State) (c : Nat) (r : OpRec) : State :=
  match opTens c r 0, r.slots with
  | some o, u :: _ =>
    let e := bitsOf r.f 51 50
    let w := nth r.words 0 0
    let i0 := winI0 w
    let i1 := winI1 w
    let i2 := winI2 w
    let m := u.rows
    let base := destCount r.op
    let x1 := opTens c r base
    let x2 := opTens c r (base + 1)
    let src := sourceOf c r
    let (s, bad) := checkRanges src s (drainRanges r.op x1 x2 i0 i1 i2 m (min 256 (o.n0 - i0)))
    let (s, abad) := meetSlots s c e src r.slots
    let s := faultFor s c src (bad.or abad)
    let pz := r.slots.any (fun u => (slotOf s c e u.slot).poison)
    let apz := foldRange m (fun b row => b || (List.range 256).any (fun n => partsPoisoned (clu s c) e r.slots row n)) false
    let s := if pz || bad.isSome || apz then fset s F.SEQ_MX_EVT.POISON 1 e c else s
    if r.op = .drainRaw then rawDrain s c r o i0 i1 i2 m pz
    else
      let s0 := s
      let entry := fun n row => drainEntry s0 c r.op r.f r.slots x1 x2 row n (i0 + n) (i1 + row) i2
      let fin := fun n row => partsFinite (clu s0 c) e r.slots row n
      let sr := foldRange m (fun k row => foldRange 256 (fun k n => if i0 + n < o.n0 then k + (entry n row).sr else k) k) 0
      let s := drainStore s c r o i0 i1 i2 m pz (fun n row => ((entry n row).v, (entry n row).bad)) fin
      let s := match (if r.op = .drainDgate then opTens c r 1 else none) with
        | some o2 => drainStore s c r o2 i0 i1 i2 m pz (fun n row => ((entry n row).v2, (entry n row).bad)) fin
        | none => s
      opEvent s c r.layer 3 sr
  | _, _ => s

/-- A drain writes its last output row and raises its token (R94). -/
def execDrainComplete (cl : ClusterIx) (e : EngineIx) (s : State) : Out := .next (completeOn s cl (2 * e.val + 1) runDrain)

end Sys2Proof.Machine
end

