-- ==== Sys2Proof/Machine/Freeze.lean ====
section
/-! DEFINITION. The freeze, the read-out of a frozen P40 (R460, R472 to R476) and the test access port (R477, R489). -/

namespace Sys2Proof.Machine

/-! ### Freezing (R472, R474) -/

/-- The freeze record: cause 1 FREEZE_n, 2 FREEZE command, 3 root unlock. -/
def freezeRecord (s : State) (cause session : Nat) : List Byte :=
  leBytes 4 0x4B525A46 ++ leBytes 2 1 ++ leBytes 1 cause ++ leBytes 1 session ++ leBytes 8 (tickNow s) ++
  leBytes 4 (reg s .HUB_BOOT_STAT).toNat ++ leBytes 4 (reg s .PWR_GOV_STAT).toNat ++ leBytes 8 (reg s .FBK_COUNT).toNat ++
  leBytes 4 (reg s .FBK_STAT).toNat ++ leBytes 4 (reg s .HUB_CLK_STAT).toNat ++ zeros 8 ++
  (List.range 8).flatMap (fun p => leBytes 8 (reg s .CRN_EPOCH p).toNat) ++
  (List.range 32).flatMap (fun c => leBytes 4 (reg s .SEQ_STAT 0 c).toNat) ++ zeros 16

/-- Commands of every session end without a response (R430). -/
def dropCommands (s : State) : State :=
  { s with sess := s.sess.map (fun x => (x.1, { x.2 with outgoing := [], asm := none, cmds := [], started := false, dead := false })) }

/-- The clocks stop; the Field Book freezes with the last entry written (R278, R284). -/
def freezeNow (s : State) (cause session : Nat) : State :=
  let s := { dropCommands s with freeze := { frozen := true, record := freezeRecord s cause session, lost := false } }
  let s := fput (fput s F.FBK_STAT.FREEZE_IDX ((fget s F.FBK_COUNT.COUNT + 8191) % 8192)) F.FBK_STAT.FROZEN 1
  alert s F.HUB_ALERT.FROZEN

def execFreezePin (s : State) : Out := .next (if isFrozen s then s else freezeNow s 1 0xFF)

/-- REFCLK is lost or the root PLL loses lock after start-up has left RAILS; which of the two it is decides REFCLK_OK, a free value (R460,
R461). -/
def execRootUnlock (s : State) : Out :=
  if isFrozen s || phase s = 0 then .next s
  else
    let (n, s) := drawFree s
    let s := fput (fput s F.HUB_CLK_STAT.ROOT_LOCK 0) F.HUB_CLK_STAT.REFCLK_OK ((Config.freeWord n).toNat % 2)
    .next (freezeNow s 3 0xFF)

/-- On a frozen P40 a junction sensor reaches 125 °C: regulator hardware removes power and the frozen state is lost (R473). -/
def execJunction125cPowerOff (s : State) : Out :=
  if !isFrozen s || !s.boot.inputOn then .next s
  else
    let t := coldState s 0
    .next { t with freeze := { frozen := true, record := [], lost := true } }

/-! ### What reads of registers return -/

/-- Bytes 4n to 4n + 3 of the Field Book entry that FBK_RDIDX names (R284). -/
def fbReadData (s : State) (n : Nat) : Nat := rdNat s (fbBase + 32 * fget s F.FBK_RDIDX.INDEX + 4 * n) 4

/-- The value that a read of a register returns (R10, R11). -/
def regPeek (s : State) (r : RegName) (idx inst : Nat) : Nat :=
  match r with
  | .FBK_RDDATA => fbReadData s idx
  | _ => readByAccess r (reg s r idx inst).toNat

/-- Four bytes of control-register space; unmapped addresses read 0 (R475). -/
def csrBytes (s : State) (a : Nat) : List Byte :=
  match regAt a with
  | some (r, i, n) => leBytes 4 (regPeek s r i n)
  | none =>
    match regAt (a - 4) with
    | some (r, i, n) => if (regPlace r).width = 64 then leBytes 4 (regPeek s r i n / 2 ^ 32) else zeros 4
    | none => zeros 4

/-! ### Segments (R475, R476) -/

/-- Kind of a segment: 1 STATE, 2 MEMORY, 3 RAW, with the bytes served; none when the directory does not list it. -/
def segment (seg : Nat) : Option (Nat × Nat) :=
  let hi := seg / 256
  let lo := seg % 256
  if seg = 1 then some (1, 256)
  else if seg = 2 then some (2, 72 * 0x40000)
  else if seg = 3 then some (1, 0x4000000)
  else if seg = 4 || (hi = 1 && lo < 32) || (hi = 6 && lo < 8) || (hi = 8 && lo < 4) || seg = 0x900 then some (1, Config.scanLength seg)
  else if hi = 2 && lo < 32 then some (2, 72 * 0x80000)
  else if hi = 3 && lo < 32 then some (2, 72 * 0x800000)
  else if hi = 4 && lo < 128 then some (2, 72 * 0x4000)
  else if hi = 5 && lo < 32 then some (2, 72 * 0x8000)
  else if hi = 7 && lo < 8 then some (3, 520 * 524288)
  else none

/-- The segments that the directory lists after itself, in ascending order. -/
def segments : List Nat := (List.range 0x901).filter (fun g => (segment g).isSome)

def dirEntry (seg kind len : Nat) : List Byte := leBytes 4 seg ++ leBytes 1 kind ++ zeros 3 ++ leBytes 8 len

/-- The directory, its own entry first. -/
def roDirectory : List Byte :=
  dirEntry 0 1 (16 * (segments.length + 1)) ++ segments.flatMap (fun g => let x := (segment g).getD (0, 0); dirEntry g x.1 x.2)

/-- Bytes of a segment; none when it is not listed. -/
def segLength (seg : Nat) : Option Nat := if seg = 0 then some (16 * (segments.length + 1)) else (segment seg).map (·.2)

/-- A word of a store as stored. -/
def storedWord (s : State) (a : Nat) : CodeWord :=
  let d := BitVec.ofNat 64 (rdNat s a 8)
  ⟨d, checkByte d ^^^ synAt s a⟩

/-- Word w of the accumulator memory of engine e of cluster c: columns 2m and 2m + 1 of a row (R80). -/
def accWord (s : State) (c e w : Nat) : CodeWord :=
  let k := clu s c
  let key := (e * 1024 + w / 128) * 256 + 2 * (w % 128)
  accCell k (key / 2)

/-- Word w of a MEMORY segment. -/
def segWord (s : State) (seg w : Nat) : CodeWord :=
  let lo := seg % 256
  if seg = 2 then storedWord s (0x7E0000000000 + 8 * w)
  else if seg / 256 = 2 then storedWord s (nearBase lo + 8 * w)
  else if seg / 256 = 3 then storedWord s (deepBase lo + 8 * w)
  else if seg / 256 = 4 then accWord s (lo / 4) (lo % 4) w
  else ngetD (codeWord 0) (clu s lo).side w

/-- Group g of a MEMORY segment: 8 data words, then their check bytes. -/
def memGroup (s : State) (seg g : Nat) : List Byte :=
  let ws := (List.range 8).map (fun k => segWord s seg (8 * g + k))
  ws.flatMap (fun w => leBytes 8 w.data.toNat) ++ ws.map (·.chk)

/-- Whether a way of a cache set is used before another in the order of uses: a way without a line first, then by last use, then by number. -/
def usedBefore (s : State) (j k : Nat) : Bool :=
  let u : Nat → Nat := fun k => match nget s.lines k with
    | some l => l.used + 1
    | none => 0
  u j < u k || (u j == u k && j < k)

/-- The 8 bytes after a line of an edge cache: set, way, valid, LRU rank, which counts the ways of the set used before it (R476; assumption log
29). -/
def lineMark (s : State) (k : Nat) : Nat :=
  let set := k / 16
  let rank := ((List.range 16).filter (fun w => usedBefore s (16 * set + w) k)).length
  set % 32768 + k % 16 * 2 ^ 16 + b2n (nget s.lines k).isSome * 2 ^ 20 + rank * 2 ^ 24

/-- The 512 bytes that a line stores: data, check bytes, tag (R231, R476; assumption log 29). An invalid line holds free values. -/
def lineStored (s : State) (k : Nat) : List Byte :=
  match nget s.lines k with
  | some l =>
    let a := 448 * l.seg
    let ws := (List.range 56).map (fun i => let d := BitVec.ofNat 64 (rdNat s (a + 8 * i) 8)
                                            CodeWord.mk d (checkByte d ^^^ lineSynAt s (a + 8 * i)))
    ws.flatMap (fun w => leBytes 8 w.data.toNat) ++ ws.map (·.chk) ++ leBytes 8 (tagStored s l.seg)
  | none => (List.range 64).flatMap (fun i => leBytes 8 (Config.readoutWord (0x700 + k / 524288) (64 * (k % 524288) + i) s.free).toNat)

/-- A line of a RAW segment. -/
def rawLine (s : State) (k : Nat) : List Byte := lineStored s k ++ leBytes 8 (lineMark s k)

/-- Bytes from a list of groups of size k that begins at group off / k. -/
def cutGroups (k off n : Nat) (f : Nat → List Byte) : List Byte :=
  (((List.range (cdiv (off % k + n) k)).flatMap (fun i => f (off / k + i))).drop (off % k)).take n

/-- n bytes of a segment from an offset. What scan maps hold is the implementation's: free values (R476). -/
def segBytes (s : State) (seg off n : Nat) : List Byte :=
  let kind := ((segment seg).getD (1, 0)).1
  if seg = 0 then (roDirectory.drop off).take n
  else if seg = 1 then (s.freeze.record.drop off).take n
  else if seg = 3 then (List.range (n / 4)).flatMap (fun i => csrBytes s (0x7F0000000000 + off + 4 * i))
  else if kind = 2 then cutGroups 72 off n (memGroup s seg)
  else if kind = 3 then cutGroups 520 off n (fun g => rawLine s (seg % 256 * 524288 + g))
  else (List.range (n / 8)).flatMap (fun i => leBytes 8 (Config.readoutWord seg (off / 8 + i) s.free).toNat)

/-- READOUT of a range; none when the range is refused (R475). -/
def readoutBytes (s : State) (seg off n : Nat) : Option (List Byte) :=
  match segLength seg with
  | some len => if off % 8 = 0 && n % 8 = 0 && 8 ≤ n && n ≤ 65536 && off + n ≤ len then some (segBytes s seg off n) else none
  | none => none

/-! ### The test access port (R477, R489) -/

def modTap (s : State) (f : Tap → Tap) : State := { s with tap := f s.tap }

/-- The TAP answers while its hub has power. -/
def tapLives (s : State) : Bool := s.boot.inputOn && !s.freeze.lost

def execIdcode (s : State) : Out :=
  .next (if tapLives s then modTap s (fun t => { t with instr := .idcode, out := 0x0004074B }) else s)

def execBypass (s : State) : Out := .next (if tapLives s then modTap s (fun t => { t with instr := .bypass, out := 0 }) else s)

/-- Levels of pins are sampled, or values preloaded, into the boundary register. -/
def execSamplePreload (pins : List Bool) (s : State) : Out :=
  .next (if tapLives s then modTap s (fun t => { t with instr := .samplePreload, boundary := pins }) else s)

def execExtest (pins : List Bool) (s : State) : Out :=
  .next (if tapLives s then modTap s (fun t => { t with instr := .extest, boundary := pins }) else s)

def execRoAddr (v : Word) (s : State) : Out :=
  .next (if tapLives s then modTap s (fun t => { t with instr := .roAddr, addr := v }) else s)

/-- The word at the read-out address; outside a segment, or while the P40 is not frozen, the spec gives none: a free value. -/
def roWord (s : State) : Word × State :=
  let off := bitsOf s.tap.addr 47 0
  match (if isFrozen s then readoutBytes s (bitsOf s.tap.addr 63 48) off 8 else none) with
  | some b => (BitVec.ofNat 64 (leNat b), s)
  | none => (let d := drawFree s; (Config.freeWord d.1, d.2))

def execRoData (s : State) : Out :=
  if !tapLives s then .next s
  else
    let (w, s) := roWord s
    .next (modTap s (fun t => { t with instr := .roData, out := w, addr := putBits t.addr 47 0 (bitsOf t.addr 47 0 + 8) }))

/-- TRST_n low: the TAP is in reset, with IDCODE in force (assumption log 66). -/
def execTapReset (s : State) : Out := .next (modTap s (fun t => { t with instr := .idcode, boundary := [], addr := 0, out := 0 }))

end Sys2Proof.Machine
end

