-- ==== Sys2Proof/Machine/RegAccess.lean ====
section
/-! DEFINITION. Reads and writes of registers by management cores, Meridian and SMBus (R10, R227), each register's own rule for who may write
it and what a write does, and the SMBus commands (R495, R496). -/

namespace Sys2Proof.Machine

/-- The state a meaning answers. -/
def stateOf (o : Out) (s : State) : State :=
  match o with
  | .next t => t
  | _ => s

def partIx (p : Nat) : PartIx := ⟨p % 8, Nat.mod_lt _ (by decide)⟩
def coreIx (n : Nat) : CoreIx := ⟨n % 4, Nat.mod_lt _ (by decide)⟩

/-! ### Who may write (R130, R281, R310, R312, R337, R338, R376, R406, R428, R432, R451, R496, R497) -/

/-- The sources that a register listens to; a write from another is ignored. Where no rule restricts it, Meridian WRITE and management
cores. -/
def mayWrite (r : RegName) (src : Source) : Bool :=
  match src with
  | .smbus => (match r with
    | .HUB_RESET | .HUB_CORE_RELEASE | .FBK_CTL | .FBK_RDIDX | .HUB_ALERT => true
    | _ => false)
  | .meridian => (match r with
    | .MBX_DB_RING | .HUB_WDT_KICK => false
    | _ => true)
  | .core n => (match (regPlace r).block, r with
    | .LNK, _ | .TCK, _ | .CRN, _ => false
    | .ECC, .ECC_RET_CTL => false
    | .ECC, _ => n == 3
    | .PWR, .PWR_RESTART | .PWR, .PWR_BAR_OFFSET => false
    | .PWR, _ => n == 3
    | _, .MBX_MER_CFG | _, .MBX_MER_MBXTMO => n == 0
    | _, .HUB_STH_PLAN => n == 1
    | _, .HUB_RCP_APPLY | _, .HUB_TRB_ANSWER | _, .HUB_LOSS_REPORT | _, .HUB_RED_TABLE | _, .HUB_WBE_LIST => false
    | _, .HUB_CORE_RELEASE | _, .HUB_RESET | _, .HUB_FW_CMD | _, .HUB_ALERT | _, .FBK_CTL => false
    | _, _ => true)

/-! ### Plain fields and their limits -/

/-- Not below a limit. -/
def atLeast (lo v : Nat) : Nat := max lo v

/-- A written value after the limits that its field states. -/
def limited (r : RegName) (v : Nat) : Nat :=
  match r with
  | .HUB_WDT_CTL => natPut v 23 0 (atLeast 100 (natBits v 23 0))
  | .HUB_TRB_CFG => natPut (natPut v 23 16 (atLeast 0x10 (natBits v 23 16))) 15 12 (atLeast 1 (natBits v 15 12))
  | .SEQ_STH_LIMIT => natPut v 16 0 (min 114688 (natBits v 16 0))
  | .LNK_E2E_TMO => natPut v 23 0 (atLeast 1250 (natBits v 23 0))
  | .LNK_RED_TMO => natPut v 31 0 (atLeast 125000 (natBits v 31 0))
  | .TCK_PERIOD => natPut v 15 0 (atLeast 64 (natBits v 15 0))
  | .CRN_COMMIT_TMO => natPut v 31 0 (atLeast 125000 (natBits v 31 0))
  | .PWR_VCFG => natPut v 5 0 (clampTo 20 60 (natBits v 5 0))
  | .PWR_DROOP_CFG => natPut (natPut v 31 16 (atLeast 125 (natBits v 31 16))) 5 0 (clampTo 10 50 (natBits v 5 0))
  | .MBX_MER_CFG =>
    natPut (natPut v 31 28 (if natBits v 31 28 = 1 then 1 else 2)) 23 0 (atLeast 1250 (natBits v 23 0))
  | _ => v

/-- A write by access code, with the field's limits (R10); the value before the tick is kept for what a write reaches only at the tick's end
(R99, R162, R303). -/
def plainWrite (s : State) (r : RegName) (idx inst v : Nat) : State := writeReg (holdReg s r idx inst) r idx inst (limited r v)

/-- The settings of Cairn do not change while a partition runs or restores, but for ARG (R376). -/
def crnWrite (s : State) (r : RegName) (p v : Nat) : State :=
  let locked := crnState s p = 1 || crnState s p = 3
  match r with
  | .CRN_ARG | .CRN_EVT => plainWrite s r p 0 v
  | _ => if locked then s else plainWrite s r p 0 v

/-- CRN_CMDp (R378). -/
def crnCommand (src : Source) (p cmd : Nat) (s : State) : State :=
  let ix := partIx p
  match cmd with
  | 0 => s
  | 1 => stateOf (execHalt src ix s) s
  | 2 => stateOf (execFlip src ix s) s
  | 3 => stateOf (execResume src ix s) s
  | 4 => stateOf (execMirrorLoad src ix s) s
  | 5 => stateOf (execRestore src ix s) s
  | 6 => stateOf (execCkptAt src ix s) s
  | 7 => stateOf (execDrained src ix s) s
  | 8 => stateOf (execSetEpoch src ix s) s
  | _ => stateOf (crnCmd src p cmd (fun s => rejectCmd s p cmd) s) s

/-- HUB_RCP_APPLYp and HUB_TRB_ANSWERp (R125, R130). -/
def applyWrite (src : Source) (p v : Nat) (s : State) : State :=
  let s := if natBit v 1 then stateOf (execHoldNext src (partIx p) s) s else s
  if natBit v 0 then stateOf (execApply src (partIx p) s) s else s

def answerWrite (src : Source) (p v : Nat) (s : State) : State :=
  match natBits v 1 0 with
  | 1 => stateOf (execAnswerCommit src (partIx p) s) s
  | 2 => stateOf (execAnswerReplay src (partIx p) s) s
  | 3 => stateOf (execAnswerSkip src (partIx p) s) s
  | _ => s

/-- A write that reaches its register. -/
def writeEffect (src : Source) (r : RegName) (idx inst v : Nat) (s : State) : State :=
  match r with
  | .HUB_WDT_KICK => kick src (coreIx idx) v s
  | .HUB_CORE_RELEASE => releaseHeld src v s
  | .HUB_PART => writePart s idx v
  | .HUB_WIN => writeWin s idx v
  | .HUB_RCP_APPLY => applyWrite src idx v s
  | .HUB_TRB_ANSWER => answerWrite src idx v s
  | .HUB_LOSS_REPORT => stateOf (execLossReport src (partIx idx) (BitVec.ofNat 32 v) s) s
  | .HUB_RESET => resetWrite src v s
  | .HUB_FW_CMD => if fwFrom src s then fwCommand s (natBits v 2 0) else s
  | .ECC_SCR_GO => scrubWrite src v s
  | .ECC_RET_CTL => acceptEmptyWrite src v s
  | .FBK_CTL => thawWrite src v s
  | .LNK_STATION => writeStation s v
  | .LNK_PCFG => writePcfg s (6 * inst + idx) v
  | .CRN_CMD => crnCommand src idx (natBits v 3 0) s
  | .CRN_BUDDY => stateOf (execBuddyWrite src (partIx idx) .buddy (BitVec.ofNat 64 v) s) s
  | .CRN_BUDDYADDR => stateOf (execBuddyWrite src (partIx idx) .buddyAddr (BitVec.ofNat 64 v) s) s
  | .PWR_CAP => capWrite src v s
  | .PWR_DOM_CMD => domCmdWrite s v
  | .PWR_RESTART => restartWrite src v s
  | .MBX_DB_RING => ringWrite src idx (BitVec.ofNat 64 v) s
  | _ =>
    match (regPlace r).block with
    | .CRN => crnWrite s r idx v
    | .SEQ => if domState s inst = 0 then plainWrite s r idx inst v else s
    | _ => plainWrite s r idx inst v

/-- The register that an access of a width names; none is a bus error (R226, R227). -/
def accessOf (addr width : Nat) : Option (RegName × Nat × Nat) :=
  match regAt addr with
  | some (r, i, n) => if (regPlace r).width = 8 * width then some (r, i, n) else none
  | none => none

/-- The requester can make an access: a core runs, and the P40 has power. On a frozen one only a cold HUB_RESET acts (R473). -/
def canAccess (src : Source) (r : RegName) (s : State) : Bool :=
  if isFrozen s then r == .HUB_RESET
  else match src with
    | .core n => coreRuns s n
    | _ => true

/-- A write of a register, and whether it ends without a bus error. -/
def regWrite (src : Source) (addr width v : Nat) (s : State) : State × Bool :=
  match accessOf addr width with
  | none => (s, false)
  | some (r, i, n) =>
    if !canAccess src r s then (s, true)
    else if r = .MBX_PUT then mbxPutWrite src i (BitVec.ofNat 64 v) s
    else if mayWrite r src then (writeEffect src r i n v s, true)
    else (s, true)

/-- A read of a register: its value, RC fields cleared but for events of the present tick (R10, R12); none is a bus error. -/
def regRead (src : Source) (addr width : Nat) (s : State) : Option Nat × State :=
  match accessOf addr width with
  | none => (none, s)
  | some (.MBX_DATA, i, _) =>
    (match src with
     | .core n => if n.val = receiverOf i && (i < 48 || 56 ≤ i) then (some (reg s .MBX_DATA i).toNat, takeBox s i) else (none, s)
     | _ => (none, s))
  | some (r, i, n) =>
    let x := readReg s r i n
    if isFrozen s then (some (regPeek s r i n), s)
    else (some (if r = .FBK_RDDATA then fbReadData s i else x.2), x.1)

/-- A write to a register (R10); a core's bus error is logged by its firmware (R226). -/
def execRegisterWrite (src : Source) (addr : BitVec 48) (width : Nat) (v : Word) (s : State) : Out :=
  let r := regWrite src addr.toNat width v.toNat s
  .next (if r.2 then r.1 else hubBusError src addr.toNat s)

/-! ### SMBus (R495, R496) -/

/-- SMBus answers from the end of RAILS, and after a start-up that stopped in RAILS, while the hub has power (R434, R460, R495). -/
def smbLives (s : State) : Bool :=
  s.boot.inputOn && !s.freeze.lost && (1 ≤ phase s || fbit s F.HUB_BOOT_STAT.STOPPED)

def modSmb (s : State) (f : Smb → Smb) : State := { s with smb := f s.smb }

/-- Status of a command: 0 done, 1 refused, 2 bus error, 3 busy; data of a read. -/
def smbEnd (s : State) (status : Nat) (out : Word) : State := modSmb s (fun x => { x with status := status, out := out })

def execSmbSetAddress (addr : BitVec 48) (pecOk : Bool) (s : State) : Out :=
  .next (if smbLives s && pecOk then modSmb s (fun x => { x with addr := addr.toNat, status := 0 }) else s)

/-- Registers that SMBus reads. -/
def smbReads (r : RegName) (inst : Nat) : Bool :=
  match r with
  | .HUB_ID | .HUB_BOOT_STAT | .HUB_BOOT_TIME | .HUB_CLK_STAT | .HUB_CORE_STAT | .HUB_CORE_EVT | .HUB_ALERT => true
  | .PWR_THERM | .PWR_STOP_STAT | .FBK_STAT | .FBK_COUNT | .FBK_LOST | .FBK_RDIDX | .FBK_RDDATA => true
  | .LNK_STATION => inst == 0
  | _ => false

def execSmbReadRegister (pecOk : Bool) (s : State) : Out :=
  if !smbLives s || !pecOk then .next s
  else match regAt s.smb.addr with
    | some (r, i, n) => .next (if smbReads r n then smbEnd s 0 (BitVec.ofNat 64 (regPeek s r i n)) else smbEnd s 1 0)
    | none => .next (smbEnd s 1 0)

/-- A write: only to the registers of R496, and on a frozen P40 only a cold HUB_RESET with its key (R473). -/
def smbWrite (s : State) (width : Nat) (v : Word) : State :=
  match regAt s.smb.addr with
  | none => smbEnd s 1 0
  | some (r, i, n) =>
    let cold := r = .HUB_RESET && natBits v.toNat 1 0 = 2 && natBits v.toNat 31 16 = 0x5253
    if !mayWrite r .smbus || (isFrozen s && !cold) then smbEnd s 1 0
    else if (regPlace r).width ≠ 8 * width then smbEnd s 2 0
    else smbEnd (writeEffect .smbus r i n v.toNat s) 0 0

def execSmbWriteRegister (width : Nat) (v : Word) (pecOk : Bool) (s : State) : Out :=
  .next (if smbLives s && pecOk then smbWrite s width v else s)

/-- The status of the last command is shifted out. -/
def execSmbReadStatus (s : State) : Out :=
  .next (if smbLives s then modSmb s (fun x => { x with out := BitVec.ofNat 64 x.status }) else s)

end Sys2Proof.Machine
end

