-- ==== Sys2Proof/Machine/Meridian.lean ====
section
/-! DEFINITION. The Meridian port (R410, R411), its sessions (R413 to R415, R418), the commands of the control node (R416, R417, R419, R423)
and what they answer: telemetry (R420), attestation (R449), images (R187, R188). -/

namespace Sys2Proof.Machine

/-! ### The port (R411, R415) -/

/-- The lane carries frames: the hub has power, and REFCLK is present (R472). -/
def portLives (s : State) : Bool := s.boot.inputOn && !s.freeze.lost && !(isFrozen s && bNat s.freeze.record 6 1 == 3)

def merGo (s : State) (st : Nat) : State := { fput s F.MBX_MER_STAT.STATE st with merSince := s.tick }

/-- Light on the lane. ROM has brought the port up, and the optical engine is on (R436). -/
def execMeridianLight (s : State) : Out :=
  .next (if !isFrozen s && 2 ≤ phase s && s.power.on.contains 48 && merState s = mDOWN then merGo s mLOCK else s)

def execMeridianLock (s : State) : Out :=
  .next (if !isFrozen s && merState s = mLOCK then fput { merGo s mHELLO with helloTick := none } F.HUB_CLK_STAT.OE_LOCK 1 else s)

def execMeridianLockTimeout (s : State) : Out :=
  .next (if !isFrozen s && merState s = mLOCK && s.merSince + 6250000 ≤ s.tick then merGo s mDOWN else s)

def execMeridianLockLoss (s : State) : Out :=
  if isFrozen s then .next s
  else if merState s = mUP then .next (fput (merLeave s mDOWN 1) F.HUB_CLK_STAT.OE_LOCK 0)
  else if merState s = mHELLO then .next (fput (merGo s mDOWN) F.HUB_CLK_STAT.OE_LOCK 0)
  else .next s

/-- Highest version offered: ROM offers version 1 only (R436). -/
def ownVermax (s : State) : Nat := if s.boot.fwRuns then sget s F.MBX_MER_CFG.VERMAX else 1

/-- Frames the P40 grants to the peer of each session (R414). -/
def grantOut : Nat := 8

def helloFrame (s : State) : Frame :=
  let p := leBytes 1 1 ++ leBytes 1 (ownVermax s) ++ leBytes 1 grantOut ++ zeros 5 ++ leBytes 2 (station s) ++
    leBytes 1 (s.tray.toNat * 16 + s.slotId.toNat) ++ leBytes 1 (fget s F.HUB_ID.STEP) ++ zeros 20
  mkFrame (frameHdr 0 tHELLO 0 false false 32 0 0 0 0 0 0) p

def sendHello (s : State) : State := fadd { s with hello := some (helloFrame s), helloTick := some s.tick } F.MBX_MER_TXFR.COUNT 1

def execHelloSend (s : State) : Out :=
  let due : Bool := match s.helloTick with
    | some t => t + 125000 ≤ s.tick
    | none => true
  .next (if !isFrozen s && merState s = mHELLO && due then sendHello s else s)

/-- A frame that fails its CRC (R412). -/
def crcFailed (s : State) : State := fset (fsat s F.MBX_MER_CRCERR.COUNT 1) F.MBX_EVT.CRC

/-- Sessions of a version (R415). -/
def sessionsOf (v : Nat) : Nat := if v = 2 then 16 else 1

/-- A common version: the port sends a last HELLO and is UP, every session new. -/
def goUp (s : State) (v vmin vmax credit : Nat) : State :=
  let s := fput (merGo (sendHello s) mUP) F.MBX_MER_STAT.VERSION v
  let s := foldRange 16 (fun s i => resetSession s i credit (i < sessionsOf v)) s
  fbOffer s (srcCore 0) 0x0901 v vmax vmin

def agree (s : State) (b : List Byte) : State :=
  let vmin := bNat b 0 1
  let vmax := bNat b 1 1
  let s := fput (fput s F.MBX_MER_STAT.PEER_VERMAX vmax) F.MBX_MER_STAT.PEER_VERMIN vmin
  let v := min vmax (ownVermax s)
  if 1 ≤ v && vmin ≤ v then goUp s v vmin vmax (bNat b 2 1)
  else fbOffer (fset s F.MBX_EVT.VER_FAIL) (srcCore 0) 0x0903 (vmax % 16 * 16 + vmin % 16) (ownVermax s * 16 + 1) 0

/-- A HELLO frame: it agrees a version in HELLO, and takes an UP port back to HELLO. -/
def execHelloReceive (sent : Frame) (s : State) : Out :=
  let f := heard sent
  if isFrozen s || (merState s ≠ mHELLO && merState s ≠ mUP) then .next s
  else if !frameCrcOk f then .next (crcFailed s)
  else if frType f ≠ tHELLO || f.payload.length ≠ 32 then .next s
  else
    let s := fadd s F.MBX_MER_RXFR.COUNT 1
    .next (if merState s = mUP then { merLeave s mHELLO 2 with helloTick := none } else agree s f.payload)

/-! ### Answers (R416, R418, R419) -/

/-- Payloads are whole 8-byte words (R412). -/
def pad8 (b : List Byte) : List Byte := b ++ zeros ((8 - b.length % 8) % 8)

/-- Frames of a payload with one status. -/
def framesFor (s : State) (status : Nat) (payload : List Byte) : List (Nat × List Byte) :=
  if payload.isEmpty then [(status, [])] else (chunks (frameLimit s) (pad8 payload)).map (fun p => (status, p))

def finishFrames (s : State) (i : Nat) (frames : List (Nat × List Byte)) : State :=
  settle (sess s i).cmds.length (popCommand s i frames) i

/-- End the first command of a session with a status and a payload. -/
def finish (s : State) (i status : Nat) (payload : List Byte) : State := finishFrames s i (framesFor s status payload)

def answer (s : State) (i status : Nat) : State := finish s i status []

/-- The command waits: it has started. -/
def started (s : State) (i : Nat) : State :=
  modSess s i (fun x => { x with started := true, since := if x.started then x.since else s.tick })

/-! ### Frames in and out (R413, R414) -/

/-- ACK covers frames sent; the time of the oldest left starts anew. -/
def merAck (s : State) (i ack : Nat) : State :=
  modSess s i (fun x =>
    let l := x.sent.filter (fun f => 32768 ≤ (ack + 65536 - f.1) % 65536)
    if l.length = x.sent.length then x else { x with sent := l, sentTick := s.tick })

def merCredit (s : State) (i n : Nat) : State := fsat s F.MBX_SESS_STAT.TXCRED n i

/-- Every frame not acknowledged goes out again. -/
def resend (s : State) (i : Nat) : State :=
  let n := (sess s i).sent.length
  fadd (fsat (modSess s i (fun x => { x with sentTick := s.tick })) F.MBX_MER_RESEND.COUNT n) F.MBX_MER_TXFR.COUNT n

/-- A WRITE of 4 bytes to HUB_CORE_RELEASE: the frame engine passes it on at once (R416). -/
def isRelease (c : MerCmd) : Bool :=
  c.op == 4 && c.data.length ≥ 20 && bNat c.data 0 8 == regAddr .HUB_CORE_RELEASE 0 0 && bNat c.data 8 4 == 4

/-- A command is complete. -/
def acceptCommand (s : State) (i : Nat) (c : MerCmd) : State :=
  if isRelease c && !isFrozen s && s.boot.fwRuns then
    let s := fput (releaseHeld .meridian (bNat c.data 16 4) s) F.MBX_SESS_TAG.TAG c.tag i
    queueFrame s i tRSP true 4 stOK c.tag []
  else
    let s := modSess s i (fun x => { x with cmds := x.cmds ++ [c] })
    if (sess s i).cmds.length = 1 then settle 1 s i else s

/-- The frame next in sequence: consumed, its buffer free again, acknowledged at once. -/
def acceptFrame (s : State) (i : Nat) (f : Frame) : State :=
  let s := merCredit (fadd s F.MBX_MER_RXFR.COUNT 1) i (frCredit f)
  let s := modSess s i (fun x => { x with lastIn := some (frSeq f) })
  let s := sendCtrl s i false 1
  let c : MerCmd := match (sess s i).asm with
    | some a => { a with data := a.data ++ f.payload }
    | none => ⟨frOp f, frTag f, f.payload⟩
  if frLast f then acceptCommand (modSess s i (fun x => { x with asm := none })) i c
  else modSess s i (fun x => { x with asm := some c })

/-- Frames are read from the lane once the FEC is in lock: in HELLO and UP (R411). -/
def hearsFrames (s : State) : Bool := portLives s && mHELLO ≤ merState s

/-- A frame of an open session with a payload that the header and the version allow (R412, R415). -/
def frameFits (s : State) (f : Frame) : Bool :=
  merState s == mUP && portLives s && fbit s F.MBX_SESS_STAT.OPEN (frSession f) && frLen f == f.payload.length &&
  f.payload.length % 8 == 0 && f.payload.length ≤ frameLimit s

def execCmdFrameReceive (sent : Frame) (s : State) : Out :=
  let f := heard sent
  if !hearsFrames s then .next s
  else if !frameCrcOk f then .next (crcFailed s)
  else if !frameFits s f || frType f ≠ tCMD then .next s
  else
    let i := frSession f
    let s := merAck s i (frAck f)
    let next := (ackOf (sess s i) + 1) % 65536
    if frSeq f = next then .next (acceptFrame s i f)
    else .next (sendCtrl s i (32768 ≤ (next + 65535 - frSeq f) % 65536) 0)

def execCtrlFrameReceive (sent : Frame) (s : State) : Out :=
  let f := heard sent
  if !hearsFrames s then .next s
  else if !frameCrcOk f then .next (crcFailed s)
  else if !frameFits s f || frType f ≠ tCTRL then .next s
  else
    let i := frSession f
    let s := merCredit (merAck (fadd s F.MBX_MER_RXFR.COUNT 1) i (frAck f)) i (frCredit f)
    .next (if frNak f then resend s i else s)

def execAckTimeout (i : SessIx) (s : State) : Out :=
  let x := sess s i.val
  if isFrozen s || merState s ≠ mUP || x.sent.isEmpty || s.tick < x.sentTick + sget s F.MBX_MER_CFG.ACK_TMO then .next s
  else .next (resend s i.val)

/-- A waiting frame goes out with its SEQ and the present ACK; it spends a credit. -/
def sendFrame (s : State) (i : Nat) (f : Frame) (rest : List Frame) : State :=
  let x := sess s i
  let g := mkFrame (bPut (bPut f.hdr 4 (leBytes 2 x.nextSeq)) 6 (leBytes 2 (ackOf x))) f.payload
  let s := setSess s i { x with outgoing := rest, nextSeq := (x.nextSeq + 1) % 65536, sent := x.sent ++ [(x.nextSeq, g)],
                                sentTick := if x.sent.isEmpty then s.tick else x.sentTick }
  fadd (fsub s F.MBX_SESS_STAT.TXCRED 1 i) F.MBX_MER_TXFR.COUNT 1

def execFrameSend (i : SessIx) (s : State) : Out :=
  match (sess s i.val).outgoing with
  | f :: rest =>
    if !portLives s || merState s ≠ mUP || fget s F.MBX_SESS_STAT.TXCRED i.val = 0 || 64 ≤ (sess s i.val).sent.length then .next s
    else
      let t := sendFrame s i.val f rest
      .next (settle (sess t i.val).cmds.length t i.val)
  | [] => .next s

/-! ### The command at the front of a session -/

/-- The command at the front, when it has an OP and may go on. -/
def headCmd (s : State) (i op : Nat) : Option MerCmd :=
  match (sess s i).cmds with
  | c :: _ => if c.op = op && mayStart s i then some c else none
  | [] => none

/-- The same for a command that HC0 executes (R416). -/
def hubCmd (s : State) (i op : Nat) : Option MerCmd := if isFrozen s || !coreRuns s 0 then none else headCmd s i op

def isReady (s : State) : Bool := fbit s F.HUB_BOOT_STAT.READY

/-! ### Images (R187, R188) -/

/-- Bytes of an image header. -/
abbrev ImgHdr := List Byte

def imgVersion (h : ImgHdr) : Nat := bNat h 4 2
def imgAlt (h : ImgHdr) : Bool := imgVersion h == 3 && bNat h 8 4 % 2 == 1
def imgIlvLen (h : ImgHdr) : Nat := if imgVersion h = 3 then bNat h 72 4 else 0

def imgForm (h : ImgHdr) : Bool :=
  bNat h 0 4 == 0x494A524B && (imgVersion h == 2 || imgVersion h == 3) && bNat h 6 2 == 128 && bNat h 8 4 < 2 && bNat h 20 4 == 0 &&
  bNat h 76 4 == 0 && bNat h 112 16 == 0

def imgLimits (h : ImgHdr) : Bool :=
  let layers := bNat h 12 2
  let clusters := bNat h 14 2
  let stations := bNat h 16 4
  1 ≤ layers && layers ≤ 2047 && 1 ≤ clusters && clusters ≤ 32 && 1 ≤ stations && stations ≤ 65536 && !natBit (bNat h 24 8) 63 &&
  bNat h 48 8 % 65536 == 0 && bNat h 56 4 ≤ 0x400000 && bNat h 60 4 ≤ 114688 && bNat h 64 8 % 64 == 0 && imgIlvLen h ≤ 4096 &&
  bNat h 80 8 % 64 == 0

/-- Addresses of the header with the lengths of the ranges that start there. -/
def imgRanges (h : ImgHdr) : List (Nat × Nat) :=
  [(bNat h 32 8, 0x8000), (bNat h 40 8, 0x8000), (bNat h 48 8, 0x10000 * bNat h 56 4), (bNat h 64 8, 2 * imgIlvLen h),
   (bNat h 80 8, bNat h 88 8), (bNat h 96 8, 32 * bNat h 14 2), (bNat h 104 8, 252)]

/-- The first check of R188 that a header fails. -/
def imgFail (s : State) (p : Nat) (h : ImgHdr) : Option Nat :=
  if !imgForm h then some 1
  else if bNat h 14 2 ≠ (clustersOf s p).length then some 2
  else if !imgLimits h then some 3
  else if !(imgRanges h).all (fun r => within r.1 (max 1 r.2) (winLo s p) (winHi s p)) then some 4
  else if (List.range 8).any (fun q => q ≠ p && (match (part s q).image with
      | some im => im.barriers.toNat &&& bNat h 24 8 ≠ 0
      | none => false)) then some 5
  else none

/-- The image that HC1 records. -/
def imgOf (s : State) (p : Nat) (h : ImgHdr) (digest : List Byte) : Image :=
  { digest := digest, layers := bNat h 12 2, alt := imgAlt h, stations := bNat h 16 4, barriers := BitVec.ofNat 64 (bNat h 24 8),
    codeBase := bNat h 80 8, codeSize := bNat h 88 8, entry := bNat h 96 8, barPart := bNat h 104 8, clusters := clustersOf s p }

/-- What HC1 sets for an accepted image (R188). -/
def acceptImage (s : State) (p : Nat) (h : ImgHdr) (digest : List Byte) : State :=
  let s := modPart s p (fun x => { x with image := some (imgOf s p h digest) })
  let s := fput (fput s F.HUB_RCP_BASE.ADDR (bNat h 32 8) p) F.HUB_SCL_BASE.ADDR (bNat h 40 8) p
  let s := fput (fput s F.HUB_STH_SPILLBASE.ADDR (bNat h 48 8) p) F.HUB_STH_SPILLSZ.GRAN (bNat h 56 4) p
  let s := fput s F.HUB_STH_PLAN.EXHAUSTS 0 p
  let s := (clustersOf s p).foldl (fun s c =>
    let s := fput s F.SEQ_ILV_BASE.ADDR (bNat h 64 8 / 64) 0 c
    let s := fput (fput s F.SEQ_ILV_CTL.LEN (imgIlvLen h) 0 c) F.SEQ_ILV_CTL.ENABLE (b2n (imgIlvLen h ≠ 0)) 0 c
    fput s F.SEQ_STH_LIMIT.GRAN (bNat h 60 4) 0 c) s
  (clustersOf s p).foldl wakeOne s

/-- Clusters that have become withheld leave a partition without an image (R32, R268). -/
def expelFrom (s : State) (p : Nat) : State :=
  let s := retireAtLoad s
  let c := fget s F.HUB_PART.CLUSTERS p
  fput s F.HUB_PART.CLUSTERS (c ^^^ (c &&& fget s F.ECC_STEST_CLU.WITHHELD)) p

/-- Every cluster of a partition is ON. -/
def allOn (s : State) (p : Nat) : Bool := (clustersOf s p).all (fun c => domState s c = 0)

def loadPart (c : MerCmd) : Nat := bNat c.data 0 8 % 8
def loadLen (c : MerCmd) : Nat := bNat c.data 8 8
def loadAddr (c : MerCmd) : Nat := bNat c.data 16 8

/-- The image goes into the window and is checked (R188). -/
def placeImage (s : State) (i : Nat) (c : MerCmd) : State :=
  let p := loadPart c
  let img := (c.data.drop 24).take (loadLen c)
  let s := wrBytes (expelFrom s p) (loadAddr c) img
  let h := fixLen 128 img
  match imgFail s p h with
  | some k => finish (fbOffer s (srcCore 1) 0x0302 p k 0) i stREJECT (leBytes 8 p)
  | none =>
    let s := acceptImage s p h (sha3 img)
    if allOn s p then answer s i stOK else started s i

/-- LOAD with L > 0. An operand block whose length does not fit its data, or an address outside the window, is malformed. -/
def startLoad (s : State) (i : Nat) (c : MerCmd) : State :=
  let p := loadPart c
  if c.data.length ≠ (pad8 (zeros (24 + loadLen c))).length || !within (loadAddr c) (loadLen c) (winLo s p) (winHi s p)
  then answer s i stNAK_ARG
  else if !isReady s || fget s F.HUB_PART.CLUSTERS p = 0 || (part s p).image.isSome then answer s i stNAK_STATE
  else placeImage s i c

def execLoad (i : SessIx) (s : State) : Out :=
  match hubCmd s i.val 1 with
  | some c =>
    if loadLen c = 0 then .next s
    else if (sess s i.val).started then .next (if allOn s (loadPart c) then answer s i.val stOK else s)
    else if !coreActs s 1 then .next s
    else .next (startLoad s i.val c)
  | none => .next s

/-- The image goes, and with it the registers that its LOAD set and ALT (R156, R417). -/
def dropImage (s : State) (p : Nat) : State :=
  let s := modPart s p (fun x => { x with image := none })
  let s := fput (fput s F.HUB_RCP_BASE.ADDR 0 p) F.HUB_SCL_BASE.ADDR 0 p
  let s := fput (fput s F.HUB_STH_SPILLBASE.ADDR 0 p) F.HUB_STH_SPILLSZ.GRAN 0 p
  expelFrom (fput s F.HUB_STH_PLAN.ALT 0 p) p

def execUnload (i : SessIx) (s : State) : Out :=
  match hubCmd s i.val 1 with
  | some c =>
    let p := loadPart c
    let st := fget s F.CRN_STAT.STATE p
    if loadLen c ≠ 0 then .next s
    else if !isReady s || fget s F.HUB_PART.CLUSTERS p = 0 || (st ≠ 0 && st ≠ 2) then .next (answer s i.val stNAK_STATE)
    else .next (answer (dropImage s p) i.val stOK)
  | none => .next s

/-- RUN: the first run of a partition is asked for, and answered once its doorbell has been rung, or cannot be (R189, R378). -/
def execRun (i : SessIx) (s : State) : Out :=
  match hubCmd s i.val 2 with
  | some c =>
    let p := bNat c.data 0 8 % 8
    let x := part s p
    if (sess s i.val).started then
      .next (if x.step ≠ 0 then answer s i.val stOK else if !x.wanted then answer s i.val stNAK_STATE else s)
    else if !isReady s || x.image.isNone || !x.epochSet || fget s F.CRN_STAT.STATE p ≠ 0 then .next (answer s i.val stNAK_STATE)
    else .next (started (modPart (fput s F.CRN_STAT.STATE 1 p) p (fun y => { y with wanted := true })) i.val)
  | none => .next s

/-! ### READ and WRITE (R417, R419) -/

/-- First address after a that does not lie in the same mapped range of memory, stash regions left out; a itself when a is not mapped (R225). -/
def rowEnd (s : State) (a : Nat) : Nat :=
  if a < memTop s then memTop s
  else if within a 1 0x7E0000000000 0x7E0001000000 then 0x7E0001000000
  else if within a 1 0x410000000000 0x410040000000 then 0x410040000000
  else if within a 1 0x400000000000 0x400400000000 then
    let lim := stashStart s ((a - 0x400000000000) / 0x20000000)
    if a < lim then lim else a
  else a

/-- Bytes of a range that are mapped from its start. -/
def mappedBytes (s : State) (a n : Nat) : Nat := min n (rowEnd s a - a)

def inRegs (a : Nat) : Bool := within a 1 0x7F0000000000 0x7F0004000000

/-- Registers as a READ returns them, each at its width; fuel bounds the accesses. -/
def readRegs : Nat → State → Nat → Nat → List Byte → State × Option (List Byte)
  | 0, s, _, _, acc => (s, some acc)
  | k + 1, s, a, n, acc =>
    if n = 0 then (s, some acc)
    else
      let w := match regAt a with
        | some (r, _, _) => (regPlace r).width / 8
        | none => 4
      match regRead .meridian a w s with
      | (some v, s) => if n < w then (s, none) else readRegs k s (a + w) (n - w) (acc ++ leBytes w v)
      | (none, s) => (s, none)

/-- The status of a frame of memory: UE before POISON (R419). -/
def frameStatus (s : State) (a n : Nat) : Nat :=
  let l := (listedIn s a (a + n)).map (fun e => classOf e.2)
  if l.contains .ue || badTagIn s a (a + n) then stUE else if l.contains .poison then stPOISON else stOK

/-- Before firmware runs only hub registers and hub SRAM are read (R436). -/
def romReads (a n : Nat) : Bool := within a n 0x7E0000000000 0x7E0001000000 || within a n 0x7F0000000000 0x7F0000010000

def readMemory (s : State) (i a n : Nat) : State :=
  let (s, _) := checkRange (srcCore 0) (s, none) a (a + n)
  let k := frameLimit s
  finishFrames s i ((List.range (cdiv n k)).map (fun j =>
    let m := min k (n - k * j)
    (frameStatus s (a + k * j) m, rdBytes s (a + k * j) m)))

def readCommand (s : State) (i : Nat) (c : MerCmd) : State :=
  let a := bNat c.data 0 8
  let n := bNat c.data 8 4
  if n % 8 ≠ 0 || n < 8 || 65536 < n then answer s i stNAK_ARG
  else if !s.boot.fwRuns && !romReads a n then answer s i stNAK_STATE
  else if inRegs a then
    (match readRegs n s a n [] with
     | (s, some b) => finish s i stOK b
     | (s, none) => answer s i stNAK_BUS)
  else if mappedBytes s a n < n then answer s i stNAK_BUS
  else readMemory s i a n

def execRead (i : SessIx) (s : State) : Out :=
  match hubCmd s i.val 3 with
  | some c => .next (readCommand s i.val c)
  | none => .next s

/-- Registers written in address order, each at its width: the state, and the bytes written; fuel bounds the accesses. -/
def writeRegs : Nat → State → Nat → List Byte → Nat → State × Nat
  | 0, s, _, _, done => (s, done)
  | k + 1, s, a, b, done =>
    if b.isEmpty then (s, done)
    else
      let w := match regAt a with
        | some (r, _, _) => (regPlace r).width / 8
        | none => 4
      if b.length < w then (s, done)
      else
        match regWrite .meridian a w (bNat b 0 w) s with
        | (t, true) => writeRegs k t (a + w) (b.drop w) (done + w)
        | (_, false) => (s, done)

/-- Before firmware runs: the boot buffer, HUB_FW_LEN, HUB_FW_CMD and HUB_RESET (R436). -/
def romWrites (a n : Nat) : Bool :=
  within a n bootBuffer (bootBuffer + 0x800000) ||
  (n == 4 && (a == regAddr .HUB_FW_LEN 0 0 || a == regAddr .HUB_FW_CMD 0 0 || a == regAddr .HUB_RESET 0 0))

/-- The end of a WRITE of n bytes of which k were written; nothing is left to answer after a reset. -/
def endWrite (s : State) (i n k : Nat) : State := if k < n then finish s i stNAK_BUS (leBytes 8 k) else answer s i stOK

def writeCommand (s : State) (i : Nat) (c : MerCmd) : State :=
  let a := bNat c.data 0 8
  let n := bNat c.data 8 4
  let b := (c.data.drop 16).take n
  if n % 4 ≠ 0 || c.data.length ≠ (pad8 (zeros (16 + n))).length then answer s i stNAK_ARG
  else if !s.boot.fwRuns && !romWrites a n then answer s i stNAK_STATE
  else if inRegs a then
    let (t, k) := writeRegs n s a b 0
    endWrite t i n k
  else
    let k := mappedBytes s a n
    endWrite (wrBytes s a (b.take k)) i n k

/-- On a frozen P40 the only write is a cold HUB_RESET with its key (R473). -/
def frozenWrite (s : State) (i : Nat) (c : MerCmd) : State :=
  let v := bNat c.data 16 4
  if bNat c.data 0 8 = regAddr .HUB_RESET 0 0 && bNat c.data 8 4 = 4 && natBits v 31 16 = 0x5253 && natBits v 1 0 = 2
  then resetWrite .meridian v s else answer s i stNAK_STATE

def execWrite (i : SessIx) (s : State) : Out :=
  if isFrozen s then
    (match headCmd s i.val 4 with
     | some c => .next (if portLives s then frozenWrite s i.val c else s)
     | none => .next s)
  else match hubCmd s i.val 4 with
    | some c => .next (writeCommand s i.val c)
    | none => .next s

/-! ### MBX (R423) -/

/-- An MBX command with a sub-op at the front of a session. -/
def mbxCmd (s : State) (i sub : Nat) : Option MerCmd :=
  match hubCmd s i 5 with
  | some c => if bNat c.data 0 1 = sub then some c else none
  | none => none

def mbxNumber (c : MerCmd) : Nat := bNat c.data 1 1

def execMeridianMbxPut (i : SessIx) (s : State) : Out :=
  match mbxCmd s i.val 1 with
  | none => .next s
  | some c =>
    let n := mbxNumber c
    let own := n = 32 + i.val
    if !own && !(56 ≤ n && n < 64) then .next (answer s i.val stNAK_BUS)
    else if !mbxFull s n && !mbxClosed s n then
      .next (answer (mbxPost s n (BitVec.ofNat 64 (bNat c.data 8 8)) 1 i.val) i.val stOK)
    else if own then .next (started s i.val)
    else .next (answer s i.val (if mbxClosed s n then stNAK_CLOSED else stNAK_FULL))

def execMbxPutTimeout (i : SessIx) (s : State) : Out :=
  match mbxCmd s i.val 1 with
  | none => .next s
  | some c =>
    let x := sess s i.val
    let n := mbxNumber c
    if x.started && (mbxFull s n || mbxClosed s n) && x.since + sget s F.MBX_MER_MBXTMO.TICKS ≤ s.tick
    then .next (answer s i.val stNAK_FULL) else .next s

def execMbxGet (i : SessIx) (s : State) : Out :=
  match mbxCmd s i.val 2 with
  | none => .next s
  | some c =>
    let n := mbxNumber c
    if n < 48 || 56 ≤ n then .next (answer s i.val stNAK_BUS)
    else .next (finish (takeBox s n) i.val stOK (leBytes 8 (reg s .MBX_DATA n).toNat))

def execMbxStat (i : SessIx) (s : State) : Out :=
  match mbxCmd s i.val 3 with
  | none => .next s
  | some c =>
    let n := mbxNumber c
    if 64 ≤ n then .next (answer s i.val stNAK_ARG) else .next (finish s i.val stOK (leBytes 8 (reg s .MBX_STAT n).toNat))

def execMbxRing (i : SessIx) (s : State) : Out :=
  match mbxCmd s i.val 4 with
  | none => .next s
  | some c =>
    let n := bNat c.data 2 2
    if 32 ≤ mbxNumber c || n < 2 || 63 < n then .next (answer s i.val stNAK_ARG)
    else
      let r := ringBell s (mbxNumber c) n
      .next (answer r.1 i.val (if r.2 then stOK else stNAK_FULL))

/-! ### TELEM and ATTEST (R420, R449) -/

def telemPart (s : State) (mask p : Nat) : List Byte :=
  if natBit mask p then
    leBytes 8 (reg s .CRN_EPOCH p).toNat ++ leBytes 4 (reg s .HUB_TRB_STAT p).toNat ++ leBytes 4 (reg s .CRN_STAT p).toNat ++
    leBytes 8 (acctSum s p)
  else zeros 24

def telemRecord (s : State) (mask : Nat) : List Byte :=
  let cores := ((List.range 4).map (fun n => fget s F.HUB_CORE_STAT.STATE n * 4 ^ n)).sum
  let flags := b2n (isStopped s) + 2 * fget s F.PWR_GOV_STAT.THROTTLE + 4 * fget s F.FBK_STAT.FROZEN
  let full := ((List.range 8).map (fun k => b2n (mbxFull s (48 + k)) * 2 ^ k)).sum
  leBytes 8 (tickNow s) ++ leBytes 2 (station s) ++ leBytes 1 cores ++ leBytes 1 flags ++ leBytes 4 (reg s .PWR_GOV_STAT).toNat ++
  leBytes 4 (reg s .PWR_THERM).toNat ++ leBytes 8 (reg s .FBK_COUNT).toNat ++ leBytes 4 full ++ leBytes 8 (reg s .PWR_POOL).toNat ++
  leBytes 8 (reg s .PWR_TOTAL).toNat ++ leBytes 8 (reg s .PWR_IN).toNat ++ zeros 8 ++ (List.range 8).flatMap (telemPart s mask)

def execTelem (i : SessIx) (s : State) : Out :=
  match hubCmd s i.val 6 with
  | some c => .next (finish s i.val stOK (telemRecord s (bNat c.data 0 1)))
  | none => .next s

/-- Bytes 0 to 1279 of a report. -/
def reportBody (s : State) (nonce : List Byte) : List Byte :=
  let flags := fget s F.HUB_BOOT_STAT.MERIDIAN + 2 * fget s F.HUB_BOOT_STAT.TRIAL + 4 * fget s F.HUB_BOOT_STAT.SLOT + 8 * fget s F.ECC_RET_STAT.EMPTY
  let dig := fun k => fixLen 64 (ngetD [] s.boot.digests k)
  leBytes 4 0x54535441 ++ leBytes 2 1 ++ leBytes 2 5907 ++ leBytes 1 0xB0 ++ leBytes 1 (fget s F.HUB_ID.VARIANT) ++ leBytes 2 0x0040 ++
  leBytes 2 (station s) ++ leBytes 1 (s.tray.toNat * 16 + s.slotId.toNat) ++ leBytes 1 flags ++ leBytes 4 (fget s F.HUB_FW_VER.VERSION) ++
  leBytes 2 (fget s F.HUB_FW_SVN.SVN) ++ leBytes 2 (fget s F.HUB_FW_SVN.FLOOR) ++ leBytes 8 (tickNow s) ++ leBytes 8 s.boot.reports ++
  leBytes 1 2 ++ leBytes 1 (merVersion s) ++ leBytes 1 1 ++ leBytes 1 3 ++ leBytes 1 2 ++ zeros 19 ++ fixLen 64 nonce ++ sha3 s.boot.pk ++
  s.boot.measure ++ (List.range 6).flatMap (fun k => dig (k + 1)) ++ dig 8 ++ zeros 64 ++
  (List.range 8).flatMap (fun p => match (part s p).image with
    | some im => fixLen 64 im.digest
    | none => zeros 64)

/-- The nonce is the 64 bytes of data after the operand block. -/
def execAttest (i : SessIx) (s : State) : Out :=
  match hubCmd s i.val 7 with
  | none => .next s
  | some c =>
    if !isReady s then .next (answer s i.val stNAK_STATE)
    else if c.data.length ≠ 80 then .next (answer s i.val stNAK_ARG)
    else
      let s := modBoot s (fun b => { b with reports := b.reports + 1 })
      let b := reportBody s (c.data.drop 16)
      .next (finish s i.val stOK (b ++ makeSig "KRYJO-ATTEST" s.boot.sk b))

/-! ### FREEZE and READOUT (R417, R472, R475) -/

/-- The clocks stop, and then the response is sent. -/
def execFreeze (i : SessIx) (s : State) : Out :=
  match (if isFrozen s then none else headCmd s i.val 8) with
  | none => .next s
  | some c =>
    if bNat c.data 0 2 ≠ 0x465A then .next (answer s i.val stNAK_ARG)
    else
      let s := fput (freezeNow s 2 i.val) F.MBX_SESS_TAG.TAG c.tag i.val
      .next (queueFrame s i.val tRSP true 8 stOK c.tag [])

def execReadout (i : SessIx) (s : State) : Out :=
  match headCmd s i.val 9 with
  | none => .next s
  | some c =>
    if !isFrozen s then .next (answer s i.val stNAK_STATE)
    else if !portLives s then .next s
    else match readoutBytes s (bNat c.data 0 4) (bNat c.data 4 8) (bNat c.data 12 4) with
      | some b => .next (finish s i.val stOK b)
      | none => .next (answer s i.val stNAK_ARG)

end Sys2Proof.Machine
end

