-- ==== Sys2Proof/Machine/Vector.lean ====
section
/-! DEFINITION. The vector unit: v.ew, v.red, v.gather, v.scatter (R220 to R222). -/

namespace Sys2Proof.Machine

/-- An operand of the vector unit or the row engine, decoded (R57, R58). -/
def readAt (s : State) (t : Tens) (inf : Bool) (i0 i1 i2 i3 : Nat) : Elem := readElem s t (loadMap s t) false inf i0 i1 i2 i3

/-- Rows of a tensor (R222). -/
def rowCount (t : Tens) : Nat := t.n1 * t.n2 * t.n3

/-- Row r as (i1, i2, i3) (R222). -/
def rowPlace (t : Tens) (r : Nat) : Nat × Nat × Nat := (r % t.n1, r / t.n1 % t.n2, r / (t.n1 * t.n2))

/-- Row number of (i1, i2, i3) (R222). -/
def rowNumber (t : Tens) (i1 i2 i3 : Nat) : Nat := i1 + t.n1 * (i2 + t.n2 * i3)

/-- Every row of a tensor, with its length. -/
def allRows (t : Tens) : List (Nat × Nat) := (List.range (rowCount t)).map (fun q => (q, t.n0))

/-- Ranges that decoding some of a tensor's rows touches. -/
def rowRanges (t : Tens) (rows : List (Nat × Nat)) : List (Nat × Nat) :=
  if rows.isEmpty then []
  else mapRanges t ++ rows.flatMap (fun q => let p := rowPlace t q.1; windowParts t 0 q.2 p.1 1 p.2.1 1 p.2.2 1)

/-- Elements of an operand whose decoding meets SCALE_RANGE (R58): of each of the rows the elements decoded, each counted once for the operation,
also where broadcasting or a repeated index uses it more than once (assumption log 77). -/
def countSr (s : State) (t : Tens) (inf : Bool) (rows : List (Nat × Nat)) : Nat :=
  rows.foldl (fun n q => let p := rowPlace t q.1; foldRange q.2 (fun n i => n + b2n (readAt s t inf i p.1 p.2.1 p.2.2).sr) n) 0

/-- FP32, BF16 and FP16: formats into which a conversion counts only what it makes non-finite itself (R62). -/
def isWide (f : Fmt) : Bool := f = .fp32 || f = .bf16 || f = .fp16

/-- The function FN of v.ew (R221). -/
def ewOf (fn : Nat) (a b c : Num) : Num :=
  match fn with
  | 0 => a
  | 1 => f32Add a b
  | 2 => f32Sub a b
  | 3 => f32Mul a b
  | 4 => f32Add (f32Mul a b) c
  | 5 => f32Max a b
  | 6 => f32Min a b
  | 7 => numAbs a
  | 8 => numNegate a
  | 9 => f32Exp a
  | 10 => f32Rsqrt a
  | _ => f32Div (.fin false 1 0) a

/-- An operand broadcast along dimensions in which its length is 1 (R221). -/
def readBroadcast (s : State) (t : Tens) (inf : Bool) (i0 i1 i2 i3 : Nat) : Elem :=
  readAt s t inf (if t.n0 = 1 then 0 else i0) (if t.n1 = 1 then 0 else i1) (if t.n2 = 1 then 0 else i2) (if t.n3 = 1 then 0 else i3)

/-- The result of the vector unit at a place: value, whether a bad word took part, whether it is non-finite from finite operands. -/
structure VecOut where
  v : Num
  bad : Bool
  made : Bool

/-- Write the results over a whole destination; count events (R53, R61, R62, R109, R112). -/
def vecStore (s : State) (c : Nat) (r : OpRec) (d : Tens) (out : Nat → Nat → Nat → Nat → VecOut) : State :=
  let e := storeAll d (bitOf r.f 15) (bitOf r.f 14) (fun i j k l => let o := out i j k l; (o.v, o.bad)) (encStart s)
  let made := if isWide d.fmt then
      foldRange d.n3 (fun n l => foldRange d.n2 (fun n k => foldRange d.n1 (fun n j => foldRange d.n0 (fun n i =>
        n + b2n (out i j k l).made) n) n) n) 0 else 0
  let s := opEvent (finishEnc e) c r.layer 0 (e.nf + made)
  opAmax s c r.layer r.st e.amax

/-- v.ew (R221). A result made non-finite from an operand that is infinite, inf - inf for one, counts nothing (R62, R64; assumption log 77). -/
def vecEw (s0 s : State) (c : Nat) (r : OpRec) (d : Tens) : State :=
  let fn := bitsOf r.f 27 23
  let bs := bitOf r.f 22
  let inf := bitOf r.f 14
  let useB := 1 ≤ fn && fn ≤ 6 && !bs
  let scalar : Elem := ⟨f32Of (BitVec.ofNat 32 (bitsOf (nth r.words 0 0) 31 0)), false, false⟩
  let get := fun (t : Option Tens) i j k l => match t with
    | some t => readBroadcast s0 t inf i j k l
    | none => zeroElem
  vecStore s c r d (fun i j k l =>
    let a := get (opTens c r 1) i j k l
    let b := if useB then get (opTens c r 2) i j k l else if 1 ≤ fn && fn ≤ 6 then scalar else zeroElem
    let x := if fn = 4 then get (opTens c r (if useB then 3 else 2)) i j k l else zeroElem
    let v := ewOf fn a.v b.v x.v
    ⟨v, a.bad || b.bad || x.bad, numIsFinite a.v && numIsFinite b.v && numIsFinite x.v && !numIsFinite v⟩)

/-- A sum in w lanes and the fixed tree of R143, in FP32. -/
def laneTree : Nat → List Num → Num
  | 0, l => nth l 0 numZero
  | k + 1, l => laneTree k ((List.range (l.length / 2)).map (fun j => f32Add (nth l (2 * j) numZero) (nth l (2 * j + 1) numZero)))

def laneSum (logw : Nat) (t : List Num) : Num :=
  let w := 2 ^ logw
  laneTree logw ((List.range w).map (fun j =>
    ((List.range (cdiv t.length w)).filterMap (fun k => t[w * k + j]?)).foldl f32Add numZero))

/-- A row reduced by v.red (R221). -/
def redOf (fn : Nat) (row : List Num) : Num :=
  match fn with
  | 0 => laneSum 6 row
  | 1 => match row with
    | [] => numZero
    | x :: xs => xs.foldl f32Max (f32Max x x)
  | _ => row.foldl (fun a v => f32Max a (numAbs v)) numZero

/-- v.red (R221). -/
def vecRed (s0 s : State) (c : Nat) (r : OpRec) (d x : Tens) : State :=
  vecStore s c r d (fun _ j k l =>
    let row := (List.range x.n0).map (fun i => readAt s0 x false i j k l)
    let v := redOf (bitsOf r.f 27 23) (row.map (·.v))
    ⟨v, row.any (·.bad), row.all (fun e => numIsFinite e.v) && !numIsFinite v⟩)

/-- idx[j] (R222). -/
def rowIndex (s : State) (t : Tens) (j : Nat) : Nat × Bool :=
  let a := elemAddr t j 0 0 0
  (rdNat s a 4, badIn s a (a + 4))

/-- v.gather (R222). -/
def vecGather (s0 s : State) (c : Nat) (r : OpRec) (d x ix : Tens) : State :=
  vecStore s c r d (fun i j k l =>
    let n := rowIndex s0 ix (rowNumber d j k l)
    if n.1 < rowCount x then
      let p := rowPlace x n.1
      let e := readAt s0 x false i p.1 p.2.1 p.2.2
      ⟨e.v, e.bad || n.2, false⟩
    else ⟨numZero, n.2, false⟩)

/-- The new value of an element of destination row q, if some row of the scatter falls on it, ascending j (R222). -/
def scatterElem (s0 : State) (add : Bool) (d x ix : Tens) (q i : Nat) : Option VecOut :=
  let p := rowPlace d q
  (List.range ix.n0).foldl (fun acc j =>
    let n := rowIndex s0 ix j
    if n.1 ≠ q then acc
    else
      let y := rowPlace x j
      let e := readAt s0 x false i y.1 y.2.1 y.2.2
      if add then
        let old : VecOut := acc.getD (let o := readAt s0 d false i p.1 p.2.1 p.2.2; ⟨o.v, o.bad, false⟩)
        let v := f32Add old.v e.v
        some ⟨v, old.bad || e.bad || n.2, old.made || (numIsFinite old.v && numIsFinite e.v && !numIsFinite v)⟩
      else some ⟨e.v, e.bad || n.2, false⟩) none

/-- An index names row q. -/
def namesRow (s : State) (ix : Tens) (q : Nat) : Bool := (List.range ix.n0).any (fun j => (rowIndex s ix j).1 = q)

/-- Rows of a destination that a scatter decodes: those it adds to, and with sheet scales the unwritten rows of sheets it encodes again (R222). -/
def rereadRows (s : State) (add : Bool) (d ix : Tens) : List (Nat × Nat) :=
  (allRows d).filter (fun q =>
    if namesRow s ix q.1 then add
    else d.layout = 2 && (let p := rowPlace d q.1
      (List.range 32).any (fun y => p.1 / 32 * 32 + y < d.n1 && namesRow s ix (rowNumber d (p.1 / 32 * 32 + y) p.2.1 p.2.2))))

/-- v.scatter (R222): rows that no index names stay as they are; a sheet with a row written is encoded again as a whole, once. Such a sheet reports CRUSH too (R56, R222;
assumption log 83). -/
def vecScatter (s0 s : State) (c : Nat) (r : OpRec) (d x ix : Tens) : State :=
  let add := bitOf r.f 22
  let hit := namesRow s0 ix
  let bh := if d.layout = 2 then 32 else 1
  let el := fun (j k l i : Nat) => match scatterElem s0 add d x ix (rowNumber d j k l) i with
    | some o => o
    | none => let o := readAt s0 d false i j k l; ⟨o.v, o.bad, false⟩
  let strips := (List.range d.n3).flatMap (fun l => (List.range d.n2).flatMap (fun k =>
    (List.range (cdiv d.n1 bh)).filterMap (fun b =>
      if (List.range bh).any (fun y => bh * b + y < d.n1 && hit (rowNumber d (bh * b + y) k l)) then some (bh * b, k, l) else none)))
  let e := strips.foldl (fun e z => storeWindow d false false 0 d.n0 z.1 bh z.2.1 z.2.2
    (fun i j => let o := el j z.2.1 z.2.2 i; (o.v, o.bad)) e) (encStart s)
  let made := if isWide d.fmt then strips.foldl (fun n z => foldRange d.n0 (fun n i => n + b2n (el z.1 z.2.1 z.2.2 i).made) n) 0 else 0
  let s := opEvent (finishEnc e) c r.layer 0 (e.nf + made)
  let s := if d.layout = 2 then opEvent s c r.layer 2 e.cr else s
  opAmax s c r.layer r.st e.amax

/-- The operands that a vector operation decodes, with their rows: every row, but for the rows that the indices of a gather or a scatter leave out
(R222). -/
def vecReads (s : State) (c : Nat) (r : OpRec) (d : Tens) : List (Tens × List (Nat × Nat)) :=
  match r.op, opTens c r 1, opTens c r 2 with
  | .vGather, some x, some ix => [(x, (allRows x).filter (fun q => namesRow s ix q.1))]
  | .vScatter, some x, some ix =>
    [(x, (allRows x).filter (fun q => (rowIndex s ix q.1).1 < rowCount d)), (d, rereadRows s (bitOf r.f 22) d ix)]
  | _, _, _ => (srcsOf c r).map (fun t => (t, allRows t))

/-- The index tensor of a gather or a scatter. -/
def vecIndex (c : Nat) (r : OpRec) : List Tens := if r.op = .vGather || r.op = .vScatter then (opTens c r 2).toList else []

/-- A vector operation reads its operands and writes its result. -/
def runVector (s : State) (c : Nat) (r : OpRec) : State :=
  match opTens c r 0 with
  | none => s
  | some d =>
    let src := sourceOf c r
    let st := checkRanges src s ((vecIndex c r).flatMap wholeRanges)
    let reads := vecReads st.1 c r d
    let st := (reads.flatMap (fun x => rowRanges x.1 x.2)).foldl (fun st x => checkRange src st x.1 x.2) st
    let s := faultFor st.1 c src st.2
    let s0 := s
    let s := match r.op, opTens c r 1, opTens c r 2 with
      | .vEw, _, _ => vecEw s0 s c r d
      | .vRed, some x, _ => vecRed s0 s c r d x
      | .vGather, some x, some ix => vecGather s0 s c r d x ix
      | .vScatter, some x, some ix => vecScatter s0 s c r d x ix
      | _, _, _ => s
    opEvent s c r.layer 3 (reads.foldl (fun n x => n + countSr s0 x.1 (bitOf r.f 14) x.2) 0)

/-- A vector operation finishes and raises its token (R198). -/
def execVectorOpComplete (cl : ClusterIx) (s : State) : Out := .next (completeOn s cl 9 runVector)

end Sys2Proof.Machine
end

