-- ==== Sys2Proof/Machine/Row.lean ====
section
/-! DEFINITION. The row engine (R142 to R148, R157, R218, R219). -/

namespace Sys2Proof.Machine

/-- rowsum of R143: 128 lanes and the fixed tree. -/
def rowSum (t : List Num) : Num := laneSum 7 t

def zipNum (f : Num → Num → Num) (a b : List Num) : List Num := (a.zip b).map (fun x => f x.1 x.2)

def numOfNat (n : Nat) : Num := .fin false n 0

/-- L of a row from the length word (R219). -/
def validLength (w : Word) (d r : Nat) : Nat :=
  (max 0 (min ((bitsOf w 31 0 : Int) + r * signedOf 32 (bitsOf w 63 32)) d)).toNat

/-- μ and rstd of a row (R144). -/
def normStats (rms : Bool) (eps : Num) (x : List Num) : Num × Num :=
  let d := numOfNat x.length
  let mu := if rms then numZero else f32Div (rowSum x) d
  let dev := x.map (fun v => f32Sub v mu)
  let var := f32Div (rowSum (zipNum f32Mul dev dev)) d
  (mu, f32Rsqrt (f32Add var eps))

/-- xh of a row (R144). -/
def normXh (mu rstd : Num) (x : List Num) : List Num := x.map (fun v => f32Mul (f32Sub v mu) rstd)

/-- y of rowfwd.norm (R144). -/
def normY (xh gamma : List Num) (beta : Option (List Num)) : List Num :=
  let y := zipNum f32Mul xh gamma
  match beta with
  | some b => zipNum f32Add y b
  | none => y

/-- dx, and what is added to dγ and dβ, of rowbwd.norm (R144). -/
def normBack (rms : Bool) (mu rstd : Num) (dy x gamma : List Num) : List Num × List Num :=
  let d := numOfNat x.length
  let xh := normXh mu rstd x
  let g := zipNum f32Mul dy gamma
  let c1 := if rms then numZero else f32Div (rowSum g) d
  let c2 := f32Div (rowSum (zipNum f32Mul g xh)) d
  (zipNum (fun gi xi => f32Mul rstd (f32Sub (f32Sub gi c1) (f32Mul xi c2))) g xh, zipNum f32Mul dy xh)

/-- m of a row of soft-maximum: the largest τ·x over the valid positions (R145). -/
def smaxM (tau : Num) (l : Nat) (x : List Num) : Num := (x.take l).foldl (fun m v => f32Max m (f32Mul tau v)) (.inf true)

/-- e of a row (R145): +0 at masked positions. -/
def smaxE (tau m : Num) (l : Nat) (x : List Num) : List Num :=
  (x.zip (List.range x.length)).map (fun v =>
    if l ≤ v.2 || m = .inf true then numZero else f32Exp (f32Sub (f32Mul tau v.1) m))

/-- y of a row (R145). -/
def smaxY (s : Num) (e : List Num) : List Num := e.map (fun v => if numIsZero s then numZero else f32Div v s)

/-- dx of rowbwd.smax (R145). -/
def smaxBack (tau : Num) (y dy : List Num) : List Num :=
  let c := rowSum (zipNum f32Mul y dy)
  zipNum (fun yi di => f32Mul (f32Mul tau yi) (f32Sub di c)) y dy

/-- The merge of R157: m, s and the factors of the two sets. -/
def mergeStats (ma sa mb sb : Num) : Num × Num × Num × Num :=
  let m := f32Max ma mb
  let fa := if ma = .inf true then numZero else f32Exp (f32Sub ma m)
  let fb := if mb = .inf true then numZero else f32Exp (f32Sub mb m)
  (m, f32Add (f32Mul sa fa) (f32Mul sb fb), fa, fb)

/-- What one row of a row operation gives: output, record, additions to dγ, whether a bad word took part, whether every input is
finite, whether one is NaN. -/
structure RowOut where
  out : List Num
  stat : Num × Num
  dg : List Num
  dy : List Num
  bad : Bool
  finite : Bool
  hasNan : Bool

/-- A row of an operand. -/
def readRow (s : State) (t : Tens) (r : Nat) : List Elem :=
  let p := rowPlace t r
  (List.range t.n0).map (fun i => readAt s t false i p.1 p.2.1 p.2.2)

/-- Row r of a row operation (R144, R145, R157). A masked position is no input (R145). -/
def rowOf (s : State) (c : Nat) (o : OpRec) (stats stats2 : List CodeWord) (r : Nat) : RowOut :=
  let get := fun n r => match opTens c o n with
    | some t => readRow s t r
    | none => []
  let v := fun (l : List Elem) => l.map (·.v)
  let st := nth stats r (codeWord 0)
  let st2 := nth stats2 r (codeWord 0)
  let w0 := nth o.words 0 0
  let tau := f32Of (BitVec.ofNat 32 (bitsOf w0 31 0))
  let fin := fun (ls : List (List Elem)) (out : List Num) (st : Num × Num) (dg dy : List Num) (sb : Bool) (nan : List Num) =>
    let all := ls.flatten
    RowOut.mk (if nan.any (· == .nan) then out.map (fun _ => .nan) else out) st dg dy (sb || all.any (·.bad))
      (all.all (fun e => numIsFinite e.v)) (nan.any (· == .nan))
  match o.op with
  | .rowfwdNorm =>
    let rms := bitOf o.f 21
    let x := get 1 r
    let g := get 2 0
    let b := if rms then [] else get 3 0
    let ms := normStats rms tau (v x)
    fin [x, g, b] (normY (normXh ms.1 ms.2 (v x)) (v g) (if rms then none else some (v b))) ms [] [] false (v x)
  | .rowfwdSmax =>
    let x := get 1 r
    let l := validLength (nth o.words 1 0) x.length r
    let m := smaxM tau l (v x)
    let e := smaxE tau m l (v x)
    let s := rowSum e
    fin [x.take l] (if bitOf o.f 27 then e else smaxY s e) (m, s) [] [] false (v (x.take l))
  | .rowfwdSmerge =>
    let a := get 1 r
    let b := get 2 r
    let q := mergeStats (statFst st) (statSnd st) (statFst st2) (statSnd st2)
    let y := zipNum (fun x z => f32Add (f32Mul x q.2.2.1) (f32Mul z q.2.2.2)) (v a) (v b)
    fin [a, b] (if bitOf o.f 9 then smaxY q.2.1 y else y) (q.1, q.2.1) [] [] (statBad st || statBad st2) (v a ++ v b)
  | .rowbwdNorm =>
    let dy := get 2 r
    let x := get 3 r
    let g := get 4 0
    let q := normBack (bitOf o.f 21) (statFst st) (statSnd st) (v dy) (v x) (v g)
    fin [dy, x, g] q.1 (numZero, numZero) q.2 (v dy) (statBad st) (v dy ++ v x)
  | _ =>
    let dy := get 1 r
    let x := get 2 r
    let l := validLength (nth o.words 1 0) x.length r
    let y := smaxY (statSnd st) (smaxE tau (statFst st) l (v x))
    fin [dy, x.take l] (smaxBack tau y (v dy)) (numZero, numZero) [] [] (statBad st) (v dy ++ v (x.take l))

/-- Add the rows' dγ and dβ to TDDGB, rows in ascending order (R144, R219). -/
def addGrads (s0 s : State) (c : Nat) (o : OpRec) (rows : List RowOut) : State :=
  match (if o.op = .rowbwdNorm then opTens c o 1 else none) with
  | none => s
  | some t =>
    let rms := bitOf o.f 21
    let bad := rows.any (·.bad)
    let n := if rms then 1 else 2
    let e := storeWindow t false false 0 t.n0 0 n 0 0 (fun i j =>
      let old := readAt s0 t false i j 0 0
      ((rows.foldl (fun a r => f32Add a (nth (if j = 0 then r.dg else r.dy) i numZero)) old.v), bad || old.bad)) (encStart s)
    finishEnc e

/-- Tag under which records are written, 0 for none (R219). -/
def recordTag (o : OpRec) : Nat :=
  match o.op with
  | .rowfwdNorm => bitsOf o.f 20 9
  | .rowfwdSmax => bitsOf o.f 26 15
  | .rowfwdSmerge => bitsOf o.f 33 22
  | _ => 0

/-- Rows of operand t, descriptor n, with the elements decoded: of x of a soft-maximum the valid positions (R145). -/
def decodedRows (o : OpRec) (n : Nat) (t : Tens) : List (Nat × Nat) :=
  if (o.op = .rowfwdSmax && n = 1) || (o.op = .rowbwdSmax && n = 2)
  then (allRows t).map (fun q => (q.1, validLength (nth o.words 1 0) t.n0 q.1)) else allRows t

/-- SCALE_RANGE of the operands of a row operation. -/
def rowSr (s : State) (c : Nat) (o : OpRec) : Nat :=
  ((List.range o.descs.length).filter (destCount o.op ≤ ·)).foldl (fun k n => match opTens c o n with
    | some t => k + countSr s t false (decodedRows o n t)
    | none => k) 0

/-- A row operation reads its rows and records and writes its outputs, records and sums (R142 to R148). A result made non-finite from an
infinite input counts nothing (R62, R64; assumption log 77). -/
def runRow (s : State) (c : Nat) (o : OpRec) : State :=
  match opTens c o 0, (srcsOf c o).head? with
  | some d, some x =>
    let src := sourceOf c o
    let extra := if o.op = .rowbwdNorm then (opTens c o 1).toList else []
    let (s, bad) := checkRanges src s ((srcsOf c o ++ extra).flatMap wholeRanges)
    let s := faultFor s c src bad
    let n := rowCount x
    let tags := match o.op with
      | .rowfwdSmerge => [bitsOf o.f 33 22, bitsOf o.f 21 10]
      | .rowbwdNorm => [bitsOf o.f 20 9]
      | .rowbwdSmax => [bitsOf o.f 21 10]
      | _ => []
    let (s, sa) := match tags with
      | t :: _ => readStats s c src t n
      | [] => (s, [])
    let (s, sb) := match tags with
      | [_, t] => readStats s c src t n
      | _ => (s, [])
    let s0 := s
    let rows := (List.range n).map (rowOf s0 c o sa sb)
    let rowAt := fun r => nth rows r ⟨[], (numZero, numZero), [], [], false, true, false⟩
    let val := fun i j k l => let q := rowAt (rowNumber d j k l); (nth q.out i numZero, q.bad)
    let e := storeAll d false false val (encStart s)
    -- R146: a row with a NaN input counts once; what the encoder counts is counted on the other rows (R53, R62)
    let rest := storeAll d false false (fun i j k l => if (rowAt (rowNumber d j k l)).hasNan then (numZero, false) else val i j k l) (encStart s)
    let made := if isWide d.fmt then rows.foldl (fun k q =>
        if q.finite then k + (q.out.filter (fun v => !numIsFinite v)).length else k) 0 else 0
    let s := addGrads s0 (finishEnc e) c o rows
    let s := opEvent s c o.layer 0 ((rows.filter (·.hasNan)).length + rest.nf + made)
    let s := opEvent s c o.layer 3 (rowSr s0 c o)
    let s := opAmax s c o.layer o.st e.amax
    if recordTag o = 0 then s
    else writeStats s c o (recordTag o) (rows.map (fun q => statWord q.stat.1 q.stat.2 q.bad))
  | _, _ => s

/-- A row operation finishes and raises its token (R147). -/
def execRowOpComplete (cl : ClusterIx) (s : State) : Out := .next (completeOn s cl 10 runRow)

end Sys2Proof.Machine
end

