-- ==== Sys2Proof/Machine/Scalar.lean ====
section
/-! DEFINITION. Scalar, predicate and address instructions (R202). -/

namespace Sys2Proof.Machine

/-- rd := g(ra, rb), formats (S, S, S). -/
def scalarR (opc : Nat) (g : Word → Word → Word) (i : Issue) (s : State) : Out :=
  issue opc (isS (fRD i) && isS (fRA i) && isS (fRB i) && zeroBits i 33 0)
    (fun t => retire (fun x => setSreg x (fRD i) (g (sreg x (fRA i)) (sreg x (fRB i)))) t i) i s

/-- rd := g(ra, IMM), formats (S, S, —). immOk: the immediate holds no reserved bit. -/
def scalarI (opc : Nat) (immOk : Bool) (g : Word → BitVec 32 → Word) (i : Issue) (s : State) : Out :=
  issue opc (isS (fRD i) && isS (fRA i) && zeroBits i 39 32 && immOk)
    (fun t => retire (fun x => setSreg x (fRD i) (g (sreg x (fRA i)) (fIMM i))) t i) i s

/-- The shift amount of shl, shr and sra: rb mod 64. -/
def shiftAmt (b : Word) : Nat := b.toNat % 64

/-- IMM bits 31:6 are 0 (R202). -/
def shiftImmOk (i : Issue) : Bool := fieldOf i 31 6 = 0

/-- The signed and the unsigned minimum and maximum. -/
def sMin (a b : Word) : Word := if a.slt b then a else b
def sMax (a b : Word) : Word := if a.slt b then b else a
def uMin (a b : Word) : Word := if a.ult b then a else b
def uMax (a b : Word) : Word := if a.ult b then b else a

def execAdd (i : Issue) (s : State) : Out := scalarR 0x10 (fun a b => a + b) i s
def execSub (i : Issue) (s : State) : Out := scalarR 0x11 (fun a b => a - b) i s
def execMul (i : Issue) (s : State) : Out := scalarR 0x12 (fun a b => a * b) i s
def execAnd (i : Issue) (s : State) : Out := scalarR 0x13 (fun a b => a &&& b) i s
def execOr (i : Issue) (s : State) : Out := scalarR 0x14 (fun a b => a ||| b) i s
def execXor (i : Issue) (s : State) : Out := scalarR 0x15 (fun a b => a ^^^ b) i s
def execShl (i : Issue) (s : State) : Out := scalarR 0x16 (fun a b => a <<< shiftAmt b) i s
def execShr (i : Issue) (s : State) : Out := scalarR 0x17 (fun a b => a >>> shiftAmt b) i s
def execSra (i : Issue) (s : State) : Out := scalarR 0x18 (fun a b => a.sshiftRight (shiftAmt b)) i s
def execMin (i : Issue) (s : State) : Out := scalarR 0x19 sMin i s
def execMax (i : Issue) (s : State) : Out := scalarR 0x1A sMax i s
def execMinu (i : Issue) (s : State) : Out := scalarR 0x1B uMin i s
def execMaxu (i : Issue) (s : State) : Out := scalarR 0x1C uMax i s

def execAddi (i : Issue) (s : State) : Out := scalarI 0x20 true (fun a n => a + sext32 n) i s
def execAndi (i : Issue) (s : State) : Out := scalarI 0x21 true (fun a n => a &&& sext32 n) i s
def execOri (i : Issue) (s : State) : Out := scalarI 0x22 true (fun a n => a ||| sext32 n) i s
def execXori (i : Issue) (s : State) : Out := scalarI 0x23 true (fun a n => a ^^^ sext32 n) i s
def execShli (i : Issue) (s : State) : Out := scalarI 0x24 (shiftImmOk i) (fun a n => a <<< n.toNat) i s
def execShri (i : Issue) (s : State) : Out := scalarI 0x25 (shiftImmOk i) (fun a n => a >>> n.toNat) i s
def execSrai (i : Issue) (s : State) : Out := scalarI 0x26 (shiftImmOk i) (fun a n => a.sshiftRight n.toNat) i s

/-- li: rd := sext(IMM). -/
def execLi (i : Issue) (s : State) : Out :=
  issue 0x27 (isS (fRD i) && zeroBits i 45 32)
    (fun t => retire (fun x => setSreg x (fRD i) (sext32 (fIMM i))) t i) i s

/-- lih: rd := (IMM << 32) or (rd and 0xFFFF_FFFF). -/
def execLih (i : Issue) (s : State) : Out :=
  issue 0x28 (isS (fRD i) && zeroBits i 45 32)
    (fun t => retire (fun x => setSreg x (fRD i)
      ((fIMM i).zeroExtend 64 <<< 32 ||| (sreg x (fRD i) &&& 0xFFFFFFFF))) t i) i s

/-- cmp: pd := cond(CC, ra, rb). -/
def execCmp (i : Issue) (s : State) : Out :=
  issue 0x30 (isP (fRD i) && isS (fRA i) && isS (fRB i) && fCCR i ≤ 5 && zeroBits i 29 0)
    (fun t => retire (fun x => setPreg x (fRD i)
      ((condOf (fCCR i) (sreg x (fRA i)) (sreg x (fRB i))).getD false)) t i) i s

/-- cmpi: pd := cond(CC, ra, sext(IMM)). -/
def execCmpi (i : Issue) (s : State) : Out :=
  issue 0x31 (isP (fRD i) && isS (fRA i) && fCCI i ≤ 5 && zeroBits i 35 32)
    (fun t => retire (fun x => setPreg x (fRD i)
      ((condOf (fCCI i) (sreg x (fRA i)) (sext32 (fIMM i))).getD false)) t i) i s

/-- pop: a logic code over predicates. -/
def execPop (i : Issue) (s : State) : Out :=
  issue 0x32 (isP (fRD i) && isP (fRA i) && isP (fRB i) && fCCR i ≤ 3 && zeroBits i 29 0)
    (fun t => retire (fun x => setPreg x (fRD i)
      ((popOf (fCCR i) (preg x (fRA i)) (preg x (fRB i))).getD false)) t i) i s

/-- mov.a: ad := sa. -/
def execMovA (i : Issue) (s : State) : Out :=
  issue 0x33 (isA (fRD i) && isS (fRA i) && zeroBits i 39 0)
    (fun t => retire (fun x => setAreg x (fRD i) (sreg x (fRA i))) t i) i s

/-- mov.s: sd := aa. -/
def execMovS (i : Issue) (s : State) : Out :=
  issue 0x34 (isS (fRD i) && isA (fRA i) && zeroBits i 39 0)
    (fun t => retire (fun x => setSreg x (fRD i) (areg x (fRA i))) t i) i s

/-- adda: ad := aa + sb. -/
def execAdda (i : Issue) (s : State) : Out :=
  issue 0x35 (isA (fRD i) && isA (fRA i) && isS (fRB i) && zeroBits i 33 0)
    (fun t => retire (fun x => setAreg x (fRD i) (areg x (fRA i) + sreg x (fRB i))) t i) i s

/-- addai: ad := aa + sext(IMM). -/
def execAddai (i : Issue) (s : State) : Out :=
  issue 0x36 (isA (fRD i) && isA (fRA i) && zeroBits i 39 32)
    (fun t => retire (fun x => setAreg x (fRD i) (areg x (fRA i) + sext32 (fIMM i))) t i) i s

end Sys2Proof.Machine
end

