-- ==== Sys2Proof/Machine/Dispatch.lean ====
section
/-! DEFINITION. What each command does: one arm per command, one meaning per arm. -/

namespace Sys2Proof.Machine

/-- The effect of a command on everything but the queue. -/
def exec (i : Instr) (s : State) : Host.Outcome State Fault Refusal :=
  match i with
  | .nop iss opc => Sys2Proof.Machine.execNop iss opc s
  | .end_ iss => Sys2Proof.Machine.execEnd iss s
  | .trap iss => Sys2Proof.Machine.execTrap iss s
  | .fenceS iss => Sys2Proof.Machine.execFenceS iss s
  | .fenceC iss => Sys2Proof.Machine.execFenceC iss s
  | .fenceG iss => Sys2Proof.Machine.execFenceG iss s
  | .add iss => Sys2Proof.Machine.execAdd iss s
  | .sub iss => Sys2Proof.Machine.execSub iss s
  | .mul iss => Sys2Proof.Machine.execMul iss s
  | .and iss => Sys2Proof.Machine.execAnd iss s
  | .or iss => Sys2Proof.Machine.execOr iss s
  | .xor iss => Sys2Proof.Machine.execXor iss s
  | .shl iss => Sys2Proof.Machine.execShl iss s
  | .shr iss => Sys2Proof.Machine.execShr iss s
  | .sra iss => Sys2Proof.Machine.execSra iss s
  | .min iss => Sys2Proof.Machine.execMin iss s
  | .max iss => Sys2Proof.Machine.execMax iss s
  | .minu iss => Sys2Proof.Machine.execMinu iss s
  | .maxu iss => Sys2Proof.Machine.execMaxu iss s
  | .addi iss => Sys2Proof.Machine.execAddi iss s
  | .andi iss => Sys2Proof.Machine.execAndi iss s
  | .ori iss => Sys2Proof.Machine.execOri iss s
  | .xori iss => Sys2Proof.Machine.execXori iss s
  | .shli iss => Sys2Proof.Machine.execShli iss s
  | .shri iss => Sys2Proof.Machine.execShri iss s
  | .srai iss => Sys2Proof.Machine.execSrai iss s
  | .li iss => Sys2Proof.Machine.execLi iss s
  | .lih iss => Sys2Proof.Machine.execLih iss s
  | .cmp iss => Sys2Proof.Machine.execCmp iss s
  | .cmpi iss => Sys2Proof.Machine.execCmpi iss s
  | .pop iss => Sys2Proof.Machine.execPop iss s
  | .movA iss => Sys2Proof.Machine.execMovA iss s
  | .movS iss => Sys2Proof.Machine.execMovS iss s
  | .adda iss => Sys2Proof.Machine.execAdda iss s
  | .addai iss => Sys2Proof.Machine.execAddai iss s
  | .ldD iss => Sys2Proof.Machine.execLdD iss s
  | .ldW iss => Sys2Proof.Machine.execLdW iss s
  | .stD iss => Sys2Proof.Machine.execStD iss s
  | .stW iss => Sys2Proof.Machine.execStW iss s
  | .tdLd iss => Sys2Proof.Machine.execTdLd iss s
  | .tdSt iss => Sys2Proof.Machine.execTdSt iss s
  | .tdSet iss => Sys2Proof.Machine.execTdSet iss s
  | .b iss => Sys2Proof.Machine.execB iss s
  | .bl iss => Sys2Proof.Machine.execBl iss s
  | .bi iss => Sys2Proof.Machine.execBi iss s
  | .sig iss => Sys2Proof.Machine.execSig iss s
  | .wait iss => Sys2Proof.Machine.execWait iss s
  | .bar iss => Sys2Proof.Machine.execBar iss s
  | .barArr iss => Sys2Proof.Machine.execBarArr iss s
  | .barWt iss => Sys2Proof.Machine.execBarWt iss s
  | .mbxPut iss => Sys2Proof.Machine.execMbxPut iss s
  | .ldt iss => Sys2Proof.Machine.execLdt iss s
  | .ldtTr iss => Sys2Proof.Machine.execLdtTr iss s
  | .stt iss => Sys2Proof.Machine.execStt iss s
  | .dma iss => Sys2Proof.Machine.execDma iss s
  | .mmaF8F8 iss => Sys2Proof.Machine.execMmaF8F8 iss s
  | .mmaF4xF8 iss => Sys2Proof.Machine.execMmaF4xF8 iss s
  | .mmaF8F4x iss => Sys2Proof.Machine.execMmaF8F4x iss s
  | .mmaF4xF4x iss => Sys2Proof.Machine.execMmaF4xF4x iss s
  | .mmaI8I8 iss => Sys2Proof.Machine.execMmaI8I8 iss s
  | .mmaI4xI8 iss => Sys2Proof.Machine.execMmaI4xI8 iss s
  | .mmaI8I4x iss => Sys2Proof.Machine.execMmaI8I4x iss s
  | .mmaI4xI4x iss => Sys2Proof.Machine.execMmaI4xI4x iss s
  | .mmaBf16Bf16 iss => Sys2Proof.Machine.execMmaBf16Bf16 iss s
  | .mmaF16F16 iss => Sys2Proof.Machine.execMmaF16F16 iss s
  | .drainRaw iss => Sys2Proof.Machine.execDrainRaw iss s
  | .drainAct iss => Sys2Proof.Machine.execDrainAct iss s
  | .drainGate iss => Sys2Proof.Machine.execDrainGate iss s
  | .drainDact iss => Sys2Proof.Machine.execDrainDact iss s
  | .drainDgate iss => Sys2Proof.Machine.execDrainDgate iss s
  | .qzBlk iss => Sys2Proof.Machine.execQzBlk iss s
  | .qzSheet iss => Sys2Proof.Machine.execQzSheet iss s
  | .rowfwdNorm iss => Sys2Proof.Machine.execRowfwdNorm iss s
  | .rowfwdSmax iss => Sys2Proof.Machine.execRowfwdSmax iss s
  | .rowfwdSmerge iss => Sys2Proof.Machine.execRowfwdSmerge iss s
  | .rowbwdNorm iss => Sys2Proof.Machine.execRowbwdNorm iss s
  | .rowbwdSmax iss => Sys2Proof.Machine.execRowbwdSmax iss s
  | .vEw iss => Sys2Proof.Machine.execVEw iss s
  | .vRed iss => Sys2Proof.Machine.execVRed iss s
  | .vGather iss => Sys2Proof.Machine.execVGather iss s
  | .vScatter iss => Sys2Proof.Machine.execVScatter iss s
  | .rsendB8 iss => Sys2Proof.Machine.execRsendB8 iss s
  | .rsendBf16 iss => Sys2Proof.Machine.execRsendBf16 iss s
  | .rrecv iss => Sys2Proof.Machine.execRrecv iss s
  | .issueStallRelease cl st => Sys2Proof.Machine.execIssueStallRelease cl st s
  | .waitSatisfied cl st => Sys2Proof.Machine.execWaitSatisfied cl st s
  | .fenceRelease cl st => Sys2Proof.Machine.execFenceRelease cl st s
  | .putUnblock cl st => Sys2Proof.Machine.execPutUnblock cl st s
  | .waitTimeout cl st => Sys2Proof.Machine.execWaitTimeout cl st s
  | .streamEnd cl st => Sys2Proof.Machine.execStreamEnd cl st s
  | .opBegin cl op => Sys2Proof.Machine.execOpBegin cl op s
  | .passComplete cl e => Sys2Proof.Machine.execPassComplete cl e s
  | .drainComplete cl e => Sys2Proof.Machine.execDrainComplete cl e s
  | .quantiserComplete cl => Sys2Proof.Machine.execQuantiserComplete cl s
  | .rowOpComplete cl => Sys2Proof.Machine.execRowOpComplete cl s
  | .vectorOpComplete cl => Sys2Proof.Machine.execVectorOpComplete cl s
  | .dmaComplete cl ch => Sys2Proof.Machine.execDmaComplete cl ch s
  | .slotBoundary cl => Sys2Proof.Machine.execSlotBoundary cl s
  | .tileBroadcast p => Sys2Proof.Machine.execTileBroadcast p s
  | .runStart p => Sys2Proof.Machine.execRunStart p s
  | .runEnd p => Sys2Proof.Machine.execRunEnd p s
  | .runAbandon cl => Sys2Proof.Machine.execRunAbandon cl s
  | .stepFault p => Sys2Proof.Machine.execStepFault p s
  | .verdict p => Sys2Proof.Machine.execVerdict p s
  | .answerCommit src p => Sys2Proof.Machine.execAnswerCommit src p s
  | .answerReplay src p => Sys2Proof.Machine.execAnswerReplay src p s
  | .answerSkip src p => Sys2Proof.Machine.execAnswerSkip src p s
  | .apply src p => Sys2Proof.Machine.execApply src p s
  | .holdNext src p => Sys2Proof.Machine.execHoldNext src p s
  | .lossReport src p v => Sys2Proof.Machine.execLossReport src p v s
  | .wdtKick src n v => Sys2Proof.Machine.execWdtKick src n v s
  | .coreWdt n pc => Sys2Proof.Machine.execCoreWdt n pc s
  | .coreRestart n => Sys2Proof.Machine.execCoreRestart n s
  | .coreRelease src v => Sys2Proof.Machine.execCoreRelease src v s
  | .partWrite src p v => Sys2Proof.Machine.execPartWrite src p v s
  | .winWrite src p v => Sys2Proof.Machine.execWinWrite src p v s
  | .registerWrite src addr width v => Sys2Proof.Machine.execRegisterWrite src addr width v s
  | .updateComplete p => Sys2Proof.Machine.execUpdateComplete p s
  | .emit p => Sys2Proof.Machine.execEmit p s
  | .gatherStart p tag => Sys2Proof.Machine.execGatherStart p tag s
  | .gatherTimeout p tag => Sys2Proof.Machine.execGatherTimeout p tag s
  | .portDetect port => Sys2Proof.Machine.execPortDetect port s
  | .laneSignal port lane => Sys2Proof.Machine.execLaneSignal port lane s
  | .phyTrainDone port locked => Sys2Proof.Machine.execPhyTrainDone port locked s
  | .phyTrainTimeout port locked => Sys2Proof.Machine.execPhyTrainTimeout port locked s
  | .initFlit port peer => Sys2Proof.Machine.execInitFlit port peer s
  | .initTimeout port => Sys2Proof.Machine.execInitTimeout port s
  | .retrainTimeout port => Sys2Proof.Machine.execRetrainTimeout port s
  | .fecLockLoss port lane => Sys2Proof.Machine.execFecLockLoss port lane s
  | .portRetrain src port => Sys2Proof.Machine.execPortRetrain src port s
  | .portDisable src port => Sys2Proof.Machine.execPortDisable src port s
  | .portEnable src port => Sys2Proof.Machine.execPortEnable src port s
  | .flitReceive port flit => Sys2Proof.Machine.execFlitReceive port flit s
  | .packetForward input vc => Sys2Proof.Machine.execPacketForward input vc s
  | .writeReceive => Sys2Proof.Machine.execWriteReceive s
  | .wackReceive => Sys2Proof.Machine.execWackReceive s
  | .refuseReceive => Sys2Proof.Machine.execRefuseReceive s
  | .eNakReceive => Sys2Proof.Machine.execENakReceive s
  | .e2eTimeout tid => Sys2Proof.Machine.execE2eTimeout tid s
  | .barUpReceive => Sys2Proof.Machine.execBarUpReceive s
  | .barDownReceive => Sys2Proof.Machine.execBarDownReceive s
  | .barrierRelease bar => Sys2Proof.Machine.execBarrierRelease bar s
  | .stationAssign src v => Sys2Proof.Machine.execStationAssign src v s
  | .tsyncSend => Sys2Proof.Machine.execTsyncSend s
  | .tsyncReceive sub => Sys2Proof.Machine.execTsyncReceive sub s
  | .redScatterReceive => Sys2Proof.Machine.execRedScatterReceive s
  | .wireBlockForward p tag block => Sys2Proof.Machine.execWireBlockForward p tag block s
  | .redGatherReceive => Sys2Proof.Machine.execRedGatherReceive s
  | .hopReceive => Sys2Proof.Machine.execHopReceive s
  | .closureFinal p tag => Sys2Proof.Machine.execClosureFinal p tag s
  | .upStatusReceive => Sys2Proof.Machine.execUpStatusReceive s
  | .upMaxReceive => Sys2Proof.Machine.execUpMaxReceive s
  | .downStatusReceive => Sys2Proof.Machine.execDownStatusReceive s
  | .downMaxReceive => Sys2Proof.Machine.execDownMaxReceive s
  | .preUpReceive => Sys2Proof.Machine.execPreUpReceive s
  | .preDownReceive => Sys2Proof.Machine.execPreDownReceive s
  | .gatherHopReceive => Sys2Proof.Machine.execGatherHopReceive s
  | .bucketTimeout p tag => Sys2Proof.Machine.execBucketTimeout p tag s
  | .commitArrive p => Sys2Proof.Machine.execCommitArrive p s
  | .ckptStaged p => Sys2Proof.Machine.execCkptStaged p s
  | .commitTimeout p => Sys2Proof.Machine.execCommitTimeout p s
  | .mirrorSendTimeout p => Sys2Proof.Machine.execMirrorSendTimeout p s
  | .buddyWrite src p which v => Sys2Proof.Machine.execBuddyWrite src p which v s
  | .halt src p => Sys2Proof.Machine.execHalt src p s
  | .flip src p => Sys2Proof.Machine.execFlip src p s
  | .resume src p => Sys2Proof.Machine.execResume src p s
  | .mirrorLoad src p => Sys2Proof.Machine.execMirrorLoad src p s
  | .restore src p => Sys2Proof.Machine.execRestore src p s
  | .restoreDone p => Sys2Proof.Machine.execRestoreDone p s
  | .ckptAt src p => Sys2Proof.Machine.execCkptAt src p s
  | .drained src p => Sys2Proof.Machine.execDrained src p s
  | .setEpoch src p => Sys2Proof.Machine.execSetEpoch src p s
  | .energySample sample => Sys2Proof.Machine.execEnergySample sample s
  | .governorPeriod sensors => Sys2Proof.Machine.execGovernorPeriod sensors s
  | .settingChange => Sys2Proof.Machine.execSettingChange s
  | .droopTrip cl => Sys2Proof.Machine.execDroopTrip cl s
  | .droopHoldEnd cl => Sys2Proof.Machine.execDroopHoldEnd cl s
  | .tokenRefill => Sys2Proof.Machine.execTokenRefill s
  | .wakeGrant => Sys2Proof.Machine.execWakeGrant s
  | .domainWakeDone d => Sys2Proof.Machine.execDomainWakeDone d s
  | .domRetain src clusters => Sys2Proof.Machine.execDomRetain src clusters s
  | .domWake src clusters => Sys2Proof.Machine.execDomWake src clusters s
  | .pwrCapWrite src v => Sys2Proof.Machine.execPwrCapWrite src v s
  | .coolLoss => Sys2Proof.Machine.execCoolLoss s
  | .restart src v => Sys2Proof.Machine.execRestart src v s
  | .scrubGo src v => Sys2Proof.Machine.execScrubGo src v s
  | .scrubDone => Sys2Proof.Machine.execScrubDone s
  | .locationDrop iss => Sys2Proof.Machine.execLocationDrop iss s
  | .retirementRecordWrite => Sys2Proof.Machine.execRetirementRecordWrite s
  | .acceptEmpty src v => Sys2Proof.Machine.execAcceptEmpty src v s
  | .thaw src v => Sys2Proof.Machine.execThaw src v s
  | .fieldBookWrite => Sys2Proof.Machine.execFieldBookWrite s
  | .conserveCheck => Sys2Proof.Machine.execConserveCheck s
  | .meridianLight => Sys2Proof.Machine.execMeridianLight s
  | .meridianLock => Sys2Proof.Machine.execMeridianLock s
  | .meridianLockTimeout => Sys2Proof.Machine.execMeridianLockTimeout s
  | .meridianLockLoss => Sys2Proof.Machine.execMeridianLockLoss s
  | .helloSend => Sys2Proof.Machine.execHelloSend s
  | .helloReceive frame => Sys2Proof.Machine.execHelloReceive frame s
  | .cmdFrameReceive frame => Sys2Proof.Machine.execCmdFrameReceive frame s
  | .ctrlFrameReceive frame => Sys2Proof.Machine.execCtrlFrameReceive frame s
  | .ackTimeout sess => Sys2Proof.Machine.execAckTimeout sess s
  | .frameSend sess => Sys2Proof.Machine.execFrameSend sess s
  | .load sess => Sys2Proof.Machine.execLoad sess s
  | .unload sess => Sys2Proof.Machine.execUnload sess s
  | .run sess => Sys2Proof.Machine.execRun sess s
  | .read sess => Sys2Proof.Machine.execRead sess s
  | .write sess => Sys2Proof.Machine.execWrite sess s
  | .meridianMbxPut sess => Sys2Proof.Machine.execMeridianMbxPut sess s
  | .mbxGet sess => Sys2Proof.Machine.execMbxGet sess s
  | .mbxStat sess => Sys2Proof.Machine.execMbxStat sess s
  | .mbxRing sess => Sys2Proof.Machine.execMbxRing sess s
  | .mbxPutTimeout sess => Sys2Proof.Machine.execMbxPutTimeout sess s
  | .telem sess => Sys2Proof.Machine.execTelem sess s
  | .attest sess => Sys2Proof.Machine.execAttest sess s
  | .freeze sess => Sys2Proof.Machine.execFreeze sess s
  | .readout sess => Sys2Proof.Machine.execReadout sess s
  | .mbxPost src n v => Sys2Proof.Machine.execMbxPost src n v s
  | .mbxDataRead src n => Sys2Proof.Machine.execMbxDataRead src n s
  | .recordPost iss => Sys2Proof.Machine.execRecordPost iss s
  | .doorbellRing src c v => Sys2Proof.Machine.execDoorbellRing src c v s
  | .resetPin => Sys2Proof.Machine.execResetPin s
  | .hubResetWarm src v => Sys2Proof.Machine.execHubResetWarm src v s
  | .hubResetCold src v => Sys2Proof.Machine.execHubResetCold src v s
  | .inputUndervoltage mv => Sys2Proof.Machine.execInputUndervoltage mv s
  | .inputOvervoltage mv => Sys2Proof.Machine.execInputOvervoltage mv s
  | .inputPowerGood mv => Sys2Proof.Machine.execInputPowerGood mv s
  | .rails tray slot => Sys2Proof.Machine.execRails tray slot s
  | .rom => Sys2Proof.Machine.execRom s
  | .fwLoad => Sys2Proof.Machine.execFwLoad s
  | .records => Sys2Proof.Machine.execRecords s
  | .identity => Sys2Proof.Machine.execIdentity s
  | .domains => Sys2Proof.Machine.execDomains s
  | .selftest fails => Sys2Proof.Machine.execSelftest fails s
  | .stores => Sys2Proof.Machine.execStores s
  | .dram failed => Sys2Proof.Machine.execDram failed s
  | .links => Sys2Proof.Machine.execLinks s
  | .ready => Sys2Proof.Machine.execReady s
  | .bootTimeout => Sys2Proof.Machine.execBootTimeout s
  | .program src => Sys2Proof.Machine.execProgram src s
  | .floor src => Sys2Proof.Machine.execFloor src s
  | .abandon src => Sys2Proof.Machine.execAbandon src s
  | .boot src => Sys2Proof.Machine.execBoot src s
  | .freezePin => Sys2Proof.Machine.execFreezePin s
  | .rootUnlock => Sys2Proof.Machine.execRootUnlock s
  | .idcode => Sys2Proof.Machine.execIdcode s
  | .bypass => Sys2Proof.Machine.execBypass s
  | .samplePreload pins => Sys2Proof.Machine.execSamplePreload pins s
  | .extest pins => Sys2Proof.Machine.execExtest pins s
  | .roAddr v => Sys2Proof.Machine.execRoAddr v s
  | .roData => Sys2Proof.Machine.execRoData s
  | .smbSetAddress addr pecOk => Sys2Proof.Machine.execSmbSetAddress addr pecOk s
  | .smbReadRegister pecOk => Sys2Proof.Machine.execSmbReadRegister pecOk s
  | .smbWriteRegister width v pecOk => Sys2Proof.Machine.execSmbWriteRegister width v pecOk s
  | .smbReadStatus => Sys2Proof.Machine.execSmbReadStatus s
  | .loadDataReturn cl st => Sys2Proof.Machine.execLoadDataReturn cl st s
  | .coreUe n addr syndrome => Sys2Proof.Machine.execCoreUe n addr syndrome s
  | .junction125cPowerOff => Sys2Proof.Machine.execJunction125cPowerOff s
  | .tapReset => Sys2Proof.Machine.execTapReset s

end Sys2Proof.Machine
end

