-- ==== Sys2Proof/Safety.lean ====
section
/-! DEFINITION. The terms in which the statements speak: the canonical form of memory, what a command leaves as it was (frames), and when a
stream issues or executes an instruction. -/

namespace Sys2Proof.Machine

/-- Memory is in its canonical form. -/
def State.memOk (s : State) : Prop := memWf s.lost s.mem = true

/-! ### Frames -/

/-- Every byte of the stores reads as before, and a reader finds the syndrome of every stored word as before. -/
def SameStores (s t : State) : Prop :=
  ∀ a, a < 0x1000000000000 → rdByte t a = rdByte s a ∧ synAt t a = synAt s a ∧ lineSynAt t (wordAddr a) = lineSynAt s (wordAddr a)

/-- Every register of the register maps whose address is not listed holds what it held. -/
def SameRegs (l : List Nat) (s t : State) : Prop :=
  ∀ (r : RegName) (idx inst : Nat), regAddr r idx inst ∉ l → reg t r idx inst = reg s r idx inst

/-- Every cluster but c is as before. -/
def SameClusters (c : Nat) (s t : State) : Prop := ∀ d, d ≠ c → clu t d = clu s d

/-- Every partition but p is as before. -/
def SameParts (p : Nat) (s t : State) : Prop := ∀ q, q ≠ p → part t q = part s q

/-- The address of the program counter register of a stream. -/
def pcAddr (c : Nat) (st : Stream) : Nat := regAddr (pcFld st).reg 0 c

/-- The other stream of the cluster is as before. -/
def SameOtherStream (s t : State) (c : Nat) (st : Stream) : Prop := stream t c (otherStream st) = stream s c (otherStream st)

/-- Nothing changed but scalar, address and predicate registers of the issuing stream and its program counter, which stands at the next
word. -/
def StreamOnly (s t : State) (i : Issue) : Prop :=
  t = { s with regs := t.regs, clusters := t.clusters } ∧
  SameRegs [pcAddr i.cl i.st] s t ∧
  pcNow t i = (pcNow s i + 8) % 2 ^ 48 ∧
  SameClusters i.cl s t ∧
  clu t i.cl = setStr (clu s i.cl) i.st (strOf t i) ∧
  strOf t i = { strOf s i with sreg := (strOf t i).sreg, areg := (strOf t i).areg, preg := (strOf t i).preg }

/-! ### Reads and issue -/

/-- Requester src reads every word of [lo, hi) and meets none that stays in error: the machine is then u, which differs from s in what the read
itself leaves (corrections, their counts, lines of the edge caches: R237, R262, R263). -/
def Reads (src : Nat) (s u : State) (lo hi : Nat) : Prop := checkRange src (s, none) lo hi = (u, none)

/-- The same of several ranges, in order. -/
def ReadsAll (src : Nat) (s u : State) (rs : List (Nat × Nat)) : Prop := checkRanges src s rs = (u, none)

/-- What a read may leave (R237, R262 to R268): corrections written back, their counts and locations, and lines of the edge caches. -/
def ReadEffect (s u : State) : Prop :=
  u = { s with free := u.free, regs := u.regs, fresh := u.fresh, mem := u.mem, tags := u.tags, lines := u.lines, lineBytes := u.lineBytes,
               lineSyn := u.lineSyn, lineUse := u.lineUse, syn := u.syn, integ := u.integ, fb := u.fb, fbOffered := u.fbOffered } ∧
  SameRegs [regAddr .ECC_CECNT 0 0, regAddr .ECC_UECNT 0 0, regAddr .ECC_POISONCNT 0 0, regAddr .ECC_RTRYCNT 0 0, regAddr .HUB_MEM_STAT 0 0,
    regAddr .FBK_LOST 0 0] s u

/-- No stored word that meets [lo, hi) is in error. -/
def Clean (s : State) (lo hi : Nat) : Prop := ∀ w, wordAddr lo ≤ w → w < hi → nget s.syn w = none

/-- The stream runs and issues, and fetches a word that is good inside the code region of its image (R500); the machine is then u. -/
def Fetches (s u : State) (i : Issue) : Prop :=
  canIssue s i = true ∧ (strOf s i).running = true ∧ inCodeRegion s i.cl (fetchAt s i) = true ∧
  Reads (srcCluster 0 i.cl) s u (pcNow s i) (pcNow s i + 8)

/-- It fetches an instruction whose predicate is on (R194). -/
def Executes (s u : State) (i : Issue) : Prop := Fetches s u i ∧ predicateOn u i = true

/-- The issue that an instruction command carries. -/
def issueOf : Instr → Option Issue
  | .nop i _ | .end_ i | .trap i | .fenceS i | .fenceC i | .fenceG i
  | .add i | .sub i | .mul i | .and i | .or i | .xor i | .shl i | .shr i | .sra i | .min i | .max i | .minu i | .maxu i
  | .addi i | .andi i | .ori i | .xori i | .shli i | .shri i | .srai i | .li i | .lih i | .cmp i | .cmpi i | .pop i
  | .movA i | .movS i | .adda i | .addai i | .ldD i | .ldW i | .stD i | .stW i | .tdLd i | .tdSt i | .tdSet i
  | .b i | .bl i | .bi i | .sig i | .wait i | .bar i | .barArr i | .barWt i | .mbxPut i
  | .ldt i | .ldtTr i | .stt i | .dma i
  | .mmaF8F8 i | .mmaF4xF8 i | .mmaF8F4x i | .mmaF4xF4x i | .mmaI8I8 i | .mmaI4xI8 i | .mmaI8I4x i | .mmaI4xI4x i
  | .mmaBf16Bf16 i | .mmaF16F16 i
  | .drainRaw i | .drainAct i | .drainGate i | .drainDact i | .drainDgate i | .qzBlk i | .qzSheet i
  | .rowfwdNorm i | .rowfwdSmax i | .rowfwdSmerge i | .rowbwdNorm i | .rowbwdSmax i
  | .vEw i | .vRed i | .vGather i | .vScatter i | .rsendB8 i | .rsendBf16 i | .rrecv i => some i
  | _ => none

/-- The opcode of each instruction command (R197); 0 for the other commands. -/
def opcodeOf : Instr → Nat
  | .nop _ o => o.toNat
  | .end_ _ => 0x01 | .trap _ => 0x02 | .fenceS _ | .fenceC _ | .fenceG _ => 0x03
  | .add _ => 0x10 | .sub _ => 0x11 | .mul _ => 0x12 | .and _ => 0x13 | .or _ => 0x14 | .xor _ => 0x15
  | .shl _ => 0x16 | .shr _ => 0x17 | .sra _ => 0x18 | .min _ => 0x19 | .max _ => 0x1A | .minu _ => 0x1B | .maxu _ => 0x1C
  | .addi _ => 0x20 | .andi _ => 0x21 | .ori _ => 0x22 | .xori _ => 0x23 | .shli _ => 0x24 | .shri _ => 0x25 | .srai _ => 0x26
  | .li _ => 0x27 | .lih _ => 0x28 | .cmp _ => 0x30 | .cmpi _ => 0x31 | .pop _ => 0x32 | .movA _ => 0x33 | .movS _ => 0x34
  | .adda _ => 0x35 | .addai _ => 0x36 | .ldD _ => 0x40 | .ldW _ => 0x41 | .stD _ => 0x42 | .stW _ => 0x43
  | .tdLd _ => 0x44 | .tdSt _ => 0x45 | .tdSet _ => 0x46 | .b _ => 0x50 | .bl _ => 0x51 | .bi _ => 0x52
  | .sig _ => 0x60 | .wait _ => 0x61 | .bar _ => 0x62 | .barArr _ => 0x63 | .barWt _ => 0x64 | .mbxPut _ => 0x65
  | .ldt _ => 0x70 | .ldtTr _ => 0x71 | .stt _ => 0x72 | .dma _ => 0x73
  | .mmaF8F8 _ => 0x80 | .mmaF4xF8 _ => 0x81 | .mmaF8F4x _ => 0x82 | .mmaF4xF4x _ => 0x83 | .mmaI8I8 _ => 0x84
  | .mmaI4xI8 _ => 0x85 | .mmaI8I4x _ => 0x86 | .mmaI4xI4x _ => 0x87 | .mmaBf16Bf16 _ => 0x88 | .mmaF16F16 _ => 0x89
  | .drainRaw _ => 0x90 | .drainAct _ => 0x91 | .drainGate _ => 0x92 | .drainDact _ => 0x93 | .drainDgate _ => 0x94
  | .qzBlk _ => 0xA0 | .qzSheet _ => 0xA1 | .rowfwdNorm _ => 0xB0 | .rowfwdSmax _ => 0xB1 | .rowfwdSmerge _ => 0xB2
  | .rowbwdNorm _ => 0xB3 | .rowbwdSmax _ => 0xB4 | .vEw _ => 0xC0 | .vRed _ => 0xC1 | .vGather _ => 0xC2 | .vScatter _ => 0xC3
  | .rsendB8 _ => 0xD0 | .rsendBf16 _ => 0xD1 | .rrecv _ => 0xD2
  | _ => 0

end Sys2Proof.Machine
end

