-- ==== Sys2Proof/WellFormed.lean ====
section
/-! DEFINITION. Which commands are well formed: what an operand must satisfy for the outside world, a sequencer or a
register access to be able to give the command. -/

namespace Sys2Proof

/-- The KIND field of format Y, bits 39:38 (R176, R196), of a fence command. -/
def fenceKindOf (i : Issue) : Nat := i.f.toNat / 2 ^ 38 % 4

/-- An opcode that R197 lists. -/
def opcodeListed (o : Nat) : Bool :=
  [(0x00, 0x03), (0x10, 0x1C), (0x20, 0x28), (0x30, 0x36), (0x40, 0x46), (0x50, 0x52), (0x60, 0x65), (0x70, 0x73), (0x80, 0x89),
   (0x90, 0x94), (0xA0, 0xA1), (0xB0, 0xB4), (0xC0, 0xC3), (0xD0, 0xD2)].any (fun r => r.1 ≤ o && o ≤ r.2)

/-- A packet carries 0 to 64 payload words (R296). -/
def Packet.wf (p : Packet) : Bool := p.payload.length ≤ 64

/-- A flit has at most 27 payload slots (R293). -/
def Flit.wf (f : Flit) : Bool := f.words.length ≤ 27

/-- A frame has a 16-byte header and at most 4096 payload bytes (R412). -/
def Frame.wf (f : Frame) : Bool := f.hdr.length == 16 && f.payload.length ≤ 4096

/-- A register access has the width of a register: 4 or 8 bytes (R10). -/
def widthOk (w : Nat) : Bool := w == 4 || w == 8

/-- The parts of a command fit together. -/
def Instr.wf : Instr → Bool
  | .nop _ opc => opc == 0 || !opcodeListed opc.toNat
  | .fenceS i => fenceKindOf i == 0 || fenceKindOf i == 3
  | .fenceC i => fenceKindOf i == 1
  | .fenceG i => fenceKindOf i == 2
  | .registerWrite _ _ width _ => widthOk width
  | .flitReceive _ flit => flit.wf
  | .energySample x => x.doms.length == 50 && x.mems.length == 8
  | .helloReceive f => f.wf
  | .cmdFrameReceive f => f.wf
  | .ctrlFrameReceive f => f.wf
  | .dram failed => failed.all (· < 256)
  | .smbWriteRegister width _ _ => widthOk width
  | _ => true

end Sys2Proof
end

