-- ==== Sys2Proof/Certificates/Slice0/Obligations.lean ====
section
/-! DEFINITION. The statements for the provers, with the tables and shapes they are written in. -/

namespace Sys2Proof.Statements

open Sys2Proof Sys2Proof.Machine

/-! ### Tables of R202 -/

/-- Instructions of format R and the value each gives, over the integers and then narrowed to 64 bits. -/
def scalarTable : List ((Issue → Instr) × (Word → Word → Word)) :=
  [(.add, fun a b => BitVec.ofInt 64 (a.toInt + b.toInt)), (.sub, fun a b => BitVec.ofInt 64 (a.toInt - b.toInt)),
   (.mul, fun a b => BitVec.ofNat 64 (a.toNat * b.toNat)), (.and, fun a b => BitVec.ofNat 64 (a.toNat &&& b.toNat)),
   (.or, fun a b => BitVec.ofNat 64 (a.toNat ||| b.toNat)), (.xor, fun a b => BitVec.ofNat 64 (a.toNat ^^^ b.toNat)),
   (.shl, fun a b => BitVec.ofNat 64 (a.toNat * 2 ^ (b.toNat % 64))), (.shr, fun a b => BitVec.ofNat 64 (a.toNat / 2 ^ (b.toNat % 64))),
   (.sra, fun a b => BitVec.ofInt 64 (a.toInt / 2 ^ (b.toNat % 64))),
   (.min, fun a b => if a.toInt ≤ b.toInt then a else b), (.max, fun a b => if a.toInt ≤ b.toInt then b else a),
   (.minu, fun a b => if a.toNat ≤ b.toNat then a else b), (.maxu, fun a b => if a.toNat ≤ b.toNat then b else a)]

/-- Instructions of format I with a source register, the reserved bits of their immediate and the value each gives. -/
def immediateTable : List ((Issue → Instr) × Bool × (Word → BitVec 32 → Word)) :=
  [(.addi, false, fun a n => BitVec.ofInt 64 (a.toInt + n.toInt)), (.andi, false, fun a n => a &&& BitVec.ofInt 64 n.toInt),
   (.ori, false, fun a n => a ||| BitVec.ofInt 64 n.toInt), (.xori, false, fun a n => a ^^^ BitVec.ofInt 64 n.toInt),
   (.shli, true, fun a n => BitVec.ofNat 64 (a.toNat * 2 ^ n.toNat)), (.shri, true, fun a n => BitVec.ofNat 64 (a.toNat / 2 ^ n.toNat)),
   (.srai, true, fun a n => BitVec.ofInt 64 (a.toInt / 2 ^ n.toNat))]

/-- The condition codes of cmp and cmpi. -/
def condition (cc : Nat) (a b : Word) : Bool :=
  match cc with
  | 0 => decide (a = b)
  | 1 => decide (a ≠ b)
  | 2 => decide (a.toInt < b.toInt)
  | 3 => decide (b.toInt ≤ a.toInt)
  | 4 => decide (a.toNat < b.toNat)
  | _ => decide (b.toNat ≤ a.toNat)

/-- The logic codes of pop. -/
def logic (cc : Nat) (a b : Bool) : Bool :=
  match cc with
  | 0 => a && b
  | 1 => a || b
  | 2 => xor a b
  | _ => a && !b

/-- The issuing stream's s[RD] takes a value (nothing for s0), the other scalar registers and every address and predicate register stay. -/
def WritesScalar (s t : State) (i : Issue) (v : Word) : Prop :=
  StreamOnly s t i ∧
  (∀ n, sreg (strOf t i) n = if n = fRD i ∧ n ≠ 0 then v else sreg (strOf s i) n) ∧
  (∀ n, areg (strOf t i) n = areg (strOf s i) n) ∧ (∀ n, preg (strOf t i) n = preg (strOf s i) n)

/-- The same of p[RD]; p0 stays 1. -/
def WritesPredicate (s t : State) (i : Issue) (v : Bool) : Prop :=
  StreamOnly s t i ∧
  (∀ n, preg (strOf t i) n = if n = fRD i ∧ n ≠ 0 then v else preg (strOf s i) n) ∧
  (∀ n, sreg (strOf t i) n = sreg (strOf s i) n) ∧ (∀ n, areg (strOf t i) n = areg (strOf s i) n)

/-- The same of a[RD]. -/
def WritesAddress (s t : State) (i : Issue) (v : Word) : Prop :=
  StreamOnly s t i ∧
  (∀ n, areg (strOf t i) n = if n = fRD i then v else areg (strOf s i) n) ∧
  (∀ n, sreg (strOf t i) n = sreg (strOf s i) n) ∧ (∀ n, preg (strOf t i) n = preg (strOf s i) n)

/-! ### Traps, loads and stores -/

/-- Both streams of a cluster have stopped: they issue nothing more and wait for nothing; no operation is in flight and no token is reserved
(R185). -/
def ClusterStopped (t : State) (c : Nat) : Prop :=
  (∀ st, (stream t c st).running = false ∧ (stream t c st).lastCycle = false ∧ (stream t c st).block = none ∧
    (stream t c st).stalled = none ∧ (stream t c st).load = none) ∧
  (clu t c).inflight = [] ∧ (clu t c).tiles = [] ∧ ∀ k, k < 256 → tokPending t c k = 0

/-- The trapping stream has stopped; the other one has the rest of the cycle for its instruction or its block, if it ran (R185, R193). -/
def TrapStops (s t : State) (c : Nat) (st : Stream) : Prop :=
  stream t c st = { stream s c st with running := false, lastCycle := false, block := none, stalled := none, load := none } ∧
  (let x := stream s c (otherStream st)
   stream t c (otherStream st) = { x with running := false, lastCycle := (x.running && !x.ended), stalled := none, load := none }) ∧
  (clu t c).inflight = [] ∧ (clu t c).tiles = [] ∧ ∀ k, k < 256 → tokPending t c k = 0

/-- The trap registers hold a trap: cause, stream, program counter and information (R184). -/
def TrapRecorded (t : State) (c : Nat) (st : Stream) (pc cause info : Nat) : Prop :=
  fget t F.SEQ_TRAP_CAUSE.VALID 0 c = 1 ∧ fget t F.SEQ_TRAP_CAUSE.DEFERRED 0 c = 0 ∧
  fget t F.SEQ_TRAP_CAUSE.STREAM 0 c = (if st = .B then 1 else 0) ∧ fget t F.SEQ_TRAP_CAUSE.CAUSE 0 c = cause ∧
  fget t F.SEQ_TRAP_PC.PC 0 c = pc ∧ reg t .SEQ_TRAP_INFO 0 c = BitVec.ofNat 64 info

/-- The first trap of a run is recorded; the cluster is stopped, the stores and the other clusters are untouched, and a free private mailbox
holds the TRAP notice (R184, R185). -/
def TrapTaken (s t : State) (c : Nat) (st : Stream) (pc cause info : Nat) : Prop :=
  TrapRecorded t c st pc cause info ∧ fget t F.SEQ_STAT.STATE 0 c = 2 ∧ TrapStops s t c st ∧ SameStores s t ∧ SameClusters c s t ∧
  (∀ p, part t p = part s p) ∧
  (mbxFull s c = false → mbxClosed s c = false → (clu s c).notices = [] → mbxFull t c = true ∧
    reg t .MBX_DATA c = noticeWord 2 (clu s c).noticeSeq)

/-- A load waits for its data: register, address and size are noted, and nothing else changes (R198). -/
def WaitsForLoad (s t : State) (i : Issue) (a n : Nat) (desc : Bool) : Prop :=
  t = { s with clusters := t.clusters } ∧ SameClusters i.cl s t ∧
  clu t i.cl = setStr (clu s i.cl) i.st { strOf s i with load := some ⟨fRD i, a, n, desc⟩ }

/-- The data of a load has come: a scalar register (nothing for s0) or a descriptor register takes a value, and the stream goes on. Nothing else
changes from the state v that the read left, but what R179 keeps of words that it corrected. -/
def LoadDelivered (v w : State) (c : Nat) (st : Stream) (r : Nat) (desc : Bool) (x : Nat) : Prop :=
  w = { v with regs := w.regs, clusters := w.clusters, unseen := w.unseen } ∧ SameRegs [pcAddr c st] v w ∧ SameClusters c v w ∧
  SameOtherStream v w c st ∧ pcOf w c st = (pcOf v c st + 8) % 2 ^ 48 ∧ (stream w c st).load = none ∧
  (desc = false → (clu w c).td = (clu v c).td ∧
    (∀ n, sreg (stream w c st) n = if n = r ∧ n ≠ 0 then BitVec.ofNat 64 x else sreg (stream v c st) n)) ∧
  (desc = true → (stream w c st).sreg = (stream v c st).sreg ∧
    (∀ n, tdReg (clu w c) n = if n = r then BitVec.ofNat 512 x else tdReg (clu v c) n)) ∧
  (∀ n, areg (stream w c st) n = areg (stream v c st) n) ∧ (∀ n, preg (stream w c st) n = preg (stream v c st) n)

/-- n bytes of a number stand at a, little-endian, and every other byte is as before. Nothing else changes but the program counter, which goes
on, the errors of the words written, and which bytes other clusters need not see yet (R179). -/
def Stores (s t : State) (i : Issue) (a n v : Nat) : Prop :=
  t = { s with regs := t.regs, mem := t.mem, lineBytes := t.lineBytes, syn := t.syn, lineSyn := t.lineSyn, tags := t.tags,
               unseen := t.unseen } ∧
  SameRegs [pcAddr i.cl i.st] s t ∧ pcNow t i = (pcNow s i + 8) % 2 ^ 48 ∧
  (∀ x, x < 0x1000000000000 → rdByte t x = if a ≤ x ∧ x < a + n then BitVec.ofNat 8 (v / 256 ^ (x - a)) else rdByte s x) ∧
  (∀ x, x < 0x1000000000000 → wordAddr x + 8 ≤ a ∨ a + n ≤ wordAddr x → synAt t x = synAt s x) ∧
  (∀ x, x < 0x1000000000000 → a ≤ wordAddr x → wordAddr x + 8 ≤ a + n → synAt t x = 0)

/-- The fields of a descriptor that td.set writes, by FIELD code (R204): their bits. -/
def descriptorFields : List (Nat × Nat × Nat) :=
  [(0, 63, 60), (1, 59, 58), (2, 57, 57), (3, 56, 56), (4, 55, 54), (5, 53, 48), (6, 47, 0), (7, 95, 64), (8, 127, 96), (9, 159, 128),
   (10, 191, 160), (11, 239, 192), (12, 303, 256), (13, 367, 320), (14, 443, 432), (15, 431, 384), (16, 479, 448)]

/-! ### Control, synchronisation and the issue of tensor operations -/

/-- Nothing changed but registers at the listed addresses and the program counter, which stands at the next word. -/
def Advances (l : List Nat) (s t : State) (i : Issue) : Prop :=
  t = { s with regs := t.regs } ∧ SameRegs (pcAddr i.cl i.st :: l) s t ∧ pcNow t i = (pcNow s i + 8) % 2 ^ 48

/-- The stream blocks at its instruction: nothing changed but its block and SEQ_STAT. -/
def Blocks (s t : State) (i : Issue) (b : Block) : Prop :=
  t = { s with regs := t.regs, clusters := t.clusters } ∧ SameRegs [regAddr .SEQ_STAT 0 i.cl] s t ∧ SameClusters i.cl s t ∧
  SameOtherStream s t i.cl i.st ∧ (strOf t i).block = some b ∧ pcNow t i = pcNow s i

/-- The stream goes on after its block. -/
def Unblocked (s t : State) (c : Nat) (st : Stream) : Prop :=
  (stream t c st).block = none ∧ pcOf t c st = (pcOf s c st + 8) % 2 ^ 48 ∧ SameOtherStream s t c st ∧ SameClusters c s t ∧
  SameStores s t

/-- A tensor operation entered the units: its record stands last among the operations in flight with the opcode, stream, layer, fields and
descriptors it issued with, its token is reserved, the stream's count of R165 rose, and the stream goes on. -/
def OperationIssued (s t : State) (i : Issue) (op : TOp) : Prop :=
  (∃ r, (clu t i.cl).inflight = (clu s i.cl).inflight ++ [r] ∧ r.op = op ∧ r.st = i.st ∧ r.f = i.f ∧ r.pc = pcNow s i ∧
    r.layer = fget s (layerFld i.st) 0 i.cl ∧ r.begun = false ∧ ∀ d ∈ r.descs, ∃ n, n < 64 ∧ d = tdReg (clu s i.cl) n) ∧
  tokPending t i.cl (fTok i) = tokPending s i.cl (fTok i) + 1 ∧ tokCount t i.cl (fTok i) = tokCount s i.cl (fTok i) ∧
  fget t (inflFld i.st) 0 i.cl = fget s (inflFld i.st) 0 i.cl + 1 ∧ pcNow t i = (pcNow s i + 8) % 2 ^ 48 ∧
  SameStores s t ∧ SameClusters i.cl s t ∧ (∀ st, stream t i.cl st = stream s i.cl st) ∧ (clu t i.cl).td = (clu s i.cl).td

/-- The tensor operations that only enter their unit at issue, with the operation each puts there and its reserved fields. -/
def tensorTable : List ((Issue → Instr) × TOp × (Issue → Prop)) :=
  [(.ldt, .ldt, fun i => lLegal i false = true), (.ldtTr, .ldtTr, fun i => lLegal i false = true), (.stt, .stt, fun i => lLegal i false = true), (.dma, .dma, fun i => lLegal i true = true),
   (.mmaF8F8, .mma .e4m3 .e4m3 false false, fun i => eLegal i = true), (.mmaF4xF8, .mma .e2m1 .e4m3 true false, fun i => eLegal i = true),
   (.mmaF8F4x, .mma .e4m3 .e2m1 false true, fun i => eLegal i = true), (.mmaF4xF4x, .mma .e2m1 .e2m1 true true, fun i => eLegal i = true),
   (.mmaI8I8, .mma .int8 .int8 false false, fun i => eLegal i = true), (.mmaI4xI8, .mma .int4 .int8 true false, fun i => eLegal i = true),
   (.mmaI8I4x, .mma .int8 .int4 false true, fun i => eLegal i = true), (.mmaI4xI4x, .mma .int4 .int4 true true, fun i => eLegal i = true),
   (.mmaBf16Bf16, .mma .bf16 .bf16 false false, fun i => eLegal i = true), (.mmaF16F16, .mma .fp16 .fp16 false false, fun i => eLegal i = true)] ++
  [(.drainRaw, .drainRaw, fun i => fieldOf i 8 8 = 0 ∧ fieldOf i 33 16 = 0), (.drainAct, .drainAct, fun i => fieldOf i 8 8 = 0 ∧ fieldOf i 27 16 = 0),
   (.drainGate, .drainGate, fun i => fieldOf i 8 8 = 0 ∧ fieldOf i 17 16 = 0),
   (.drainDact, .drainDact, fun i => fieldOf i 8 8 = 0 ∧ fieldOf i 21 16 = 0), (.drainDgate, .drainDgate, fun i => fieldOf i 8 8 = 0),
   (.qzBlk, .qzBlk, fun i => qLegal i = true), (.qzSheet, .qzSheet, fun i => qLegal i = true)] ++
  [(.rowfwdNorm, .rowfwdNorm, fun i => fieldOf i 27 22 ≤ 31 ∧ fieldOf i 8 8 = 0),
   (.rowfwdSmax, .rowfwdSmax, fun i => fieldOf i 39 34 ≤ 31 ∧ fieldOf i 33 28 ≤ 31 ∧ fieldOf i 14 8 = 0),
   (.rowfwdSmerge, .rowfwdSmerge, fun i => fieldOf i 8 8 = 0), (.rowbwdNorm, .rowbwdNorm, fun i => fieldOf i 8 8 = 0),
   (.rowbwdSmax, .rowbwdSmax, fun i => fieldOf i 33 28 ≤ 31 ∧ fieldOf i 27 22 ≤ 31 ∧ fieldOf i 9 8 = 0),
   (.vEw, .vEw, fun i => vFN i ≤ 11 ∧ fieldOf i 21 16 ≤ 31 ∧ fieldOf i 13 8 = 0 ∧ (vBS i = true → fieldOf i 39 34 = 0)),
   (.vRed, .vRed, fun i => vFN i ≤ 2 ∧ fieldOf i 39 28 = 0 ∧ fieldOf i 22 8 = 0), (.vGather, .vGather, fun i => fieldOf i 33 8 = 0),
   (.vScatter, .vScatter, fun i => fieldOf i 33 23 = 0 ∧ fieldOf i 21 8 = 0)]

/-! ### Units and runs -/

/-- The stores as a unit of cluster c meets them, with free bytes where another cluster wrote and the write need not be visible yet (R179). -/
def seenBy (s : State) (c : Nat) : State := if hiddenFrom s c = [] then s else viewOf s (hiddenFrom s c)

/-- Operation r of cluster c has completed: it is no longer in flight, its token's COUNT rose by 1 and PENDING fell by 1, every other token,
the streams and the other clusters are as before. -/
def Completes (s t : State) (c : Nat) (r : OpRec) : Prop :=
  let k := bitsOf r.f 7 0
  (clu t c).inflight = (clu s c).inflight.filter (fun o => o.id ≠ r.id) ∧
  tokCount t c k = (tokCount s c k + 1) % 65536 ∧ tokPending t c k = tokPending s c k - 1 ∧
  (∀ j, j < 256 → j ≠ k → reg t .SEQ_TOK j c = reg s .SEQ_TOK j c) ∧
  (∀ st, stream t c st = stream s c st) ∧ SameClusters c s t

/-- The commands by which the slotted units of a cluster complete an operation, with the number of the unit. -/
def unitCommands (cl : ClusterIx) : List (Nat × Instr) :=
  [(0, .passComplete cl 0), (2, .passComplete cl 1), (4, .passComplete cl 2), (6, .passComplete cl 3), (1, .drainComplete cl 0),
   (3, .drainComplete cl 1), (5, .drainComplete cl 2), (7, .drainComplete cl 3), (8, .quantiserComplete cl),
   (9, .vectorOpComplete cl), (10, .rowOpComplete cl)]

/-- No operand of the operation stands in the stash, and it writes no statistics record. -/
def NoStash (c : Nat) (r : OpRec) : Prop :=
  (∀ n x, opTens c r n = some x → x.tag = 0) ∧ statTags r = [] ∧ recordTag r = 0

/-! ### The hub -/

/-- Nothing changed in the stores but, it may be, the records of the hub's boxes (R424). -/
def SameButRecords (s t : State) : Prop :=
  ∀ a, a < 0x1000000000000 → (a < 0x7E0000E00000 ∨ 0x7E0000E20000 ≤ a) →
    rdByte t a = rdByte s a ∧ synAt t a = synAt s a ∧ lineSynAt t (wordAddr a) = lineSynAt s (wordAddr a)

/-- No command, answer or flip waits for a core to run (R27). -/
def NothingWaits (s : State) : Prop :=
  (∀ i, (sess s i).cmds = []) ∧ ∀ p, (part s p).answers = [] ∧ (part s p).commands = [] ∧ (part s p).flipWaits = false

/-- Core n is held in reset and counted; its mailboxes are empty and closed (R26, R425). -/
def CoreReset (s t : State) (n : CoreIx) : Prop :=
  fget t F.HUB_CORE_STAT.STATE n = 1 ∧ fget t F.HUB_CORE_STAT.TOTAL n = min (fget s F.HUB_CORE_STAT.TOTAL n + 1) 65535 ∧
  (∀ m, m < 4 → m ≠ n.val → fget t F.HUB_CORE_STAT.STATE m = fget s F.HUB_CORE_STAT.STATE m) ∧
  (∀ b ∈ boxesOf n, mbxFull t b = false ∧ mbxClosed t b = true) ∧ SameButRecords s t

/-- One entry is offered to the Field Book (R277): it waits there or counts as lost. -/
def Logged (s t : State) : Prop := t.fbOffered = s.fbOffered + 1

/-- Registers that a Meridian WRITE and a running core write without further effect, each with one field. -/
def plainFields : List Fld := [F.HUB_RED_TABLE.ADDR, F.HUB_WBE_LIST.ADDR, F.HUB_TRB_CFG.SPIKE_POL, F.HUB_TRB_CFG.WARM]

/-! ### Updates and gathers -/

/-- R245 for one element: gradient g, master w, moments m1 and m2; q: the parameters lr, b1, b2, eps, wd, bc1, bc2. -/
def moved (opt : Nat) (g w m1 m2 : Machine.Num) (q : Nat → Machine.Num) : Machine.Num × Machine.Num × Machine.Num :=
  let a := if opt = 0 then f32Add (f32Mul (q 1) m1) (f32Mul (f32Sub (.fin false 1 0) (q 1)) g) else f32Add (f32Mul (q 1) m1) g
  let b := f32Add (f32Mul (q 2) m2) (f32Mul (f32Sub (.fin false 1 0) (q 2)) (f32Mul g g))
  let u := if opt = 0 then f32Div (f32Mul a (q 5)) (f32Add (f32Sqrt (f32Mul b (q 6))) (q 3)) else if opt = 1 then a else g
  (f32Sub w (f32Mul (q 0) (f32Add u (f32Mul (q 4) w))), a, b)

/-- An FP32 number in memory. -/
def f32At (s : State) (a : Nat) : Machine.Num := f32Of (BitVec.ofNat 32 (rdNat s a 4))

/-- The first packet that has arrived is q, whole, of a type. -/
def Arrived (s : State) (q : Packet) (rest : List (Packet × Nat)) (type : Nat) : Prop :=
  (∃ n, s.arrived = (q, n) :: rest) ∧ pktType q = type ∧ pktBad q = false

/-- The switch takes packets of local units, behind those it has. -/
def SwitchTakes (s t : State) (l : List Packet) : Prop :=
  ∃ m, t.switch = s.switch ++ m ∧ m.map (·.pkt) = l ∧ ∀ x ∈ m, x.port = 24 ∧ x.whole = true

/-- Packets that a local unit hands to the switch, all to one station. -/
def Sends (s t : State) (dst : Nat) (l : List Packet) : Prop :=
  SwitchTakes s t l ∧ ∀ q ∈ l, pktDst q = dst % 65536 ∧ pktSrc q = station s

/-! ### Links -/

/-- Port n enters a state now; every other port is as it was, and so are the stores and the clusters. -/
def PortEnters (s t : State) (n : PortIx) (st : Nat) : Prop :=
  pState t n = st ∧ (port t n).since = s.tick ∧ (∀ m, m < 24 → m ≠ n.val → port t m = port s m ∧ pState t m = pState s m) ∧
  SameStores s t ∧ t.clusters = s.clusters

/-- A port leaves for a state now (R295): what it had is gone, no packet that came by it waits in the switch, the other ports keep their states. -/
def PortLeaves (s t : State) (n : PortIx) (st : Nat) : Prop :=
  pState t n = st ∧ (port t n).since = s.tick ∧ (port t n).replay = [] ∧ (port t n).txWords = [] ∧ (∀ x ∈ t.switch, x.port ≠ n.val) ∧
  (∀ m, m < 24 → m ≠ n.val → pState t m = pState s m) ∧ SameStores s t ∧ t.clusters = s.clusters

/-- The whole packet that the words of a flit spell: two header words and LEN payload words. -/
def OnePacket (f : Flit) (q : Packet) : Prop :=
  f.words = q.h0 :: q.h1 :: q.payload ∧ q.trunc = false ∧ bitsOf (deliveredData q.h0) 24 17 = q.payload.length

/-- A packet that this station sends itself and nothing but it. -/
def SendsOne (s t : State) (dst type : Nat) (q : Packet) : Prop :=
  SwitchTakes s t [q] ∧ pktDst q = dst % 65536 ∧ pktSrc q = station s ∧ pktType q = type

/-- Byte i of payload word k of n is written: bytes that the mask lists in the last word, every byte of the others (R296). -/
def WordByte (q : Packet) (k i : Nat) : Prop :=
  k < q.payload.length ∧ i < 8 ∧ (k + 1 < q.payload.length ∨ natBit (pktW1 q 55 48) i = true)

/-! ### Reduction -/

/-- The value that this station gives element i of wire block b: its contribution, added to the decoded incoming value but for the first station
of the shard's order (R318). -/
def reduced (s : State) (e : BucketEntry) (x : Bucket) (b i : Nat) : Machine.Num :=
  let c := (contribution s (tensOf x.sendCl x.send) (256 * b + i)).v
  if e.pos = (shardOf e b + 1) % e.p then c
  else f32Add (wireDecode x.in16 (incomingCode e x b i).1 (wireExp (ngetD 0x7F x.working b))) c

/-- A packet of the bucket's present run has arrived first: its bucket, its place in the table, and the rest of what has arrived. -/
structure BucketPacket (s : State) (q : Packet) (rest : List (Packet × Nat)) (type p : Nat) (e : BucketEntry) (x : Bucket) : Prop where
  clocks : isFrozen s = false ∧ isStopped s = false
  arrived : Arrived s q rest type
  mine : bucketOf s q = some (p, e, x)
  run : pktRun q = x.run

/-- The bucket of a tag is x, and every other bucket, partition and cluster, is as before. -/
def BucketIs (s t : State) (p tag : Nat) (x : Bucket) : Prop :=
  nget (part t p).buckets tag = some x ∧ (∀ k, k ≠ tag → nget (part t p).buckets k = nget (part s p).buckets k) ∧ SameParts p s t ∧
  t.clusters = s.clusters

/-- The bytes by block that a table packet passes on, each of them the result of a function of block and byte. -/
def PassesTable (s t : State) (dst blocks : Nat) (q : Packet) (f : Nat → Nat → Nat) : Prop :=
  ∃ r, SendsOne s t dst 5 r ∧ pktW1 r 63 52 = pktW1 q 63 52 ∧ tableBytes r blocks = (tableBytes q blocks).map (fun y => (y.1, f y.1 y.2))

/-- The table of a packet fits one packet toward a station. -/
def OneTable (s : State) (dst blocks : Nat) (q : Packet) : Prop :=
  tableBytes q blocks ≠ [] ∧ (tableBytes q blocks).length ≤ 8 * maxPayload s dst

/-! ### Cairn -/

/-- A command of the control node that Cairn refuses (R378). -/
def CommandRejected (s t : State) (p : PartIx) : Prop :=
  fget t F.CRN_EVT.CMD_REJECT p = 1 ∧ Logged s t ∧ SameStores s t ∧ t.parts = s.parts ∧ fget t F.CRN_STAT.STATE p = fget s F.CRN_STAT.STATE p ∧
  fget t F.CRN_EPOCH.EPOCH p = fget s F.CRN_EPOCH.EPOCH p

/-! ### Meridian -/

/-- The one command of a session stands at its front and may start: HC0 runs, and no answer to an earlier command waits. -/
structure AtFront (s : State) (i : SessIx) (op : Nat) (c : MerCmd) : Prop where
  clocks : isFrozen s = false
  core : coreRuns s 0 = true
  only : (sess s i).cmds = [c]
  isOp : c.op = op
  alive : (sess s i).dead = false
  free : mayStart s i = true

/-- The command ends: its tag is shown, and its RSP frames, all with one status, wait behind the frames of the session, with a payload. -/
def Answers (s t : State) (i : SessIx) (c : MerCmd) (status : Nat) (payload : List Byte) : Prop :=
  (sess t i).cmds = [] ∧ (sess t i).started = false ∧ fget t F.MBX_SESS_TAG.TAG i = c.tag % 2 ^ 32 ∧
  ∃ l, (sess t i).outgoing = (sess s i).outgoing ++ l ∧ l ≠ [] ∧ l.flatMap (·.payload) = payload ∧
    ∀ f ∈ l, frType f = 3 ∧ frOp f = c.op ∧ frTag f = c.tag % 2 ^ 32 ∧ bNat f.hdr 10 2 = status

/-! ### Resets and start-up -/

/-- A cold reset begins (R431): phase RAILS, LAST_RESET names what started it, every other register and store is as after reset; only the
flash, the waiting commands and the model's own count of free values are as before. -/
def ColdStarts (s t : State) (last : Nat) : Prop :=
  t = { State.reset with pending := s.pending, flash := s.flash, free := s.free, regs := t.regs,
                         boot := { State.reset.boot with since := if last = 0 then 0 else 12500000 } } ∧
  SameRegs [regAddr .HUB_BOOT_STAT 0 0] State.reset t ∧ fget t F.HUB_BOOT_STAT.PHASE = 0 ∧ fget t F.HUB_BOOT_STAT.READY = 0 ∧
  fget t F.HUB_BOOT_STAT.STOPPED = 0 ∧ fget t F.HUB_BOOT_STAT.LAST_RESET = last

/-- A reset request is accepted: logged, and due at the next tick boundary, a cold one before a warm one (R432, R456). -/
def ResetDue (s t : State) (kind : Nat) : Prop :=
  t = { s with regs := t.regs, fresh := t.fresh, fb := t.fb, fbOffered := t.fbOffered, boot := { s.boot with due := max s.boot.due kind } } ∧
  fget t F.HUB_BOOT_STAT.RESET_REJ = 0 ∧ Logged s t ∧ SameRegs [regAddr .HUB_BOOT_STAT 0 0, regAddr .FBK_LOST 0 0] s t

/-- The clocks stand; nothing is left of the stores, the clusters and the partitions but the flash (R473, R484). -/
def PowerLost (s t : State) : Prop :=
  isFrozen t = true ∧ t.freeze.lost = true ∧ t.mem = [] ∧ t.clusters = [] ∧ t.parts = [] ∧ t.flash = s.flash ∧ t.pending = s.pending

/-- Registers with settings that R499 keeps. -/
def settingsKept : List RegName :=
  [.HUB_PART, .HUB_WIN, .HUB_WBE_LIST, .HUB_RED_TABLE, .HUB_TRB_CFG, .HUB_STH_PLAN, .HUB_RCP_BASE, .HUB_SCL_BASE, .HUB_STH_SPILLBASE,
   .HUB_STH_SPILLSZ, .SEQ_ILV_CTL, .SEQ_ILV_BASE, .SEQ_STH_LIMIT, .SEQ_WAIT_LIMIT, .SEQ_MX_CTL, .HUB_WDT_CTL, .LNK_STATION, .LNK_E2E_TMO,
   .LNK_PCFG, .LNK_BARCFG, .LNK_BAR_MARGIN, .LNK_VBARCFG, .LNK_RTE, .LNK_RED_TMO, .TCK_CTL, .TCK_PERIOD, .MBX_MER_CFG, .MBX_MER_MBXTMO,
   .ECC_SCR_CTL, .ECC_SCR_ADDR, .ECC_SCR_LEN, .ECC_SCR_REC, .CRN_EPOCH, .CRN_ARRIVED]

/-- Start-up is in phase k now. -/
def InPhaseNow (t : State) (k : Nat) : Prop :=
  fget t F.HUB_BOOT_STAT.PHASE = k ∧ t.boot.since = t.tick ∧ (isStopped t = false → fget t F.HUB_BOOT_STAT.HELD = 0)

/-- Limit of a phase in ticks of 8 ns (R433). -/
def bootLimit (k : Nat) (warm : Bool) : Nat :=
  if warm = true ∧ k = 8 then 625000000
  else [3125000, 1250000, 250000000, 375000000, 12500000, 125000, 25000, 6250000, 7500000000, 1250000].getD k 0

/-- extend(k, d) of the measurement register (R447). -/
def measured (m : List Byte) (k : Nat) (d : List Byte) : List Byte := sha3 (m ++ leBytes 1 k ++ d)

/-- A firmware image runs: its code stands at the start of hub SRAM, its version and SVN are shown, start-up goes on to the phase
that follows FW_LOAD (R433, R437). -/
def FirmwareStarts (s t : State) (slot : Nat) (i : FwImage) : Prop :=
  fget t F.HUB_BOOT_STAT.PHASE = (if s.boot.warm then 6 else 3) ∧ t.boot.fwRuns = true ∧ t.boot.fwSlot = slot ∧ t.boot.fwDigest = sha3 i.code ∧ t.boot.fwEntry = fwEntries i ∧
  fget t F.HUB_FW_VER.VERSION = fwVersion i ∧ fget t F.HUB_FW_SVN.SVN = fwSvn i ∧ rdBytes t 0x7E0000000000 i.code.length = i.code

/-- A firmware command is refused: its cause is shown and logged, the flash stays (R451). -/
def FirmwareRejected (s t : State) (cause : Nat) : Prop :=
  fget t F.HUB_FW_STAT.STATE = 3 ∧ fget t F.HUB_FW_STAT.CAUSE = cause ∧ s.fbOffered < t.fbOffered ∧ t.flash = s.flash ∧ SameStores s t

/-- The P40 is frozen now (R472, R474, R278): the record names cause and session, the Field Book is frozen at its last entry, every session is
without commands, and the stores, clusters and partitions are as they were. -/
def FreezesNow (s t : State) (cause session : Nat) : Prop :=
  isFrozen t = true ∧ t.freeze.lost = false ∧ bNat t.freeze.record 0 4 = 0x4B525A46 ∧ bNat t.freeze.record 6 1 = cause ∧
  bNat t.freeze.record 7 1 = session ∧ bNat t.freeze.record 8 8 = tickNow s ∧ t.freeze.record.length = 256 ∧
  fget t F.FBK_STAT.FROZEN = 1 ∧ fget t F.FBK_STAT.FREEZE_IDX = (fget s F.FBK_COUNT.COUNT + 8191) % 8192 ∧ fget t F.HUB_ALERT.FROZEN = 1 ∧
  (∀ i, i < 16 → (sess t i).cmds = [] ∧ (sess t i).outgoing = []) ∧ SameStores s t ∧ t.clusters = s.clusters ∧ t.parts = s.parts ∧
  t.power = s.power ∧ t.tick = s.tick

/-! ### The whole machine -/

/-- The commands by which a frozen P40 can lose its state: resets, the input monitor, 125 °C (R473). -/
def endsFreeze : Instr → Bool
  | .resetPin | .hubResetCold _ _ | .hubResetWarm _ _ | .registerWrite _ _ _ _ | .write _ | .smbWriteRegister _ _ _ => true
  | .junction125cPowerOff | .inputUndervoltage _ | .inputOvervoltage _ | .inputPowerGood _ => true
  | _ => false

/-- Nothing ends with the present tick: no core met a bad word, no cluster is in the rest of a cycle or in a start ramp, and Cairn neither stages
nor restores. -/
def QuietTick (s : State) : Prop :=
  (∀ n, n < 4 → (Machine.core s n).met = none) ∧
  (∀ c, c < 32 → (∀ st, (stream s c st).lastCycle = false) ∧ (clu s c).ramp = []) ∧
  ∀ p, p < 8 → fget s F.CRN_CKSTAT.STAGE p ≠ 1 ∧ restoring s p = false

/-- A frozen state stays (R472): only sessions and registers of the Meridian port, the test access port, SMBus and the input monitor moved. -/
def StillFrozen (s t : State) : Prop :=
  t = { s with regs := t.regs, fresh := t.fresh, sess := t.sess, tap := t.tap, smb := t.smb, free := t.free,
               boot := { s.boot with lowSamples := t.boot.lowSamples, highSamples := t.boot.highSamples, goodSince := t.boot.goodSince } } ∧
  ∀ r idx inst, (regPlace r).block ≠ .MBX → regAt (regAddr r idx inst) = some (r, idx, inst) → reg t r idx inst = reg s r idx inst

/-- The state is gone (R431, R473). -/
def StateGone (s t : State) : Prop :=
  t.mem = [] ∧ t.syn = [] ∧ t.clusters = [] ∧ t.parts = [] ∧ t.sess = [] ∧ t.switch = [] ∧ t.flash = s.flash

end Sys2Proof.Statements

section Issue

open Sys2Proof Sys2Proof.Machine Sys2Proof.Statements

/-- A command at the front of the queue is what the step runs, with the queue's rest. -/
def Obligations.StepRunsFront : Prop :=
  ∀ (c : Instr) (rest : List Instr) (s : State), step { s with pending := c :: rest } = exec c { s with pending := rest }

/-- R202: add to maxu, addi to srai, li and lih write their result to s[RD], cmp, cmpi and pop to p[RD], mov.a, adda and addai to a[RD], mov.s to
s[RD]; s0 and p0 take nothing; nothing else changes but the program counter, which goes on. Reserved codes and shift bits are ILLEGAL. -/
def Obligations.ScalarInstructionsCompute : Prop :=
  (∀ e ∈ scalarTable, ∀ (i : Issue) (s u : State), Executes s u i → fRD i ≤ 31 → fRA i ≤ 31 → fRB i ≤ 31 → fieldOf i 33 0 = 0 →
    ∃ t, exec (e.1 i) s = .next t ∧ WritesScalar u t i (e.2 (sreg (strOf u i) (fRA i)) (sreg (strOf u i) (fRB i)))) ∧
  (∀ e ∈ immediateTable, ∀ (i : Issue) (s u : State), Executes s u i → fRD i ≤ 31 → fRA i ≤ 31 → fieldOf i 39 32 = 0 →
    (e.2.1 = true → (fIMM i).toNat < 64) →
    ∃ t, exec (e.1 i) s = .next t ∧ WritesScalar u t i (e.2.2 (sreg (strOf u i) (fRA i)) (fIMM i))) ∧
  (∀ (i : Issue) (s u : State), Executes s u i → fRD i ≤ 31 → fieldOf i 45 32 = 0 →
    (∃ t, exec (.li i) s = .next t ∧ WritesScalar u t i (BitVec.ofInt 64 (fIMM i).toInt)) ∧
    (∃ t, exec (.lih i) s = .next t ∧
      WritesScalar u t i (BitVec.ofNat 64 ((fIMM i).toNat * 2 ^ 32 + (sreg (strOf u i) (fRD i)).toNat % 2 ^ 32)))) ∧
  (∀ (i : Issue) (s u : State), Executes s u i → fRD i ≤ 7 →
    (fRA i ≤ 31 → fRB i ≤ 31 → fCCR i ≤ 5 → fieldOf i 29 0 = 0 →
      ∃ t, exec (.cmp i) s = .next t ∧
        WritesPredicate u t i (condition (fCCR i) (sreg (strOf u i) (fRA i)) (sreg (strOf u i) (fRB i)))) ∧
    (fRA i ≤ 31 → fCCI i ≤ 5 → fieldOf i 35 32 = 0 →
      ∃ t, exec (.cmpi i) s = .next t ∧
        WritesPredicate u t i (condition (fCCI i) (sreg (strOf u i) (fRA i)) (BitVec.ofInt 64 (fIMM i).toInt))) ∧
    (fRA i ≤ 7 → fRB i ≤ 7 → fCCR i ≤ 3 → fieldOf i 29 0 = 0 →
      ∃ t, exec (.pop i) s = .next t ∧
        WritesPredicate u t i (logic (fCCR i) (preg (strOf u i) (fRA i)) (preg (strOf u i) (fRB i))))) ∧
  (∀ (i : Issue) (s u : State), Executes s u i →
    (fRD i ≤ 15 → fRA i ≤ 31 → fieldOf i 39 0 = 0 →
      ∃ t, exec (.movA i) s = .next t ∧ WritesAddress u t i (sreg (strOf u i) (fRA i))) ∧
    (fRD i ≤ 31 → fRA i ≤ 15 → fieldOf i 39 0 = 0 →
      ∃ t, exec (.movS i) s = .next t ∧ WritesScalar u t i (areg (strOf u i) (fRA i))) ∧
    (fRD i ≤ 15 → fRA i ≤ 15 → fRB i ≤ 31 → fieldOf i 33 0 = 0 →
      ∃ t, exec (.adda i) s = .next t ∧
        WritesAddress u t i (BitVec.ofNat 64 ((areg (strOf u i) (fRA i)).toNat + (sreg (strOf u i) (fRB i)).toNat))) ∧
    (fRD i ≤ 15 → fRA i ≤ 15 → fieldOf i 39 32 = 0 →
      ∃ t, exec (.addai i) s = .next t ∧
        WritesAddress u t i (BitVec.ofInt 64 ((areg (strOf u i) (fRA i)).toInt + (fIMM i).toInt)))) ∧
  (∀ (i : Issue) (s u : State), Executes s u i → fget u F.SEQ_TRAP_CAUSE.VALID 0 i.cl = 0 →
    let Illegal := fun (c : Instr) => ∃ t, exec c s = .next t ∧ TrapTaken u t i.cl i.st (pcNow u i) 0x01 (instrWord (opcodeOf c) i)
    (64 ≤ (fIMM i).toNat → Illegal (.shli i) ∧ Illegal (.shri i) ∧ Illegal (.srai i)) ∧
    (6 ≤ fCCR i → Illegal (.cmp i)) ∧ (6 ≤ fCCI i → Illegal (.cmpi i)) ∧ (4 ≤ fCCR i → Illegal (.pop i)))

/-- R194: an instruction whose predicate is off only takes its issue cycle: the program counter goes on and nothing else changes. -/
def Obligations.PredicateOffOnlyAdvances : Prop :=
  ∀ (c : Instr) (i : Issue) (s u : State), issueOf c = some i → Fetches s u i → predicateOn u i = false →
    ∃ t, exec c s = .next t ∧ t = { u with regs := t.regs } ∧ SameRegs [pcAddr i.cl i.st] u t ∧
      pcNow t i = (pcNow u i + 8) % 2 ^ 48

/-- R184, R185, R206, R264: trap records SOFT with its 48-bit immediate; an opcode that R197 does not list is ILLEGAL with the instruction word; a
fetch outside the code region is ADDR_FAULT with the program counter, one of a word that stays in error FETCH_UE, and it faults the step. Each
stops the cluster and leaves the stores as they are. -/
def Obligations.PreciseTrapsAreRecorded : Prop :=
  (∀ (i : Issue) (s u : State), Executes s u i → fieldOf i 51 48 = 0 → fget u F.SEQ_TRAP_CAUSE.VALID 0 i.cl = 0 →
    ∃ t, exec (.trap i) s = .next t ∧ TrapTaken u t i.cl i.st (pcNow u i) 0x0D (fIMM48 i)) ∧
  (∀ (i : Issue) (opc : BitVec 8) (s u : State), Executes s u i → opcodeListed opc.toNat = false →
    fget u F.SEQ_TRAP_CAUSE.VALID 0 i.cl = 0 →
    ∃ t, exec (.nop i opc) s = .next t ∧ TrapTaken u t i.cl i.st (pcNow u i) 0x01 (instrWord opc.toNat i)) ∧
  (∀ (c : Instr) (i : Issue) (s : State), issueOf c = some i → canIssue s i = true → (strOf s i).running = true →
    fget s F.SEQ_TRAP_CAUSE.VALID 0 i.cl = 0 →
    (inCodeRegion s i.cl (fetchAt s i) = false →
      ∃ t, exec c s = .next t ∧ TrapTaken s t i.cl i.st (pcNow s i) 0x04 (fetchAt s i)) ∧
    (∀ u bad, inCodeRegion s i.cl (fetchAt s i) = true →
      checkRange (srcCluster 0 i.cl) (s, none) (pcNow s i) (pcNow s i + 8) = (u, some bad) →
      ∃ t, exec c s = .next t ∧ TrapRecorded t i.cl i.st (pcNow u i) 0x0C (pcNow u i) ∧ TrapStops u t i.cl i.st ∧ SameStores u t ∧
        SameClusters i.cl u t ∧ ∀ p, partOf u i.cl = some p → (part t p).fault.isSome = true))

/-- R185, R193: a cluster that has trapped in this run counts a further trap in MORE, up to 65,535, and records nothing of it, but for one of stream F
in the cycle in which B trapped, whose record stands. A stream that has the rest of that cycle issues one instruction, and the cluster has
stopped. -/
def Obligations.LaterTrapsOnlyCount : Prop :=
  (∀ (s : State) (c : Nat) (st : Stream) (pc cause info : Nat) (deferred : Bool), fget s F.SEQ_TRAP_CAUSE.VALID 0 c = 1 →
    let t := takeTrap s c st pc cause info deferred
    t = { s with regs := t.regs } ∧
    fget t F.SEQ_TRAP_CAUSE.MORE 0 c = min (fget s F.SEQ_TRAP_CAUSE.MORE 0 c + 1) 65535 ∧
    (st = .B ∨ (stream s c .F).lastCycle = false →
      SameRegs [regAddr .SEQ_TRAP_CAUSE 0 c] s t ∧ fget t F.SEQ_TRAP_CAUSE.VALID 0 c = 1 ∧
      fget t F.SEQ_TRAP_CAUSE.CAUSE 0 c = fget s F.SEQ_TRAP_CAUSE.CAUSE 0 c ∧
      fget t F.SEQ_TRAP_CAUSE.STREAM 0 c = fget s F.SEQ_TRAP_CAUSE.STREAM 0 c) ∧
    (st = .F → (stream s c .F).lastCycle = true → deferred = false → cause < 32 → pc < 2 ^ 48 →
      SameRegs [regAddr .SEQ_TRAP_CAUSE 0 c, regAddr .SEQ_TRAP_PC 0 c, regAddr .SEQ_TRAP_INFO 0 c] s t ∧
      TrapRecorded t c .F pc cause info)) ∧
  (∀ (c : Instr) (i : Issue) (s : State), issueOf c = some i → canIssue s i = true → (strOf s i).running = false →
    ∃ t, exec c s = .next t ∧ ClusterStopped t i.cl)

/-- R6, R179, R198, R203, R204: ld.d, ld.w and td.ld of an aligned address that the cluster may read wait for their data; when it returns, the scalar or
descriptor register holds the little-endian value that the words then have, byte by byte the one in the stores or, where another cluster wrote
and the write need not be visible yet, the one before that; or the register of its own SEQ_ block. The stream goes on, and nothing else changes.
An address outside is an ADDR_FAULT. -/
def Obligations.LoadsDeliverMemory : Prop :=
  (∀ (i : Issue) (s u : State), Executes s u i → fRA i ≤ 15 → fieldOf i 39 32 = 0 → (areg (strOf u i) (fRA i)).toNat < 2 ^ 48 →
    let a := (areg (strOf u i) (fRA i) + BitVec.ofInt 64 (fOFF i).toInt).toNat
    a < 2 ^ 48 →
    (fRD i ≤ 31 → a % 8 = 0 → memAccessOk u i.cl a 8 false = true → ownReg i.cl a 8 = none →
      ∃ t, exec (.ldD i) s = .next t ∧ WaitsForLoad u t i a 8 false ∧
        ∀ v, Reads (srcCluster 0 i.cl) t v a (a + 8) → hiddenFrom t i.cl = [] →
          ∃ w, exec (.loadDataReturn i.cl i.st) t = .next w ∧ LoadDelivered v w i.cl i.st (fRD i) false (rdNat v a 8)) ∧
    (fRD i ≤ 31 → a % 4 = 0 → memAccessOk u i.cl a 4 false = true → ownReg i.cl a 4 = none →
      ∃ t, exec (.ldW i) s = .next t ∧ WaitsForLoad u t i a 4 false ∧
        ∀ v, Reads (srcCluster 0 i.cl) t v a (a + 4) → hiddenFrom t i.cl = [] →
          ∃ w, exec (.loadDataReturn i.cl i.st) t = .next w ∧ LoadDelivered v w i.cl i.st (fRD i) false (rdNat v a 4)) ∧
    (a % 64 = 0 → memAccessOk u i.cl a 64 false = true → ownReg i.cl a 64 = none →
      ∃ t, exec (.tdLd i) s = .next t ∧ WaitsForLoad u t i a 64 true ∧
        ∀ v, Reads (srcCluster 0 i.cl) t v a (a + 64) → hiddenFrom t i.cl = [] →
          ∃ w, exec (.loadDataReturn i.cl i.st) t = .next w ∧ LoadDelivered v w i.cl i.st (fRD i) true (rdNat v a 64)) ∧
    (∀ r idx inst, fRD i ≤ 31 → a % 8 = 0 → ownReg i.cl a 8 = some (r, idx, inst) →
      ∃ t, exec (.ldD i) s = .next t ∧ WaitsForLoad u t i a 8 false ∧
        (hiddenFrom t i.cl = [] → ∃ w, exec (.loadDataReturn i.cl i.st) t = .next w ∧
          LoadDelivered (readReg t r idx inst).1 w i.cl i.st (fRD i) false (readReg t r idx inst).2)) ∧
    (∀ r idx inst, fRD i ≤ 31 → a % 4 = 0 → ownReg i.cl a 4 = some (r, idx, inst) →
      ∃ t, exec (.ldW i) s = .next t ∧ WaitsForLoad u t i a 4 false ∧
        (hiddenFrom t i.cl = [] → ∃ w, exec (.loadDataReturn i.cl i.st) t = .next w ∧
          LoadDelivered (readReg t r idx inst).1 w i.cl i.st (fRD i) false (readReg t r idx inst).2))) ∧
  (∀ (cl : ClusterIx) (st : Stream) (s : State) (l : LoadRec), isFrozen s = false → isStopped s = false → (stream s cl st).load = some l →
    ownReg cl l.addr l.bytes = none → l.addr + l.bytes ≤ 2 ^ 48 →
    (∀ v, hiddenFrom s cl = [] → Reads (srcCluster 0 cl) s v l.addr (l.addr + l.bytes) →
      ∃ t, exec (.loadDataReturn cl st) s = .next t ∧ LoadDelivered v t cl st l.reg l.desc (rdNat v l.addr l.bytes)) ∧
    (l.desc = false → 0x400000000000 ≤ l.addr → Clean s l.addr (l.addr + l.bytes) → l.reg ≠ 0 → l.bytes ≤ 8 →
      ∃ t, exec (.loadDataReturn cl st) s = .next t ∧ (stream t cl st).load = none ∧ pcOf t cl st = (pcOf s cl st + 8) % 2 ^ 48 ∧
        ∀ k, k < l.bytes →
          let b := BitVec.ofNat 8 ((sreg (stream t cl st) l.reg).toNat / 256 ^ k)
          b = rdByte s (l.addr + k) ∨ (l.addr + k, b) ∈ hiddenFrom s cl)) ∧
  (∀ (i : Issue) (s u : State), Executes s u i → fRA i ≤ 15 → fieldOf i 39 32 = 0 → fget u F.SEQ_TRAP_CAUSE.VALID 0 i.cl = 0 → fRD i ≤ 31 →
    let a := (areg (strOf u i) (fRA i) + BitVec.ofInt 64 (fOFF i).toInt).toNat
    (2 ^ 48 ≤ (areg (strOf u i) (fRA i)).toNat ∨ 2 ^ 48 ≤ a ∨ a % 8 ≠ 0 ∨ (memAccessOk u i.cl a 8 false = false ∧ ownReg i.cl a 8 = none) →
      ∃ t, exec (.ldD i) s = .next t ∧ TrapTaken u t i.cl i.st (pcNow u i) 0x04 a) ∧
    (2 ^ 48 ≤ (areg (strOf u i) (fRA i)).toNat ∨ 2 ^ 48 ≤ a ∨ a % 4 ≠ 0 ∨ (memAccessOk u i.cl a 4 false = false ∧ ownReg i.cl a 4 = none) →
      ∃ t, exec (.ldW i) s = .next t ∧ TrapTaken u t i.cl i.st (pcNow u i) 0x04 a) ∧
    (2 ^ 48 ≤ (areg (strOf u i) (fRA i)).toNat ∨ 2 ^ 48 ≤ a ∨ a % 64 ≠ 0 ∨ memAccessOk u i.cl a 64 false = false →
      ∃ t, exec (.tdLd i) s = .next t ∧ TrapTaken u t i.cl i.st (pcNow u i) 0x04 a))

/-- R167, R203: st.d, st.w and td.st to an aligned address that the cluster may write place the register's low bytes there, little-endian, and
nothing else changes; st.w to the stream's own LAYER register writes its layer number, to the other stream's nothing, to HUB_LOSS_REPORT of its
partition the loss of the run. Any other address is an ADDR_FAULT. -/
def Obligations.StoresWriteTheirBytes : Prop :=
  (∀ (i : Issue) (s u : State), Executes s u i → fRA i ≤ 15 → fieldOf i 39 32 = 0 → (areg (strOf u i) (fRA i)).toNat < 2 ^ 48 →
    let a := (areg (strOf u i) (fRA i) + BitVec.ofInt 64 (fOFF i).toInt).toNat
    a < 2 ^ 48 →
    (fRD i ≤ 31 → a % 8 = 0 → memAccessOk u i.cl a 8 true = true →
      ∃ t, exec (.stD i) s = .next t ∧ Stores u t i a 8 (sreg (strOf u i) (fRD i)).toNat) ∧
    (fRD i ≤ 31 → a % 4 = 0 → memAccessOk u i.cl a 4 true = true →
      ∃ t, exec (.stW i) s = .next t ∧ Stores u t i a 4 (sreg (strOf u i) (fRD i)).toNat) ∧
    (a % 64 = 0 → memAccessOk u i.cl a 64 true = true →
      ∃ t, exec (.tdSt i) s = .next t ∧ Stores u t i a 64 (tdReg (clu u i.cl) (fRD i)).toNat) ∧
    (fRD i ≤ 31 → memAccessOk u i.cl a 4 true = false →
      (a = regAddr (layerReg i.st) 0 i.cl →
        ∃ t, exec (.stW i) s = .next t ∧ t = { u with regs := t.regs } ∧ SameRegs [pcAddr i.cl i.st, a] u t ∧
          fget t (layerFld i.st) 0 i.cl = (sreg (strOf u i) (fRD i)).toNat % 2 ^ 11 ∧ pcNow t i = (pcNow u i + 8) % 2 ^ 48) ∧
      (a = regAddr (layerReg (otherStream i.st)) 0 i.cl → ∃ t, exec (.stW i) s = .next t ∧ Advances [] u t i) ∧
      (∀ p, partOf u i.cl = some p → a = regAddr .HUB_LOSS_REPORT p 0 →
        ∃ t, exec (.stW i) s = .next t ∧ Advances [a, regAddr .HUB_TRB_STAT p 0] u t i ∧
          reg t .HUB_LOSS_REPORT p = BitVec.ofNat 64 ((sreg (strOf u i) (fRD i)).toNat % 2 ^ 32) ∧
          fget t F.HUB_TRB_STAT.LOSS_WRITTEN p = 1))) ∧
  (∀ (i : Issue) (s u : State), Executes s u i → fRA i ≤ 15 → fieldOf i 39 32 = 0 → fget u F.SEQ_TRAP_CAUSE.VALID 0 i.cl = 0 → fRD i ≤ 31 →
    let a := (areg (strOf u i) (fRA i) + BitVec.ofInt 64 (fOFF i).toInt).toNat
    let outside := fun (n : Nat) => 2 ^ 48 ≤ (areg (strOf u i) (fRA i)).toNat ∨ 2 ^ 48 ≤ a ∨ a % n ≠ 0
    (outside 8 ∨ memAccessOk u i.cl a 8 true = false → ∃ t, exec (.stD i) s = .next t ∧ TrapTaken u t i.cl i.st (pcNow u i) 0x04 a) ∧
    (outside 4 ∨ (memAccessOk u i.cl a 4 true = false ∧ storeReg u i.cl i.st a 0 = none) →
      ∃ t, exec (.stW i) s = .next t ∧ TrapTaken u t i.cl i.st (pcNow u i) 0x04 a) ∧
    (outside 64 ∨ memAccessOk u i.cl a 64 true = false → ∃ t, exec (.tdSt i) s = .next t ∧ TrapTaken u t i.cl i.st (pcNow u i) 0x04 a))

/-- R204: td.set replaces the bits of one field of td[TD] by the low bits of s[RS] and changes nothing else but the program counter. -/
def Obligations.DescriptorFieldSet : Prop :=
  ∀ e ∈ descriptorFields, ∀ (i : Issue) (s u : State), Executes s u i → fRA i ≤ 31 → fFIELD i = e.1 → fieldOf i 34 0 = 0 →
    ∃ t, exec (.tdSet i) s = .next t ∧ t = { u with regs := t.regs, clusters := t.clusters } ∧ SameRegs [pcAddr i.cl i.st] u t ∧
      SameClusters i.cl u t ∧ pcNow t i = (pcNow u i + 8) % 2 ^ 48 ∧ clu t i.cl = { clu u i.cl with td := (clu t i.cl).td } ∧
      (∀ n, n ≠ fRD i → tdReg (clu t i.cl) n = tdReg (clu u i.cl) n) ∧
      bitsOf (tdReg (clu t i.cl) (fRD i)) e.2.1 e.2.2 = (sreg (strOf u i) (fRA i)).toNat % 2 ^ (e.2.1 + 1 - e.2.2) ∧
      (∀ b, b < 512 → b < e.2.2 ∨ e.2.1 < b → bitOf (tdReg (clu t i.cl) (fRD i)) b = bitOf (tdReg (clu u i.cl) (fRD i)) b)

/-- R205: b, bl and bi go to a target inside the code region; bl also writes the next word's address to s[RD]. Nothing else changes. A
target outside, or one that is not a multiple of 8, is an ADDR_FAULT at the branch, with the target. -/
def Obligations.BranchesGoToTheirTarget : Prop :=
  ∀ (i : Issue) (s u : State), Executes s u i →
    let rel := (BitVec.ofInt 64 ((pcNow u i : Int) + 8 * (fOFF i).toInt)).toNat
    let ind := (areg (strOf u i) (fRA i)).toNat
    (fieldOf i 51 32 = 0 → rel < 2 ^ 48 → inCodeRegion u i.cl rel = true →
      ∃ t, exec (.b i) s = .next t ∧ pcNow t i = rel ∧ t = { u with regs := t.regs, clusters := t.clusters } ∧
        SameRegs [pcAddr i.cl i.st] u t ∧ ∀ c, clu t c = clu u c) ∧
    (fieldOf i 51 46 = 0 → fRA i ≤ 15 → fieldOf i 39 0 = 0 → ind < 2 ^ 48 → inCodeRegion u i.cl ind = true →
      ∃ t, exec (.bi i) s = .next t ∧ pcNow t i = ind ∧ t = { u with regs := t.regs, clusters := t.clusters } ∧
        SameRegs [pcAddr i.cl i.st] u t ∧ ∀ c, clu t c = clu u c) ∧
    (fRD i ≤ 31 → fieldOf i 45 32 = 0 → rel < 2 ^ 48 → inCodeRegion u i.cl rel = true →
      ∃ t, exec (.bl i) s = .next t ∧ pcNow t i = rel ∧ t = { u with regs := t.regs, clusters := t.clusters } ∧
        SameRegs [pcAddr i.cl i.st] u t ∧ SameClusters i.cl u t ∧ SameOtherStream u t i.cl i.st ∧
        (∀ n, sreg (strOf t i) n = if n = fRD i ∧ n ≠ 0 then BitVec.ofNat 64 (pcNow u i + 8) else sreg (strOf u i) n)) ∧
    (fget u F.SEQ_TRAP_CAUSE.VALID 0 i.cl = 0 →
      let Fault := fun (c : Instr) (target : Nat) => ∃ t, exec c s = .next t ∧ TrapTaken u t i.cl i.st (pcNow u i) 0x04 target
      (2 ^ 48 ≤ rel ∨ inCodeRegion u i.cl rel = false →
        (fieldOf i 51 32 = 0 → Fault (.b i) rel) ∧ (fRD i ≤ 31 → fieldOf i 45 32 = 0 → Fault (.bl i) rel)) ∧
      (2 ^ 48 ≤ ind ∨ inCodeRegion u i.cl ind = false → fieldOf i 51 46 = 0 → fRA i ≤ 15 → fieldOf i 39 0 = 0 → Fault (.bi i) ind))

/-- R190, R197: nop and end go on to the next word; end also ends the stream's part in the run. Nothing else changes. -/
def Obligations.NopAndEndAdvance : Prop :=
  ∀ (i : Issue) (s u : State), Executes s u i → fieldOf i 51 0 = 0 →
    (∃ t, exec (.nop i 0) s = .next t ∧ Advances [] u t i) ∧
    (∃ t, exec (.end_ i) s = .next t ∧ t = { u with regs := t.regs, clusters := t.clusters } ∧ SameRegs [pcAddr i.cl i.st] u t ∧
      SameClusters i.cl u t ∧ clu t i.cl = setStr (clu u i.cl) i.st { strOf u i with ended := true } ∧
      pcNow t i = (pcNow u i + 8) % 2 ^ 48)

/-- R176, R179: fence.s waits for the operations of its stream, fence.c and fence.g for those of the cluster; a fence with nothing to wait for
goes on, another blocks, and the last completion releases it. The end of a fence.g makes what the cluster wrote visible. -/
def Obligations.FencesWaitForOperations : Prop :=
  (∀ (i : Issue) (s u : State), Executes s u i → fieldOf i 51 40 = 0 → fieldOf i 37 0 = 0 →
    (fKIND i = 0 → (∀ o ∈ (clu u i.cl).inflight, o.st ≠ i.st) → ∃ t, exec (.fenceS i) s = .next t ∧ Advances [] u t i) ∧
    (fKIND i = 1 → (clu u i.cl).inflight = [] → ∃ t, exec (.fenceC i) s = .next t ∧ Advances [] u t i) ∧
    (fKIND i = 2 → (clu u i.cl).inflight = [] → ∃ t, exec (.fenceG i) s = .next t ∧
      t = { u with regs := t.regs, clusters := t.clusters } ∧ SameRegs [pcAddr i.cl i.st] u t ∧ pcNow t i = (pcNow u i + 8) % 2 ^ 48 ∧
      SameClusters i.cl u t ∧ clu t i.cl = { clu u i.cl with fences := (clu u i.cl).fences + 1 }) ∧
    (fKIND i = 0 → (∃ o ∈ (clu u i.cl).inflight, o.st = i.st) → ∃ t, exec (.fenceS i) s = .next t ∧ Blocks u t i (.fence .s)) ∧
    (fKIND i = 1 → (clu u i.cl).inflight ≠ [] → ∃ t, exec (.fenceC i) s = .next t ∧ Blocks u t i (.fence .c)) ∧
    (fKIND i = 2 → (clu u i.cl).inflight ≠ [] → ∃ t, exec (.fenceG i) s = .next t ∧ Blocks u t i (.fence .g))) ∧
  (∀ (cl : ClusterIx) (st : Stream) (s : State) (kind : FenceKind), isFrozen s = false → isStopped s = false →
    (stream s cl st).running = true → (stream s cl st).block = some (.fence kind) → (kind = .s ∨ kind = .c ∨ kind = .g) →
    (∀ o ∈ (clu s cl).inflight, kind = .s ∧ o.st ≠ st) →
    ∃ t, exec (.fenceRelease cl st) s = .next t ∧ Unblocked s t cl st ∧ SameRegs [pcAddr cl st, regAddr .SEQ_STAT 0 cl] s t ∧
      (clu t cl).fences = (if kind = .g then (clu s cl).fences + 1 else (clu s cl).fences))

/-- R172, R173: sig adds V to COUNT, or traps with TOKEN_RANGE when the sum with PENDING would pass 0xFFFF; wait takes V from a COUNT that
holds it, and else blocks; a blocked wait takes V once COUNT holds it, stream F before stream B. Other tokens stay. -/
def Obligations.TokensAreSignalledAndTaken : Prop :=
  (∀ (i : Issue) (s u : State), Executes s u i → fieldOf i 51 48 = 0 → fieldOf i 39 16 = 0 →
    let c := i.cl.val
    let n := tokCount u c (fK i)
    (fV i ≠ 0 → n + tokPending u c (fK i) + fV i ≤ 0xFFFF →
      ∃ t, exec (.sig i) s = .next t ∧ Advances [regAddr .SEQ_TOK (fK i) c] u t i ∧ tokCount t c (fK i) = n + fV i ∧
        tokPending t c (fK i) = tokPending u c (fK i)) ∧
    (fV i ≠ 0 → 0xFFFF < n + tokPending u c (fK i) + fV i → fget u F.SEQ_TRAP_CAUSE.VALID 0 c = 0 →
      ∃ t, exec (.sig i) s = .next t ∧ TrapTaken u t c i.st (pcNow u i) 0x08 (fK i)) ∧
    (fV i ≤ n → (clu u c).bells = [] →
      ∃ t, exec (.wait i) s = .next t ∧ Advances [regAddr .SEQ_TOK (fK i) c] u t i ∧ tokCount t c (fK i) = n - fV i ∧
        tokPending t c (fK i) = tokPending u c (fK i)) ∧
    (n < fV i → ∃ t, exec (.wait i) s = .next t ∧ Blocks u t i (.wait (fK i) (fV i)))) ∧
  (∀ (cl : ClusterIx) (st : Stream) (s : State) (k v : Nat), isFrozen s = false → isStopped s = false →
    (stream s cl st).running = true → (stream s cl st).block = some (.wait k v) → k < 256 → v ≤ tokCount s cl k → (clu s cl).bells = [] →
    (st = .B → ∀ w, (stream s cl .F).block ≠ some (.wait k w)) →
    ∃ t, exec (.waitSatisfied cl st) s = .next t ∧ Unblocked s t cl st ∧ tokCount t cl k = tokCount s cl k - v ∧
      SameRegs [pcAddr cl st, regAddr .SEQ_STAT 0 cl, regAddr .SEQ_TOK k cl] s t)

/-- R181, R182: with nothing in flight a first arrival in the generation is counted and noted as the cluster's last; bar.arr goes on, bar
blocks until the generation completes; bar.wt goes on once it has completed; an arrival that may not be made is a BARRIER_FAULT. -/
def Obligations.BarrierArrivals : Prop :=
  ∀ (i : Issue) (s u : State), Executes s u i → fieldOf i 51 38 = 0 → fieldOf i 31 0 = 0 →
    let c := i.cl.val
    let b := fBAR i
    let Waiting := ∃ p d, barPart u b = some p ∧ d ∈ barMembers u p b ∧ d ≠ c ∧ d ∉ (bar u b).locals
    (barFresh u c b = true → (clu u c).inflight = [] → Waiting →
      (∃ t, exec (.barArr i) s = .next t ∧ (bar t b).locals = (bar u b).locals ++ [c] ∧
        nget (clu t c).barLast b = some (barGen u b) ∧ pcNow t i = (pcNow u i + 8) % 2 ^ 48 ∧ SameStores u t ∧ SameClusters c u t ∧
        (∀ k, k ≠ b → bar t k = bar u k)) ∧
      (∃ t, exec (.bar i) s = .next t ∧ (bar t b).locals = (bar u b).locals ++ [c] ∧
        nget (clu t c).barLast b = some (barGen u b) ∧ (strOf t i).block = some (.barWait b (barGen u b)) ∧ pcNow t i = pcNow u i ∧
        SameStores u t ∧ SameClusters c u t ∧ (∀ k, k ≠ b → bar t k = bar u k))) ∧
    (barNamed u c b = true → (∃ g, nget (clu u c).barLast b = some g ∧ g ≠ barGen u b) →
      ∃ t, exec (.barWt i) s = .next t ∧ Unblocked u t c i.st) ∧
    (barNamed u c b = true → nget (clu u c).barLast b = some (barGen u b) →
      ∃ t, exec (.barWt i) s = .next t ∧ Blocks u t i (.barWait b (barGen u b))) ∧
    (barFresh u c b = false → fget u F.SEQ_TRAP_CAUSE.VALID 0 c = 0 →
      (∃ t, exec (.barArr i) s = .next t ∧ TrapTaken u t c i.st (pcNow u i) 0x0A b) ∧
      (∃ t, exec (.bar i) s = .next t ∧ TrapTaken u t c i.st (pcNow u i) 0x0A b))

/-- R207, R422: mbx.put posts s[RS] to the free private mailbox or to the free open mailbox of the partition, blocks on a full private one,
and traps on a full or closed open one and on any other number; a blocked put posts once space frees, stream F before stream B. -/
def Obligations.MailboxPuts : Prop :=
  (∀ (i : Issue) (s u : State), Executes s u i → fieldOf i 51 46 ≤ 31 → fieldOf i 38 0 = 0 →
    let c := i.cl.val
    let w := sreg (strOf u i) (fieldOf i 51 46)
    (fSELF i = 1 → fMB i = 0 → privateFree u c = true →
      ∃ t, exec (.mbxPut i) s = .next t ∧ mbxFull t c = true ∧ reg t .MBX_DATA c = w ∧ pcNow t i = (pcNow u i + 8) % 2 ^ 48 ∧
        t = { u with regs := t.regs }) ∧
    (fSELF i = 1 → fMB i ≠ 0 → fget u F.SEQ_TRAP_CAUSE.VALID 0 c = 0 →
      ∃ t, exec (.mbxPut i) s = .next t ∧ TrapTaken u t c i.st (pcNow u i) 0x01 (instrWord 0x65 i)) ∧
    (fSELF i = 1 → fMB i = 0 → privateFree u c = false → ∃ t, exec (.mbxPut i) s = .next t ∧ Blocks u t i (.put w)) ∧
    (∀ p, partOf u c = some p → fSELF i = 0 → fMB i = 56 + p → mbxFull u (56 + p) = false → mbxClosed u (56 + p) = false →
      ∃ t, exec (.mbxPut i) s = .next t ∧ mbxFull t (56 + p) = true ∧ reg t .MBX_DATA (56 + p) = w ∧
        pcNow t i = (pcNow u i + 8) % 2 ^ 48 ∧ t = { u with regs := t.regs }) ∧
    (∀ p, partOf u c = some p → fSELF i = 0 → fMB i = 56 + p → (mbxFull u (56 + p) = true ∨ mbxClosed u (56 + p) = true) →
      fget u F.SEQ_TRAP_CAUSE.VALID 0 c = 0 →
      ∃ t, exec (.mbxPut i) s = .next t ∧ TrapTaken u t c i.st (pcNow u i) 0x0B (56 + p)) ∧
    (∀ p, partOf u c = some p → fSELF i = 0 → fMB i ≠ 56 + p → fget u F.SEQ_TRAP_CAUSE.VALID 0 c = 0 →
      ∃ t, exec (.mbxPut i) s = .next t ∧ TrapTaken u t c i.st (pcNow u i) 0x04 (regAddr .MBX_PUT (fMB i) 0))) ∧
  (∀ (cl : ClusterIx) (st : Stream) (s : State) (w : Word), isFrozen s = false → isStopped s = false →
    (stream s cl st).running = true → (stream s cl st).block = some (.put w) → privateFree s cl = true → (st = .B → ∀ v, (stream s cl .F).block ≠ some (.put v)) →
    ∃ t, exec (.putUnblock cl st) s = .next t ∧ Unblocked s t cl st ∧ mbxFull t cl = true ∧ reg t .MBX_DATA cl = w)

/-- R180, R190, R193: a block that has lasted SEQ_WAIT_LIMIT traps with WAIT_TIMEOUT unless what it waits for has come; one of the cycle in which the other stream
trapped only counts in MORE; a stream that
executed end stops once its operations have completed, and the second of the two puts the cluster in state DONE. -/
def Obligations.TimeoutsAndStreamEnds : Prop :=
  (∀ (cl : ClusterIx) (st : Stream) (s : State) (b : Block) (info : Nat), isFrozen s = false → isStopped s = false →
    (stream s cl st).running = true → (stream s cl st).block = some b → blockInfo cl b = some info → (stream s cl st).limit ≠ 0 →
    (stream s cl st).since + (stream s cl st).limit ≤ s.tick → blockMet s cl b = false → fget s F.SEQ_TRAP_CAUSE.VALID 0 cl = 0 →
    ∃ t, exec (.waitTimeout cl st) s = .next t ∧ TrapTaken s t cl st (pcOf s cl st) 0x09 info) ∧
  (∀ (cl : ClusterIx) (st : Stream) (s : State) (b : Block) (info : Nat), isFrozen s = false → isStopped s = false →
    (stream s cl st).running = false → (stream s cl st).lastCycle = true → (stream s cl st).block = some b → blockInfo cl b = some info →
    (stream s cl st).limit ≠ 0 → (stream s cl st).since + (stream s cl st).limit ≤ s.tick → blockMet s cl b = false →
    fget s F.SEQ_TRAP_CAUSE.VALID 0 cl = 1 →
    ∃ t, exec (.waitTimeout cl st) s = .next t ∧ ClusterStopped t cl ∧
      fget t F.SEQ_TRAP_CAUSE.MORE 0 cl = min (fget s F.SEQ_TRAP_CAUSE.MORE 0 cl + 1) 65535) ∧
  (∀ (cl : ClusterIx) (st : Stream) (s : State), isFrozen s = false → isStopped s = false → (stream s cl st).running = true →
    (stream s cl st).ended = true → (∀ o ∈ (clu s cl).inflight, o.st ≠ st) →
    ∃ t, exec (.streamEnd cl st) s = .next t ∧ (stream t cl st).running = false ∧ fget t (endedFld st) 0 cl = 1 ∧
      fget t F.SEQ_STAT.STATE 0 cl = (if fget s (endedFld (otherStream st)) 0 cl = 1 then 3 else fget s F.SEQ_STAT.STATE 0 cl) ∧
      SameStores s t ∧ SameClusters cl s t ∧ SameOtherStream s t cl st)

/-- R164, R165, R170, R172: a tensor operation whose fields and operands are in order and that finds room enters its unit's queue with
copies of its operands, reserves its token and lets the stream go on; it moves no data yet. -/
def Obligations.TensorOperationsIssue : Prop :=
  ∀ e ∈ tensorTable, ∀ (i : Issue) (s u : State), Executes s u i → e.2.2 i → inflightRoom u i.cl i.st = true →
    planTrap i u (planOf e.2.1 i u) = none → ∃ t, exec (e.1 i) s = .next t ∧ OperationIssued u t i e.2.1

/-- R165, R184, R201: a tensor operation that fails a check traps at issue with the first cause by code; one that finds both limits of R165
in its way stalls its stream, which issues it once room frees. -/
def Obligations.TensorOperationsTrapOrStall : Prop :=
  (∀ e ∈ tensorTable, ∀ (i : Issue) (s u : State), Executes s u i → e.2.2 i →
    (∀ cause info, inflightRoom u i.cl i.st = true → planTrap i u (planOf e.2.1 i u) = some (cause, info) →
      fget u F.SEQ_TRAP_CAUSE.VALID 0 i.cl = 0 → ∃ t, exec (e.1 i) s = .next t ∧ TrapTaken u t i.cl i.st (pcNow u i) cause info) ∧
    (inflightRoom u i.cl i.st = false →
      ∃ t, exec (e.1 i) s = .next t ∧ t = { u with clusters := t.clusters } ∧ SameClusters i.cl u t ∧
        clu t i.cl = setStr (clu u i.cl) i.st { strOf u i with stalled := some (e.2.1, i) })) ∧
  (∀ e ∈ tensorTable, ∀ (i : Issue) (s : State), isFrozen s = false → isStopped s = false →
    (strOf s i).stalled = some (e.2.1, i) → inflightRoom s i.cl i.st = true →
    (let u := modStr s i.cl i.st (fun x => { x with stalled := none })
     planTrap i u (planOf e.2.1 i u) = none → ∃ t, exec (.issueStallRelease i.cl i.st) s = .next t ∧ OperationIssued u t i e.2.1))

/-- R223, R317: rsend and rrecv issue like every tensor operation. An rsend without tag and outlier map enters its bucket at once, under its
tag, in the wire format it names; an rrecv whose bucket has not closed waits. -/
def Obligations.BucketOperationsIssue : Prop :=
  ∀ (i : Issue) (s u : State) (p : Nat) (e : BucketEntry), Executes s u i → fieldOf i 33 8 = 0 → inflightRoom u i.cl i.st = true →
    partOf u i.cl = some p → bucketEntry u p (cTAG i) = some e → (tensAt u i.cl (cTD i)).tag = 0 → (tensAt u i.cl (cTD i)).hasMap = false →
    (planTrap i u (planOf .rsendB8 i u) = none →
      ∃ t, exec (.rsendB8 i) s = .next t ∧ pcNow t i = (pcNow u i + 8) % 2 ^ 48 ∧
        tokPending t i.cl (fTok i) = tokPending u i.cl (fTok i) + 1 ∧
        ∃ x, nget (part t p).buckets (cTAG i) = some x ∧ x.bf16 = false ∧ x.sendCl = i.cl.val) ∧
    (planTrap i u (planOf .rsendBf16 i u) = none →
      ∃ t, exec (.rsendBf16 i) s = .next t ∧ pcNow t i = (pcNow u i + 8) % 2 ^ 48 ∧
        tokPending t i.cl (fTok i) = tokPending u i.cl (fTok i) + 1 ∧
        ∃ x, nget (part t p).buckets (cTAG i) = some x ∧ x.bf16 = true ∧ x.sendCl = i.cl.val) ∧
    (planTrap i u (planOf .rrecv i u) = none → (∀ x, nget (part u p).buckets (cTAG i) = some x → x.phase ≠ .closed) →
      ∃ t, exec (.rrecv i) s = .next t ∧ OperationIssued u t i .rrecv)

/-- R68, R147, R172, R174: the oldest operation of a matrix engine, a drain, the quantiser, the vector unit or the row engine that has begun
and whose turn has come completes: it raises its token by one and touches no other token, stream or cluster. -/
def Obligations.UnitsRaiseTheirTokens : Prop :=
  ∀ (cl : ClusterIx) (s : State), isFrozen s = false → isStopped s = false → ∀ e ∈ unitCommands cl, ∀ r,
    oldestBegun s cl e.1 = some r → slotTurn s cl r = true → NoStash cl r →
    ∃ t, exec e.2 s = .next t ∧ Completes s t cl r

/-- R172, R174, R249: the oldest local operation of a DMA channel completes in the same way when its source lies in one row of the address
map and its words are without error; the bytes it moved are counted. -/
def Obligations.ChannelsRaiseTheirTokens : Prop :=
  ∀ (cl : ClusterIx) (ch : ChanIx) (s u : State) (r : OpRec) (d x : Tens), isFrozen s = false → isStopped s = false →
    fget s F.SEQ_DMA_STAT.STATE ch cl ≠ 2 → oldestBegun s cl (16 + ch.val) = some r → isRemote r = false → NoStash cl r →
    opTens cl r 0 = some d → opTens cl r 1 = some x → busError s (copyRanges r x d) = none →
    ReadsAll (sourceOf cl r) (seenBy s cl) u (copyRanges r x d) →
    ∃ t, exec (.dmaComplete cl ch) s = .next t ∧ Completes s t cl r ∧
      fget t F.SEQ_DMA_BYTES.COUNT ch cl = (fget s F.SEQ_DMA_BYTES.COUNT ch cl +
        (if r.op = .stt then copyBytes x x.n0 x.n1 x.n2 x.n3 else copyBytes d d.n0 d.n1 d.n2 d.n3)) % 2 ^ 64

/-- R69, R140, R396: an operation that may begin, with operands in order, begins on its unit and keeps its place; a pass that starts its engine asks
for a wake token instead. -/
def Obligations.OperationsBegin : Prop :=
  ∀ (cl : ClusterIx) (op : Nat) (s : State) (r : OpRec), isFrozen s = false → isStopped s = false →
    (clu s cl).inflight.find? (fun o => o.id = op) = some r → mayBegin s cl r = true → yields s cl r = false → r.asked = false →
    (isEngineStart s cl r = false → isRemote r = false → NoStash cl r → mapFault s cl r = none →
      ∃ t, exec (.opBegin cl op) s = .next t ∧
        (∃ inf, (clu t cl).inflight = (clu s cl).inflight.map (fun o => if o.id = r.id then { o with begun := true, accInf := inf } else o)) ∧
        SameStores s t ∧ SameClusters cl s t ∧ (∀ st, stream t cl st = stream s cl st)) ∧
    (isEngineStart s cl r = true →
      ∃ t, exec (.opBegin cl op) s = .next t ∧
        (clu t cl).inflight = (clu s cl).inflight.map (fun o => if o.id = r.id then { o with asked := true } else o) ∧
        ⟨s.tick, 64 + 4 * cl.val + unitR r / 2, r.id⟩ ∈ t.power.queue ∧ t.power.queue.length = s.power.queue.length + 1 ∧
        SameStores s t ∧ SameClusters cl s t)

/-- R138: at a slot boundary of a running cluster the slot number goes on to the next entry of the interleave table, after the last to the
first, and the cycle number starts anew; nothing else changes. -/
def Obligations.InterleaveSlotsFollow : Prop :=
  ∀ (cl : ClusterIx) (s : State), isFrozen s = false → isStopped s = false → fget s F.SEQ_STAT.STATE 0 cl = 1 → (clu s cl).ilv.length ≤ 4096 →
    ∃ t, exec (.slotBoundary cl) s = .next t ∧ t = { s with regs := t.regs } ∧ SameRegs [regAddr .SEQ_ILV_POS 0 cl] s t ∧
      fget t F.SEQ_ILV_POS.CYCLE 0 cl = 0 ∧
      ((clu s cl).ilv = [] → fget t F.SEQ_ILV_POS.SLOT 0 cl = 0) ∧
      ((clu s cl).ilv ≠ [] → fget t F.SEQ_ILV_POS.SLOT 0 cl = (fget s F.SEQ_ILV_POS.SLOT 0 cl + 1) % (clu s cl).ilv.length)

/-- R240, R241: a broadcast engine with a place free at every receiver puts one tile at the end of the engine's queue in each cluster of the
entry's mask, in no other, and goes on to the next place of the list. -/
def Obligations.BroadcastReachesItsMask : Prop :=
  ∀ (p : PartIx) (s : State) (a r n k : Nat), isFrozen s = false → isStopped s = false → (part s p).running = true →
    nget s.wbePos p.val = some (a, r, n, k) → a ≠ 0 →
    let e := wbeEntry s a
    (∀ c, c < 32 → natBit e.mask c = true → (ngetD [] (clu s c).tiles (e.eng % 4)).length < 2) →
    ∃ t, exec (.tileBroadcast p) s = .next t ∧ nget t.wbePos p.val = some (wbeNext e (a, r, n, k)) ∧
      ∃ x, ∀ c j, ngetD [] (clu t c).tiles j =
        if c < 32 ∧ natBit e.mask c = true ∧ j = e.eng % 4 then ngetD [] (clu s c).tiles j ++ [x] else ngetD [] (clu s c).tiles j

/-- R189, R264: with an image loaded, the doorbell due, the commit state RUNNABLE and every hold clear, HC1 and HC2 read the tables of the start;
with nothing to reject, a run starts: the partition runs step EPOCH + 1, its trouble table reads zero, and every cluster runs both streams with its
step and rank in s1 and s4. A word that stays in error starts nothing. -/
def Obligations.RunsStart : Prop :=
  ∀ (p : PartIx) (s : State) (im : Image), (part s p).image = some im → coreActs s 1 = true → isStopped s = false →
    (part s p).wanted = true → (part s p).running = false → fget s F.CRN_STAT.STATE p = 1 → holdsClear s p = true →
    (∀ u v, ReadsAll (srcCore 1) s u (startReads s p im) → ReadsAll (srcCore 2) u v (tableReads u p) → runReject v p = none →
      (part v p).badEmit = false →
      ∃ t, exec (.runStart p) s = .next t ∧ (part t p).running = true ∧ (part t p).wanted = false ∧ (part t p).abandoned = false ∧
        (part t p).step = fget v F.CRN_EPOCH.EPOCH p + 1 ∧
        (∀ a, troubleBase p ≤ a → a < troubleBase p + 0x20000 → rdByte t a = 0) ∧
        (∀ c ∈ clustersOf v p, fget t F.SEQ_STAT.STATE 0 c = 1 ∧ (clu t c).inflight = [] ∧
          ∀ st, (stream t c st).running = true ∧ sreg (stream t c st) 1 = BitVec.ofNat 64 (fget v F.CRN_EPOCH.EPOCH p + 1) ∧
            sreg (stream t c st) 4 = BitVec.ofNat 64 (imageIndex v p c))) ∧
    (∀ u bad, checkRanges (srcCore 1) s (startReads s p im) = (u, some bad) →
      ∃ t, exec (.runStart p) s = .next t ∧ t = { u with cores := t.cores } ∧ (Machine.core t 1).met.isSome = true ∧ ∀ n, n ≠ 1 → Machine.core t n = Machine.core u n)

/-- R122, R185, R186, R265: when every cluster of a running partition is DONE, HC1 ends the run and arrives at the verdict barrier; on the notice of a trap it abandons the run
of the cluster's partition and arrives; it abandons a faulted step without arriving. Every cluster of an abandoned partition issues
nothing and has nothing in flight. -/
def Obligations.RunsEndOrStop : Prop :=
  (∀ (p : PartIx) (s u : State), coreActs s 1 = true → (part s p).running = true → (part s p).abandoned = false →
    (part s p).fault = none → runDone s p = true → ReadsAll (srcCore 1) s u (policyTables s p) →
    ∃ t, exec (.runEnd p) s = .next t ∧ (part t p).running = false ∧ (part t p).atVerdict = true ∧ (part t p).holdreq = false ∧
      SameParts p u t ∧ ∀ c ∈ clustersOf s p, (clu t c).tiles = []) ∧
  (∀ (cl : ClusterIx) (s : State) (p : Nat), partOf s cl = some p → coreActs s 1 = true → noticeIs s cl 2 = true → (part s p).fault = none →
    (part s p).abandoned = false → (part s p).atVerdict = false → fget s F.SEQ_TRAP_CAUSE.CAUSE 0 cl ≠ 0x0C →
    ∃ t, exec (.runAbandon cl) s = .next t ∧ (part t p).abandoned = true ∧ (part t p).running = false ∧ (part t p).atVerdict = true ∧
      ∀ c ∈ clustersOf s p, (clu t c).inflight = [] ∧ (clu t c).stash = [] ∧ ∀ st, (stream t c st).running = false) ∧
  (∀ (p : PartIx) (s : State), coreActs s 1 = true → (part s p).fault.isSome = true → (part s p).abandoned = false →
    ∃ t, exec (.stepFault p) s = .next t ∧ (part t p).abandoned = true ∧ (part t p).running = false ∧
      (part t p).atVerdict = (part s p).atVerdict ∧
      ∀ c ∈ clustersOf s p, (clu t c).inflight = [] ∧ (clu t c).stash = [] ∧ ∀ st, (stream t c st).running = false)

/-- R123, R186: a combined verdict without a bit is CLEAN and the station is to commit; TRAPPED holds with cause 3, a watched layer or HOLDREQ
without TRAPPED and EXHAUST with cause 1; a first spike alone replays under policy 0. -/
def Obligations.VerdictOutcomes : Prop :=
  ∀ (p : PartIx) (s u : State), coreActs s 1 = true → (part s p).verdictReady = true →
    (let v := modPart s p (fun x => { x with verdictReady := false, atVerdict := false })
     ReadsAll (srcCore 1) v u (policyTables v p)) →
    let pay := (part s p).combined
    let g := layerBits pay 0x7FF
    ((∀ l, l < 2048 → layerBits pay l = 0) →
      ∃ t, exec (.verdict p) s = .next t ∧ fget t F.HUB_TRB_STAT.VERDICT p = 0 ∧ fget t F.HUB_TRB_STAT.FIRST_LAYER p = 0x7FF ∧
        (part t p).committing = true ∧ (part t p).cleanAnswer = true ∧ (part t p).verdictReady = false ∧ SameStores u t ∧ SameParts p u t) ∧
    (natBit g 3 = true →
      ∃ t, exec (.verdict p) s = .next t ∧ fget t F.HUB_TRB_STAT.VERDICT p = 2 ∧ fget t F.HUB_TRB_STAT.HOLDING p = 1 ∧
        (part t p).holdCause = 3 ∧ (part t p).committing = (part s p).committing) ∧
    (natBit g 3 = false → natBit g 2 = false → (natBit g 1 = true ∨ ∃ l, l < 2047 ∧ natBit (layerBits pay l) 3 = true) →
      ∃ t, exec (.verdict p) s = .next t ∧ fget t F.HUB_TRB_STAT.VERDICT p = 2 ∧ fget t F.HUB_TRB_STAT.HOLDING p = 1 ∧
        (part t p).holdCause = 1 ∧ (part t p).committing = (part s p).committing) ∧
    ((∀ l, l < 2047 → layerBits pay l = 0) → g = 1 → sbit s F.HUB_TRB_CFG.SPIKE_POL p = false → fbit s F.HUB_TRB_STAT.SPIKE_RUN p = false →
      fbit s F.HUB_TRB_STAT.APPLY_PENDING p = false →
      ∃ t, exec (.verdict p) s = .next t ∧ fget t F.HUB_TRB_STAT.VERDICT p = 1 ∧ fget t F.HUB_TRB_STAT.SPIKE_RUN p = 1 ∧
        fget t F.HUB_TRB_STAT.REPLAYS p = min 3 (fget s F.HUB_TRB_STAT.REPLAYS p + 1) ∧ (part t p).wanted = true)

/-- R20, R27, R125, R126, R130: an answer of the control node to a hold ends it: COMMIT lets the commit go on, REPLAY and SKIP want the next run;
without a hold, and for COMMIT to a trap, it is ignored with an entry. While HC1 does not run, an answer waits for its restart. -/
def Obligations.AnswersEndTheHold : Prop :=
  ∀ (p : PartIx) (s : State), isFrozen s = false →
    (coreRuns s 1 = true → holding s p = true → ∀ u, ReadsAll (srcCore 1) s u (policyTables s p) →
      ((part s p).holdCause ≠ 3 → (part s p).holdCause ≠ 4 →
        ∃ t, exec (.answerCommit .meridian p) s = .next t ∧ fget t F.HUB_TRB_STAT.HOLDING p = 0 ∧ fget t F.HUB_TRB_STAT.REPLAYS p = 0 ∧
          (part t p).committing = true ∧ (part t p).cleanAnswer = false ∧ SameStores u t ∧ SameParts p u t) ∧
      ((part s p).holdCause = 3 → fbit s F.HUB_TRB_STAT.APPLY_PENDING p = false →
        (∃ t, exec (.answerReplay .meridian p) s = .next t ∧ fget t F.HUB_TRB_STAT.HOLDING p = 0 ∧ fget t F.HUB_TRB_STAT.VERDICT p = 1 ∧
          (part t p).wanted = true) ∧
        (∃ t, exec (.answerSkip .meridian p) s = .next t ∧ fget t F.HUB_TRB_STAT.HOLDING p = 0 ∧
          fget t F.HUB_TRB_STAT.VERDICT p = 3 ∧ fget t F.HUB_TRB_STAT.REPLAYS p = 0 ∧ (part t p).wanted = true))) ∧
    (coreRuns s 1 = true → ∀ c ∈ [Instr.answerCommit .meridian p, Instr.answerReplay .meridian p, Instr.answerSkip .meridian p],
      holding s p = false ∨ (c = .answerCommit .meridian p ∧ (part s p).holdCause = 3) →
      ∃ t, exec c s = .next t ∧ t = { s with regs := t.regs, fresh := t.fresh, fb := t.fb, fbOffered := s.fbOffered + 1 } ∧
        SameRegs [regAddr .FBK_LOST 0 0] s t) ∧
    (coreRuns s 1 = false → ∀ c ∈ [(Instr.answerCommit .meridian p, 1), (.answerReplay .meridian p, 2), (.answerSkip .meridian p, 3)],
      ∃ t, exec c.1 s = .next t ∧ t = { s with parts := t.parts } ∧ SameParts p s t ∧
        part t p = { part s p with answers := (part s p).answers ++ [c.2] })

/-- R114, R119, R130: a Meridian WRITE arms the staged entries, asks for HOLDREQ in the next verdict, or reports the loss of the run; from a core or
SMBus the same write does nothing. -/
def Obligations.PolicyWritesComeFromMeridian : Prop :=
  ∀ (p : PartIx) (v : BitVec 32) (s : State), isFrozen s = false →
    (∃ t, exec (.apply .meridian p) s = .next t ∧ t = { s with regs := t.regs } ∧ SameRegs [regAddr .HUB_TRB_STAT p 0] s t ∧
      fget t F.HUB_TRB_STAT.APPLY_PENDING p = 1) ∧
    (∃ t, exec (.holdNext .meridian p) s = .next t ∧ t = { s with parts := t.parts } ∧ SameParts p s t ∧
      part t p = { part s p with holdreq := true }) ∧
    (∃ t, exec (.lossReport .meridian p v) s = .next t ∧ t = { s with regs := t.regs } ∧
      SameRegs [regAddr .HUB_LOSS_REPORT p 0, regAddr .HUB_TRB_STAT p 0] s t ∧ reg t .HUB_LOSS_REPORT p = v.zeroExtend 64 ∧
      fget t F.HUB_TRB_STAT.LOSS_WRITTEN p = 1) ∧
    (∀ src, src ≠ .meridian → exec (.apply src p) s = .next s ∧ exec (.holdNext src p) s = .next s ∧ exec (.lossReport src p v) s = .next s)

/-- R24 to R27, R264: a core's own kick with the key reloads its watchdog; an expired watchdog or a bad word resets the core; after the image
check it runs again and takes up what waited for it, or is held failed; HUB_CORE_RELEASE runs held cores again, and no others. -/
def Obligations.CoresAreWatchedAndReset : Prop :=
  ∀ (n : CoreIx) (s : State), isFrozen s = false →
    (∀ v : BitVec 32, coreRuns s n = true → v.toNat % 65536 = 0x4B4A →
      ∃ t, exec (.wdtKick (.core n) n v) s = .next t ∧ t = { s with regs := t.regs, cores := t.cores } ∧
        SameRegs [regAddr .HUB_WDT_LEFT n 0] s t ∧ (Machine.core t n).left = 125 * sget s F.HUB_WDT_CTL.TIMEOUT n ∧
        fget t F.HUB_WDT_LEFT.LEFT n = sget s F.HUB_WDT_CTL.TIMEOUT n) ∧
    (∀ pc : Word, s.boot.fwRuns = true → coreRuns s n = true → (Machine.core s n).left = 0 → fbit s F.HUB_BOOT_STAT.READY = true →
      ∃ t, exec (.coreWdt n pc) s = .next t ∧ CoreReset s t n ∧ (Machine.core t n).lastPc = pc) ∧
    (∀ (a : BitVec 48) (y : BitVec 8), coreRuns s n = true → fbit s F.HUB_BOOT_STAT.READY = true →
      (classOf y = .poison → ∃ t, exec (.coreUe n a y) s = .next t ∧ CoreReset s t n ∧
        fget t F.ECC_POISONCNT.COUNT = (fget s F.ECC_POISONCNT.COUNT + 1) % 2 ^ 64) ∧
      (classOf y = .ue → ∃ t, exec (.coreUe n a y) s = .next t ∧ CoreReset s t n ∧
        fget t F.ECC_UECNT.COUNT = (fget s F.ECC_UECNT.COUNT + 1) % 2 ^ 64)) ∧
    (fget s F.HUB_CORE_STAT.STATE n = 1 →
      (imageIntact s = true → fget s F.HUB_CORE_STAT.RECENT n < 3 →
        ∃ t, exec (.coreRestart n) s = .next (resumeWork t n) ∧ fget t F.HUB_CORE_STAT.STATE n = 0 ∧
          (Machine.core t n).left = 125 * sget s F.HUB_WDT_CTL.TIMEOUT n ∧ (∀ b ∈ boxesOf n, mbxClosed t b = false) ∧ SameStores s t) ∧
      (imageIntact s = false ∨ 3 ≤ fget s F.HUB_CORE_STAT.RECENT n →
        ∃ t, exec (.coreRestart n) s = .next t ∧ fget t F.HUB_CORE_STAT.STATE n = 2 ∧ fget t F.HUB_ALERT.CORE_HELD = 1 ∧ Logged s t)) ∧
    (∀ v : BitVec 32, NothingWaits s → ∃ t, exec (.coreRelease .meridian v) s = .next t ∧
      ∀ m, m < 4 → fget t F.HUB_CORE_STAT.STATE m =
        if natBit v.toNat m = true ∧ fget s F.HUB_CORE_STAT.STATE m = 2 then 0 else fget s F.HUB_CORE_STAT.STATE m)

/-- R10, R12, R31, R32, R226, R230: a Meridian WRITE sets a partition's clusters or its window, or is rejected whole; it places the fields of a plain
register, which its unit samples from the end of the tick on; SMBus writes none of them, and an address of no register changes nothing. -/
def Obligations.WritesReachTheirRegisters : Prop :=
  ∀ (p : PartIx) (v : Word) (s : State), isFrozen s = false →
    (partRejects s p (v.toNat % 2 ^ 32) = false →
      ∃ t, exec (.partWrite .meridian p v) s = .next t ∧ t = { s with regs := t.regs } ∧ SameRegs [regAddr .HUB_PART p 0] s t ∧
        fget t F.HUB_PART.CLUSTERS p = v.toNat % 2 ^ 32 ∧ fget t F.HUB_PART.REJECTED p = 0) ∧
    ((part s p).image.isSome = true ∨ (∃ c q, c < 32 ∧ q < 8 ∧ q ≠ p.val ∧ natBit v.toNat c = true ∧ natBit (fget s F.HUB_PART.CLUSTERS q) c = true) ∨
        (∃ c, c < 32 ∧ natBit v.toNat c = true ∧ natBit (fget s F.ECC_STEST_CLU.WITHHELD) c = true) →
      ∃ t, exec (.partWrite .meridian p v) s = .next t ∧ fget t F.HUB_PART.CLUSTERS p = fget s F.HUB_PART.CLUSTERS p ∧
        fget t F.HUB_PART.REJECTED p = 1 ∧ Logged s t ∧ SameStores s t) ∧
    (let base := natBits v.toNat 27 0
     let size := natBits v.toNat 59 32
     (winRejects s p base size = false →
       ∃ t, exec (.winWrite .meridian p v) s = .next t ∧ t = { s with regs := t.regs } ∧ SameRegs [regAddr .HUB_WIN p 0] s t ∧
         fget t F.HUB_WIN.BASE p = base ∧ fget t F.HUB_WIN.SIZE p = size ∧ fget t F.HUB_WIN.CACHE p = natBits v.toNat 62 62 ∧
         fget t F.HUB_WIN.REJECTED p = 0) ∧
     ((part s p).image.isSome = true ∨ memTop s < (base + size) * MiB →
       ∃ t, exec (.winWrite .meridian p v) s = .next t ∧ fget t F.HUB_WIN.BASE p = fget s F.HUB_WIN.BASE p ∧
         fget t F.HUB_WIN.SIZE p = fget s F.HUB_WIN.SIZE p ∧ fget t F.HUB_WIN.REJECTED p = 1 ∧ Logged s t ∧ SameStores s t)) ∧
    (∀ f ∈ plainFields,
      let a := BitVec.ofNat 48 (regAddr f.reg p 0)
      let n := (regPlace f.reg).width / 8
      (∃ t, exec (.registerWrite .meridian a n v) s = .next t ∧ t = { s with regs := t.regs, held := t.held } ∧ SameRegs [regAddr f.reg p 0] s t ∧
        fget t f p = natBits v.toNat f.hi f.lo ∧ sget t f p = sget s f p) ∧
      exec (.registerWrite .smbus a n v) s = .next s) ∧
    (∀ (a : BitVec 48) (n : Nat), accessOf a.toNat n = none → exec (.registerWrite .meridian a n v) s = .next s)

/-- R243 to R246: the update of MODE 0 writes the masters and moments that R245 gives to the buffers of the next parity, and then the copies are
encoded from the new masters; emit encodes them from the present ones; an invalid descriptor is rejected with an entry. What is read is met word by
word first (R264). -/
def Obligations.UpdatesMoveTheMasters : Prop :=
  ∀ (p : PartIx) (s : State) (tag d : Nat) (rest : List (Nat × Nat)) (e : BucketEntry), isFrozen s = false → isStopped s = false →
    bucketEntry s p tag = some e →
    let n := 256 * shardLen e e.pos
    let E := fget s F.CRN_EPOCH.EPOCH p
    (∀ (x : Bucket) (w : State), (part s p).updates = (tag, d) :: rest → nget (part s p).buckets tag = some x →
      (let v := updRead (modPart s p (fun y => { y with updates := rest })) p (updDescs s p d)
       bucketEntry v p tag = some e ∧ updMode v d = 0 ∧ w = updRead v p (updRanges v d E n)) →
      let buf := fun (o k : Nat) => updBuf w d o (k % 2)
      let prm := rdNat w (d + 72) 8
      let used := updUsed (updOpt w d)
      updOpt w d ≤ 2 → (∀ o ∈ used, buf o (E + 1) + 4 * n ≤ 0x400000000000) →
      (∀ o ∈ used, ∀ k ∈ used, o ≠ k → buf o (E + 1) + 4 * n ≤ buf k (E + 1) ∨ buf k (E + 1) + 4 * n ≤ buf o (E + 1)) →
      ∃ t u, exec (.updateComplete p) s = .next t ∧ (part t p).updates = rest ∧ t.regs = w.regs ∧ t.clusters = s.clusters ∧ SameParts p s t ∧
        t = encodeCopies u p d (updBuf u d 8 ((E + 1) % 2)) ((E + 1) % 2) ∧
        ∀ i, i < n →
          let v := moved (updOpt w d) (shardValue e x i).1 (f32At w (buf 8 E + 4 * i)) (f32At w (buf 24 E + 4 * i)) (f32At w (buf 40 E + 4 * i))
            (fun k => f32At w (prm + 4 * k))
          rdNat u (buf 8 (E + 1) + 4 * i) 4 = (f32Bits v.1).toNat ∧
          (updOpt w d ≤ 1 → rdNat u (buf 24 (E + 1) + 4 * i) 4 = (f32Bits v.2.1).toNat) ∧
          (updOpt w d = 0 → rdNat u (buf 40 (E + 1) + 4 * i) 4 = (f32Bits v.2.2).toNat)) ∧
    (∀ v : State, (part s p).emits = (tag, d) :: rest → v = updRead (modPart s p (fun y => { y with emits := rest })) p (updDescs s p d) →
      bucketEntry v p tag = some e →
      (updInvalid v p d n = false →
        let m := updBuf v d 8 (E % 2)
        ∃ t, exec (.emit p) s = .next t ∧ (part t p).emits = rest ∧ t.clusters = s.clusters ∧ SameParts p s t ∧
          t = encodeCopies (updRead v p [(m, m + 4 * n)]) p d m (E % 2)) ∧
      (updInvalid v p d n = true →
        ∃ t, exec (.emit p) s = .next t ∧ (part t p).emits = rest ∧ (part t p).badEmit = true ∧ Logged v t ∧ SameStores v t))

/-- R332, R333: the owner of a shard sends its stream and its trailer to the next station of the ring; bytes that arrive are noted and change no
byte outside the copy buffers; a trailer that agrees completes the gather, one that does not, and the timeout, fail it. -/
def Obligations.GathersCompleteOrFail : Prop :=
  (∀ (p : PartIx) (tag : BitVec 12) (s u : State), isFrozen s = false → isStopped s = false →
    (∀ e g, bucketEntry s p tag.toNat = some e → nget (part s p).gathers (gatherKey tag.toNat e.pos) = some g → g.sending = true →
      g.started = false → g.early = false → g.failed = false → (part s p).emits = [] →
      let ps := gatherPieces s p (shardDesc s e e.pos) (g.epoch % 2)
      copiesInside s p (shardDesc s e e.pos) (g.epoch % 2) = true →
      ReadsAll (srcRed tag.toNat) s u (ps.map (fun x => (x.1, x.1 + x.2))) →
      ∃ t l q d, exec (.gatherStart p tag) s = .next t ∧ Sends s t (ringAt s e (e.pos + 1)) (l ++ [q]) ∧ (∀ k ∈ l, pktType k = 4) ∧
        pktType q = 5 ∧ q.payload = [codeWord d, codeWord (BitVec.ofNat 64 (piecesLen ps))] ∧
        nget (part t p).gathers (gatherKey tag.toNat e.pos) = some { g with started := true, complete := true } ∧
        SameStores u t ∧ t.clusters = s.clusters) ∧
    (∀ shard g, shard < 65536 → nget (part s p).gathers (gatherKey tag.toNat shard) = some g → g.complete = false → g.failed = false →
      g.early = false → g.since + sget s F.LNK_RED_TMO.TICKS ≤ s.tick →
      ∃ t h, exec (.gatherTimeout p tag) s = .next t ∧ nget (part t p).gathers (gatherKey tag.toNat shard) = some h ∧ h.failed = true ∧
        fget t F.LNK_RED_EVT.GATHER_FAIL 0 (redDie tag.toNat) = 1)) ∧
  (∀ (s : State) (q : Packet) (rest : List (Packet × Nat)) (p : Nat) (e : BucketEntry), isFrozen s = false → isStopped s = false →
    gatherRing s (pktW1 q 63 52) (pktSrc q) = some (p, e) →
    (∀ g, Arrived s q rest 4 → pktW1 q 51 50 = 2 → pktW1 q 46 31 < e.p → gatherOpen s p (pktW1 q 63 52) (pktW1 q 46 31) = some g →
      let ps := gatherPieces s p (shardDesc s e (pktW1 q 46 31)) (g.epoch % 2)
      let base := pktW1 q 30 0 / 8
      ∃ t h, exec .redGatherReceive s = .next t ∧ t.arrived = rest ∧
        nget (part t p).gathers (gatherKey (pktW1 q 63 52) (pktW1 q 46 31)) = some h ∧ h.complete = g.complete ∧
        (∀ i, i < q.payload.length → base + i < cdiv (piecesLen ps) 8 →
          nget h.got (base + i) = some (deliveredData (nth q.payload i (codeWord 0)))) ∧
        (∀ a, a < 0x1000000000000 → (∀ x ∈ ps, a < x.1 ∨ x.1 + x.2 ≤ a) → rdByte t a = rdByte s a)) ∧
    (∀ j ok, Arrived s q rest 5 → pktW1 q 51 48 = 7 → gatherMatch s p (pktW1 q 63 52) e (pktWord q 0) = some (j, ok) →
      ∃ t h, exec .gatherHopReceive s = .next t ∧ t.arrived = rest ∧ nget (part t p).gathers (gatherKey (pktW1 q 63 52) j) = some h ∧
        h.complete = ok ∧ h.failed = !ok))

/-- R289 to R292: a port goes from DOWN over DETECT, TRAIN and INIT to ACTIVE, and fails after eight attempts. -/
def Obligations.PortsComeUp : Prop :=
  ∀ (n : PortIx) (s : State), isFrozen s = false →
    (pState s n = pDOWN → 9 ≤ fget s F.HUB_BOOT_STAT.PHASE → (port s n).attempts < 8 → (port s n).since + 125000 ≤ s.tick →
      ∃ t, exec (.portDetect n) s = .next t ∧ PortEnters s t n pDETECT) ∧
    (pState s n = pDOWN → 9 ≤ fget s F.HUB_BOOT_STAT.PHASE → 8 ≤ (port s n).attempts →
      ∃ t, exec (.portDetect n) s = .next t ∧ PortEnters s t n pFAILED ∧ Logged s t) ∧
    (∀ l : LaneIx, pState s n = pDETECT → laneOk s n l = true → ∃ t, exec (.laneSignal n l) s = .next t ∧ PortEnters s t n pTRAIN) ∧
    (∀ m : BitVec 4, pState s n = pTRAIN →
      (∃ t, exec (.phyTrainDone n m) s = .next t ∧ PortEnters s t n pINIT ∧ (port t n).locked = BitVec.ofNat 4 (usable s n m.toNat)) ∧
      ((port s n).since + 6250000 ≤ s.tick →
        ∃ t, exec (.phyTrainTimeout n m) s = .next t ∧ PortEnters s t n pINIT ∧ (port t n).locked = BitVec.ofNat 4 (usable s n m.toNat))) ∧
    (∀ m : BitVec 4, pState s n = pRETRAIN → ∃ t, exec (.phyTrainDone n m) s = .next t ∧ t = { s with ports := t.ports } ∧
      (port t n).trained = true ∧ (port t n).locked = BitVec.ofNat 4 (usable s n m.toNat)) ∧
    (∀ (x : PeerInit) (w lanes v : Nat), pState s n = pINIT ∨ (pState s n = pRETRAIN ∧ (port s n).trained = true) →
      fbit s F.LNK_STATION.ASSIGNED 0 (n.val / 6) = true →
      widthOf (usable s n (port s n).locked.toNat &&& x.good.toNat) (min (psget s F.LNK_PCFG.MAXW n) x.maxw.toNat) = some (w, lanes) →
      versionOf (psget s F.LNK_PCFG.VERMAX n) x = some v →
      ∃ t, exec (.initFlit n x) s = .next t ∧ PortEnters s t n pACTIVE ∧ pget t F.LNK_PSTAT.WIDTH n = w ∧ pget t F.LNK_PSTAT.LANES n = lanes ∧
        pget t F.LNK_PSTAT.VERSION n = v ∧ pget t F.LNK_PEER.STATION n = x.station.toNat ∧ pget t F.LNK_PEER.PORT n = x.port.toNat ∧ Logged s t) ∧
    (pState s n = pINIT → fbit s F.LNK_STATION.ASSIGNED 0 (n.val / 6) = true → (port s n).since + 125000 ≤ s.tick →
      ∃ t, exec (.initTimeout n) s = .next t ∧ PortEnters s t n pDOWN ∧ (port t n).attempts = (port s n).attempts + 1)

/-- R267, R289, R291, R295, R311: a loss of FEC lock on a lane in use and RETRAIN take an ACTIVE port to RETRAIN, the limit of a retrain takes it
DOWN, RETRAIN starts a FAILED port again, ENABLE 0 disables any port and ENABLE 1 starts a disabled one. -/
def Obligations.PortsRetrainAndStop : Prop :=
  ∀ (n : PortIx) (s : State), isFrozen s = false →
    (∀ l : LaneIx, pState s n = pACTIVE → natBit (pget s F.LNK_PSTAT.LANES n) l = true →
      ∃ t, exec (.fecLockLoss n l) s = .next t ∧ PortEnters s t n pRETRAIN) ∧
    (pState s n = pRETRAIN → (port s n).since + 6375000 ≤ s.tick →
      ∃ t, exec (.retrainTimeout n) s = .next t ∧ PortLeaves s t n pDOWN ∧ pget t F.LNK_PEVT.DOWN n = 1) ∧
    (pState s n = pACTIVE → ∃ t, exec (.portRetrain .meridian n) s = .next t ∧ PortEnters s t n pRETRAIN ∧ (port t n).trained = false) ∧
    (pState s n = pFAILED → ∃ t, exec (.portRetrain .meridian n) s = .next t ∧ PortEnters s t n pDETECT ∧ (port t n).attempts = 0) ∧
    (pState s n = pACTIVE ∨ pState s n = pRETRAIN →
      ∃ t, exec (.portDisable .meridian n) s = .next t ∧ PortLeaves s t n pDISABLED ∧ pget t F.LNK_PCFG.ENABLE n = 0) ∧
    (pState s n ≠ pDISABLED → pState s n ≠ pACTIVE → pState s n ≠ pRETRAIN →
      ∃ t, exec (.portDisable .meridian n) s = .next t ∧ PortEnters s t n pDISABLED ∧ pget t F.LNK_PCFG.ENABLE n = 0) ∧
    (pState s n = pDISABLED → ∃ t, exec (.portEnable .meridian n) s = .next t ∧ PortEnters s t n pDETECT ∧ pget t F.LNK_PCFG.ENABLE n = 1) ∧
    (∀ src, src ≠ .meridian → exec (.portRetrain src n) s = .next s ∧ exec (.portDisable src n) s = .next s ∧ exec (.portEnable src n) s = .next s)

/-- R293, R294, R296, R299, R300: a flit in sequence delivers its packet to the switch, with the way that its header gets; one with a bad CRC is
refused; the switch hands a packet for this station to its units, and one for another station, also one of which more words are to come, to the port
of its route, for credits: its words leave in flits or wait behind those that wait. -/
def Obligations.PacketsCrossTheSwitch : Prop :=
  (∀ (n : PortIx) (f : Flit) (q : Packet) (s : State), isFrozen s = false → pState s n = pACTIVE →
    (f.fecLanes = 0 → f.crc = flitCrc f.hdr f.words → hdrBits f.hdr 71 68 = 1 → hdrBits f.hdr 67 56 = ((port s n).lastIn + 1) % 4096 →
      hdrBits f.hdr 20 20 = 0 → (port s n).partialPkt = [] → (∀ x ∈ s.switch, x.port = n.val → x.whole = true) → OnePacket f q → pktType q ≠ 8 →
      ∃ t, exec (.flitReceive n f) s = .next t ∧
        t.switch = s.switch ++ [⟨q, n, bitsOf (deliveredData q.h0) 27 25, wayOf s n (pktDst q), s.tick, true, none⟩] ∧
        (port t n).lastIn = ((port s n).lastIn + 1) % 4096 ∧ (port t n).nakOut = false ∧ (port t n).partialPkt = [] ∧
        pget t F.LNK_RXBYTES.COUNT n = (pget s F.LNK_RXBYTES.COUNT n + 256) % 2 ^ 64 ∧ SameStores s t ∧ t.clusters = s.clusters) ∧
    (f.crc ≠ flitCrc f.hdr f.words →
      ∃ t, exec (.flitReceive n f) s = .next t ∧ t.switch = s.switch ∧ (port t n).nakOut = true ∧ (port t n).lastIn = (port s n).lastIn ∧
        t.arrived = s.arrived)) ∧
  (∀ (i : SwitchInput) (vc : VcIx) (x : Queued) (rest : List Queued) (s : State), isFrozen s = false → s.switch = x :: rest →
    offered i vc x = true → x.out = none → headOkay x.pkt = true →
    (x.route = some 24 → x.whole = true → (classOfType (pktType x.pkt)).isSome = true →
      ∃ t, exec (.packetForward i vc) s = .next t ∧ t.switch = rest ∧ t.arrived = s.arrived ++ [(x.pkt, x.port)] ∧ SameStores s t ∧
        t.clusters = s.clusters) ∧
    (∀ out, out < 24 → x.route = some out →
      let w := hopVc s x out
      canSend s out w x.pkt = true → servedNext s out x = true →
      ∃ t l, exec (.packetForward i vc) s = .next t ∧ t.switch = (if x.whole then rest else { x with out := some out } :: rest) ∧
        t.arrived = s.arrived ∧ creditOf (port t out) w = creditOf (port s out) w - unitsOf x.pkt ∧
        (port t out).replay = (port s out).replay ++ l ∧
        l.flatMap (fun f => f.2.1.words) ++ (port t out).txWords.map (·.w) =
          (port s out).txWords.map (·.w) ++ (txOf (withVc x.pkt w) x.whole).map (·.w)) ∧
    (x.route = none → x.whole = true →
      ∃ t, exec (.packetForward i vc) s = .next t ∧ t.switch = rest ∧ t.arrived = s.arrived ∧
        fget t F.LNK_ROUTE_MISS.COUNT 0 (dieOf x.port) = min (fget s F.LNK_ROUTE_MISS.COUNT 0 (dieOf x.port) + 1) (2 ^ 32 - 1)))

/-- R249, R250, R296 to R298: a WRITE that a partition accepts is stored and acknowledged, another is refused with cause 1; a WACK ends its
WRITE; a REFUSE, or none within the limit, not even one that has just arrived, ends it and halts
its channel; an E_NAK has it sent once more. -/
def Obligations.WritesAreAcknowledged : Prop :=
  (∀ (s : State) (q : Packet) (rest : List (Packet × Nat)), isFrozen s = false → isStopped s = false → Arrived s q rest 1 →
    let a := pktW1 q 47 0
    (remoteAccepts s a (writeSpan q) = true →
      ∃ t r, exec .writeReceive s = .next t ∧ t.arrived = rest ∧ SendsOne s t (pktSrc q) 2 r ∧ pktW1 r 16 0 = pktTid q ∧
        (∀ k i, WordByte q k i → rdByte t (a + 8 * k + i) = BitVec.ofNat 8 (bitsOf (deliveredData (nth q.payload k (codeWord 0))) (8 * i + 7) (8 * i))) ∧
        (∀ b, b < 0x1000000000000 → (∀ k i, WordByte q k i → b ≠ a + 8 * k + i) → rdByte t b = rdByte s b)) ∧
    (remoteAccepts s a (writeSpan q) = false →
      ∃ t r, exec .writeReceive s = .next t ∧ t.arrived = rest ∧ SendsOne s t (pktSrc q) 3 r ∧ pktW1 r 16 0 = pktTid q ∧ pktW1 r 23 21 = 1 ∧
        SameStores s t)) ∧
  (∀ (s : State) (q : Packet) (rest : List (Packet × Nat)) (x : Sent), isFrozen s = false → nget s.sent (pktW1 q 16 0) = some x → x.dst = pktSrc q →
    (Arrived s q rest 2 → pktW1 q 20 17 = 0 →
      ∃ t, exec .wackReceive s = .next t ∧ t.arrived = rest ∧ nget t.sent (pktW1 q 16 0) = none) ∧
    (Arrived s q rest 3 →
      ∃ t, exec .refuseReceive s = .next t ∧ t.arrived = rest ∧ nget t.sent (pktW1 q 16 0) = none ∧ s.fbOffered < t.fbOffered) ∧
    (Arrived s q rest 9 → x.resent = false →
      ∃ t r, exec .eNakReceive s = .next t ∧ t.arrived = rest ∧ SendsOne s t x.dst 1 r ∧ pktTid r = pktW1 q 16 0 ∧
        nget t.sent (pktW1 q 16 0) = some { x with resent := true })) ∧
  (∀ (s : State) (tid : BitVec 17) (x : Sent), isFrozen s = false → nget s.sent tid.toNat = some x →
    x.since + sget s F.LNK_E2E_TMO.TICKS 0 (homeDie s x.dst) ≤ s.tick → (∀ a ∈ s.arrived, acknowledges tid.toNat x.dst a.1 = false) →
    ∃ t, exec (.e2eTimeout tid) s = .next t ∧ nget t.sent tid.toNat = none ∧ s.fbOffered < t.fbOffered ∧
      ∀ o, x.kind = 0 → x.who < 32 → (clu s x.who).inflight.find? (fun o => o.id = x.op) = some o →
        fget s F.SEQ_DMA_STAT.STATE (bitsOf o.f 51 50) x.who ≠ 2 →
        fget t F.SEQ_DMA_STAT.STATE (bitsOf o.f 51 50) x.who = 2 ∧ fget t F.SEQ_DMA_STAT.CAUSE (bitsOf o.f 51 50) x.who = 3 ∧
        fget t F.SEQ_DMA_ERRADDR.ADDR (bitsOf o.f 51 50) x.who = x.addr % 2 ^ 48)

/-- R304, R305, R342: a child's BAR_UP is counted once; BAR_DOWN of the present generation sets the release tick and goes on to every child;
at that tick the generation ends, a verdict becomes known, and a commit flips the partition; what HC2 then does
waits until it runs. -/
def Obligations.BarriersComeUpAndDown : Prop :=
  (∀ (s : State) (q : Packet) (rest : List (Packet × Nat)) (k : Nat), isFrozen s = false → barOf s q = some k → k < 63 →
    pktW1 q 21 6 = barGen s k →
    (Arrived s q rest 6 → (bar s k).ups.contains (pktSrc q) = false →
      ∃ t, exec .barUpReceive s = .next t ∧ t.arrived = rest ∧ (bar t k).ups = (bar s k).ups ++ [pktSrc q] ∧
        (∀ j, j ≠ k → bar t j = bar s j) ∧ SameStores s t) ∧
    (Arrived s q rest 6 → (bar s k).ups.contains (pktSrc q) = true →
      ∃ t, exec .barUpReceive s = .next t ∧ t.arrived = rest ∧ t.bars = s.bars ∧
        fget t F.LNK_BAR_DISC.COUNT = min (fget s F.LNK_BAR_DISC.COUNT + 1) (2 ^ 32 - 1)) ∧
    (Arrived s q rest 7 → barSent s k = true → barRoot s k = false → q.payload.length ≤ 1 → (bar s k).release = none →
      tickNow s ≤ pktWord q 0 + sget s F.PWR_BAR_OFFSET.TICKS →
      ∃ (t : State) (l : List Packet), exec .barDownReceive s = .next t ∧ t.arrived = rest ∧ (bar t k).release = some (pktWord q 0) ∧
        (bar t k).offset = sget s F.PWR_BAR_OFFSET.TICKS ∧ SwitchTakes s t l ∧ l.map pktDst = (bar s k).ups.map (fun d => d % 65536) ∧
        (∀ j, j ≠ k → bar t j = bar s j) ∧ SameStores s t)) ∧
  (∀ (b : BarrierId) (tr : Nat) (s : State), isFrozen s = false → (bar s (barKey b)).release = some tr → releaseTick s (barKey b) tr ≤ tickNow s →
    downDone s (barKey b) = true →
    (∀ n, b = .prog n → ∃ t, exec (.barrierRelease b) s = .next t ∧ barGen t n = (barGen s n + 1) % 65536 ∧ bar t n = .reset ∧
      (∀ c st x, c < 32 → (stream s c st).block = some (.barWait n x) → nget (clu s c).barLast n = some (barGen s n) →
        (stream t c st).block = none)) ∧
    (∀ p, b = .verdict p → barGen s (64 + p.val) = 0 → ∃ t, exec (.barrierRelease b) s = .next t ∧ (part t p).verdictReady = (part s p).atVerdict ∧
      (part t p).combined = (bar s (64 + p.val)).payload ∧ barGen t (64 + p.val) = 1) ∧
    (∀ p, b = .verdict p → barGen s (64 + p.val) ≠ 0 → ∃ t, exec (.barrierRelease b) s = .next t ∧
      fget t F.CRN_EPOCH.EPOCH p = fget s F.CRN_ARRIVED.STEP p ∧ (part t p).committing = false ∧
      (coreRuns s 2 = true → (part t p).wanted = true) ∧ (coreRuns s 2 = false → (part t p).flipWaits = true)))

/-- R302, R306, R307: a station number reaches every link die while no port is up; the master's stamp goes to every child port; a follower that
is not locked takes the stamp and the latency for its counter, and locks at the fourth good one. -/
def Obligations.TicksAndStationNumbers : Prop :=
  (∀ (v : BitVec 32) (s : State), isFrozen s = false →
    ((∀ n, n < 24 → pState s n ≠ pACTIVE ∧ pState s n ≠ pRETRAIN) →
      ∃ t, exec (.stationAssign .meridian v) s = .next t ∧ SameStores s t ∧ t.clusters = s.clusters ∧ ∀ d, d < 4 →
        fget t F.LNK_STATION.STATION 0 d = natBits v.toNat 15 0 ∧ fget t F.LNK_STATION.ASSIGNED 0 d = natBits v.toNat 16 16) ∧
    ((∃ n, n < 24 ∧ (pState s n = pACTIVE ∨ pState s n = pRETRAIN)) → exec (.stationAssign .meridian v) s = .next s)) ∧
  (∀ s : State, isFrozen s = false → sget s F.TCK_CTL.ROLE = 1 → s.tickSent + sget s F.TCK_PERIOD.TICKS ≤ s.tick →
    ∃ t, exec .tsyncSend s = .next t ∧ t.tickSent = s.tick ∧ SameStores s t ∧ ∀ n, n < 24 →
      let q := mkPacket s (pget s F.LNK_PEER.STATION n) 8 0 (BitVec.ofNat 64 (tickNow s)) []
      (natBit (sget s F.TCK_CTL.CHILD) n = true → canSend s n 4 q = true → (port s n).txWords = [] →
        ∃ y, (port t n).replay = (port s n).replay ++ [y] ∧ y.2.1.words = [(withVc q 4).h0, (withVc q 4).h1]) ∧
      (natBit (sget s F.TCK_CTL.CHILD) n = false → port t n = port s n)) ∧
  (∀ (sub : Nat) (s : State) (q : Packet) (n : Nat) (rest : List (Packet × Nat)), isFrozen s = false → s.arrived = (q, n) :: rest → pktType q = 8 →
    sget s F.TCK_CTL.ROLE = 2 → sget s F.TCK_CTL.PARENT = n → pState s n = pACTIVE → fget s F.TCK_STAT.LOCKED = 0 →
    let stamp := (deliveredData q.h1).toNat
    let err := tsyncErr s stamp (fget s F.TCK_LAT.LAT n) sub
    ∃ t, exec (.tsyncReceive sub) s = .next t ∧ t.arrived = rest ∧
      tickNow t = (stamp * 64 + fget s F.TCK_LAT.LAT n + 32) / 64 % 2 ^ 64 ∧
      (err.natAbs < 16 → s.tickGood = 3 → fget t F.TCK_STAT.LOCKED = 1) ∧
      (err.natAbs < 16 → s.tickGood ≠ 3 → fget t F.TCK_STAT.LOCKED = 0 ∧ t.tickGood = s.tickGood + 1) ∧
      (16 ≤ err.natAbs → fget t F.TCK_STAT.LOCKED = 0 ∧ t.tickGood = 0))

/-- R318, R324, R326, R328: scatter words and the hop trailer of the station before are noted; a wire block whose data is there becomes a sum that
the owner keeps, or bytes that go on; once all is there the digests are compared and the closure lap begins; a lone station closes. -/
def Obligations.ScatterReducesBlocks : Prop :=
  (∀ (s : State) (q : Packet) (rest : List (Packet × Nat)) (p : Nat) (e : BucketEntry) (x : Bucket), x.phase = .scatter →
    (BucketPacket s q rest 4 p e x → pktW1 q 51 50 < 2 →
      ∃ t y, exec .redScatterReceive s = .next t ∧ t.arrived = rest ∧ nget (part t p).buckets (pktW1 q 63 52) = some y ∧ SameStores s t ∧
        y.in16 = decide (pktW1 q 51 50 = 1) ∧ ∀ i, i < q.payload.length →
          nget y.incoming (wordKey (pktW1 q 46 31) (pktW1 q 30 0 / 8 + i)) = q.payload[i]?) ∧
    (BucketPacket s q rest 5 p e x → pktW1 q 51 48 = 0 →
      ∃ t, exec .hopReceive s = .next t ∧ t.arrived = rest ∧ SameStores s t ∧
        nget (part t p).buckets (pktW1 q 63 52) = some { x with hop := some (BitVec.ofNat 64 (pktWord q 0)) })) ∧
  (∀ (p : PartIx) (tag : BitVec 12) (b : Nat) (s u : State) (e : BucketEntry) (x : Bucket), isFrozen s = false → isStopped s = false →
    bucketEntry s p tag.toNat = some e → nget (part s p).buckets tag.toNat = some x → x.phase = .scatter → b < blocksOf e →
    nget x.outgoing b = none → nget x.sums b = none → (e.pos = (shardOf e b + 1) % e.p ∨ blockReady s e x b = true) →
    ReadsAll (srcRed tag.toNat) s u (contribWords s (tensOf x.sendCl x.send) b) → e.ring + 2 * e.p ≤ troubleBase 0 →
    ∃ t y, exec (.wireBlockForward p tag b) s = .next t ∧ BucketIs s t p tag.toNat y ∧ y.phase = .scatter ∧
      (shardOf e b = e.pos → nget y.sums b = some ((List.range 256).map (fun i => f32Bits (reduced u e x b i))) ∧ t.switch = s.switch) ∧
      (shardOf e b ≠ e.pos → nget y.outgoing b = some ((List.range 256).flatMap (fun i =>
          leBytes (if x.bf16 then 2 else 1) (wireEncode x.bf16 (reduced u e x b i) (wireExp (ngetD 0x7F x.working b))).code)) ∧
        ∃ l, l ≠ [] ∧ Sends s t (ringAt u e (e.pos + 1)) l)) ∧
  (∀ (p : PartIx) (tag : BitVec 12) (s : State) (e : BucketEntry) (x : Bucket), isFrozen s = false → isStopped s = false →
    bucketEntry s p tag.toNat = some e → nget (part s p).buckets tag.toNat = some x → x.phase = .scatter → allKept e x = true →
    (e.p ≠ 1 → e.pos ≠ 0 → x.hop.isSome = true → allSent e x = true →
      ∃ t, exec (.closureFinal p tag) s = .next t ∧ t.switch = s.switch ∧ SameStores s t ∧
        BucketIs s t p tag.toNat { x with phase := .lap, digestBad := decide ((recvDigest e x).map (BitVec.ofNat 64) ≠ x.hop) }) ∧
    (e.p ≠ 1 → e.pos = 0 → x.hop.isSome = true → allSent e x = true →
      ∃ t l, exec (.closureFinal p tag) s = .next t ∧ l ≠ [] ∧ Sends s t (ringAt s e 1) l ∧ SameStores s t ∧
        BucketIs s t p tag.toNat { x with phase := .lap, digestBad := decide ((recvDigest e x).map (BitVec.ofNat 64) ≠ x.hop) }) ∧
    (e.p = 1 → x.nf = 0 → x.miss = false → x.short = 0 → x.digestBad = false → e.upd = false →
      ∃ t y, exec (.closureFinal p tag) s = .next t ∧ nget (part t p).buckets tag.toNat = some y ∧ y.phase = .closed))

/-- R322, R323, R325, R328, R329, R334: the laps around the ring. A table or a status that arrives is combined with this station's own and goes on; the
last position turns it around; the final status decides the run; a bucket not closed in time faults. -/
def Obligations.LapsDecideTheBucket : Prop :=
  (∀ (s : State) (q : Packet) (rest : List (Packet × Nat)) (p : Nat) (e : BucketEntry) (x : Bucket), BucketPacket s q rest 5 p e x →
    let tag := pktW1 q 63 52
    let next := ringAt s e (e.pos + 1)
    let ts := tensOf x.sendCl x.send
    (pktW1 q 51 48 = 1 → x.phase = .lap → e.pos ≠ 0 →
      ∃ t r l, exec .upStatusReceive s = .next t ∧ t.arrived = rest ∧ SwitchTakes s t (r :: l) ∧ pktDst r = next % 65536 ∧
        pktType r = 5 ∧ pktW1 r 51 48 = (if e.pos = e.p - 1 then 3 else 1) ∧ pktWord r 0 = statusJoin (pktWord q 0) (ownStatus e x) % 2 ^ 64) ∧
    (pktW1 q 51 48 = 2 → x.phase = .lap → e.pos ≠ 0 → (∀ y ∈ x.mmax, y.2 < 256) → OneTable s next (blocksOf e) q → x.status = none →
      ∃ t, exec .upMaxReceive s = .next t ∧ t.arrived = rest ∧ PassesTable s t next (blocksOf e) q (fun b m => max m (ngetD 0 x.mmax b)) ∧
        (e.pos = e.p - 1 → ∃ y, nget (part t p).buckets tag = some y ∧
          ∀ z ∈ tableBytes q (blocksOf e), nget y.downMax z.1 = some (max z.2 (ngetD 0 x.mmax z.1)))) ∧
    (pktW1 q 51 48 = 4 → x.phase = .lap → e.pos + 1 ≠ e.p → x.status = none →
      ∃ t y, exec .downMaxReceive s = .next t ∧ t.arrived = rest ∧ nget (part t p).buckets tag = some y ∧
        ∀ z ∈ tableBytes q (blocksOf e), nget y.downMax z.1 = some z.2) ∧
    (pktW1 q 51 48 = 5 → x.phase = .pre → e.pos ≠ 0 → ∀ u,
      (let v := acceptPacket { s with arrived := rest } q
       ReadsAll (srcRed tag) v u ((tableBytes q (blocksOf e)).flatMap (fun z => contribWords v ts z.1))) →
      let next := ringAt u e (e.pos + 1)
      OneTable u next (blocksOf e) q → (∀ z ∈ tableBytes q (blocksOf e), contribMax u ts z.1 < 256) →
      (e.pos ≠ e.p - 1 →
        ∃ t, exec .preUpReceive s = .next t ∧ t.arrived = rest ∧ PassesTable s t next (blocksOf e) q (fun b m => max m (contribMax u ts b))) ∧
      (e.pos = e.p - 1 →
        ∃ t y, exec .preUpReceive s = .next t ∧ t.arrived = rest ∧ nget (part t p).buckets tag = some y ∧
          ∀ z ∈ tableBytes q (blocksOf e), nget y.agreed z.1 = some (agreedByte (max z.2 (contribMax u ts z.1)) e.p))) ∧
    (pktW1 q 51 48 = 6 → x.phase = .pre → e.pos + 1 ≠ e.p →
      ∃ t y, exec .preDownReceive s = .next t ∧ t.arrived = rest ∧ nget (part t p).buckets tag = some y ∧
        ∀ z ∈ tableBytes q (blocksOf e), nget y.agreed z.1 = some z.2 ∧ nget y.working z.1 = some z.2) ∧
    (pktW1 q 51 48 = 3 → x.phase = .lap → e.pos + 1 ≠ e.p → x.status = none → x.miss = false →
      let w := pktWord q 0
      let Is := fun (t : State) (P : Bucket → Prop) => ∃ y, nget (part t p).buckets tag = some y ∧ P y
      ∃ t, exec .downStatusReceive s = .next t ∧ t.arrived = rest ∧
        (natBit w 2 = true → x.digUsed = false → Is t (fun y => y.phase = .scatter ∧ y.run = x.run + 1 ∧ y.digUsed = true)) ∧
        (natBit w 2 = true → x.digUsed = true → Is t (fun y => y.phase = .faulted) ∧ (part t p).fault.isSome = true) ∧
        (natBit w 2 = false → natBit w 0 = true → x.scaleRuns < 2 → Is t (fun y => y.phase = .scatter ∧ y.run = x.run + 1 ∧
          y.scaleRuns = x.scaleRuns + 1 ∧ y.working = x.working.map (fun z => (z.1, min (z.2 + natBits w 31 24) 0xFE)))) ∧
        (natBit w 2 = false → natBit w 0 = true → 2 ≤ x.scaleRuns → Is t (fun y => y.phase = .scatter ∧ y.run = x.run + 1 ∧ y.bf16 = true)) ∧
        (natBit w 2 = false → natBit w 0 = false → (∃ b, b < blocksOf e ∧ nget x.downMax b = none) →
          Is t (fun y => y.phase = .lap ∧ y.status = some (BitVec.ofNat 64 w))) ∧
        (natBit w 2 = false → natBit w 0 = false → (∀ b, b < blocksOf e → (nget x.downMax b).isSome = true) → e.upd = false →
          Is t (fun y => y.phase = .closed)))) ∧
  (∀ (p : PartIx) (tag : BitVec 12) (s : State) (e : BucketEntry) (x : Bucket), isFrozen s = false → isStopped s = false →
    bucketEntry s p tag.toNat = some e → nget (part s p).buckets tag.toNat = some x → bucketLive x = true →
    x.since + sget s F.LNK_RED_TMO.TICKS ≤ s.tick →
    ∃ t, exec (.bucketTimeout p tag) s = .next t ∧ nget (part t p).buckets tag.toNat = some { x with phase := .faulted } ∧
      (part t p).fault.isSome = true ∧ fget t F.LNK_RED_EVT.FAULT 0 (redDie tag.toNat) = 1)

/-- R340, R341, R344, R354, R361 to R364: HC2 arrives at the commit barrier once the step is ready; an arrival not released in time, and a mirror
send not acknowledged in time, are reported; a buddy register written starts a failed send again; a checkpoint image that has been copied, hashed and sealed heads its area. -/
def Obligations.CommitsMirrorsAndCheckpoints : Prop :=
  ∀ (p : PartIx) (s : State), coreActs s 2 = true →
    (∀ u, isStopped s = false → commitReady s p = true → ReadsAll (srcCore 2) s u (recordReads s p) → (bar s (64 + p.val)).locals = [] → (bar s (64 + p.val)).left = false →
      ∃ t, exec (.commitArrive p) s = .next t ∧ fget t F.CRN_ARRIVED.STEP p = (part s p).step % 2 ^ 64 ∧ (part t p).commitSince = s.tick ∧
        (bar t (64 + p.val)).locals = [0] ∧ fget t F.CRN_EPOCH.EPOCH p = fget s F.CRN_EPOCH.EPOCH p) ∧
    ((part s p).committing = true → (part s p).arrived = true → (part s p).timeoutSent = false →
      (part s p).commitSince + sget s F.CRN_COMMIT_TMO.TICKS p ≤ s.tick →
      ∃ t, exec (.commitTimeout p) s = .next t ∧ fget t F.CRN_EVT.COMMIT_TIMEOUT p = 1 ∧ (part t p).timeoutSent = true ∧
        (part t p).committing = true ∧ s.fbOffered < t.fbOffered) ∧
    (∀ m, (part s p).mirror = some m → m.since + sget s F.CRN_COMMIT_TMO.TICKS p ≤ s.tick →
      ∃ t, exec (.mirrorSendTimeout p) s = .next t ∧ fget t F.CRN_MIRSTAT.SEND p = 3 ∧ fget t F.CRN_EVT.MIRROR_FAIL p = 1 ∧
        (part t p).mirror = none ∧ (∀ x ∈ t.sent, ¬(x.2.kind = 1 ∧ x.2.who = p.val)) ∧ s.fbOffered < t.fbOffered) ∧
    (∀ v : Word, fget s F.CRN_MIRSTAT.SEND p ≠ 3 →
      (∃ t, exec (.buddyWrite .meridian p .buddy v) s = .next t ∧ t = { s with regs := t.regs } ∧ SameRegs [regAddr .CRN_BUDDY p 0] s t ∧
        fget t F.CRN_BUDDY.STATION p = natBits v.toNat 15 0 ∧ fget t F.CRN_BUDDY.VALID p = natBits v.toNat 16 16) ∧
      (∃ t, exec (.buddyWrite .meridian p .buddyAddr v) s = .next t ∧ t = { s with regs := t.regs } ∧ SameRegs [regAddr .CRN_BUDDYADDR p 0] s t ∧
        fget t F.CRN_BUDDYADDR.ADDR p = natBits v.toNat 47 20)) ∧
    (∀ v : Word, fget s F.CRN_MIRSTAT.SEND p = 3 → natBit v.toNat 16 = true → nget s.held (regAddr .CRN_BUDDY p 0) = none →
      ∃ t, exec (.buddyWrite .meridian p .buddy v) s = .next t ∧ fget t F.CRN_MIRSTAT.SEND p = 1 ∧
        (part t p).mirror = some ⟨natBits v.toNat 15 0, s.tick⟩) ∧
    (isStopped s = false → fget s F.CRN_CKSTAT.STAGE p = 1 ∨ fget s F.CRN_CKSTAT.STAGE p = 2 →
      2 * MiB ≤ areaSize s p → areaBase s p + areaSize s p ≤ 0x400000000000 →
      let w := finishCopy s p
      let E := fget s F.CRN_CKEPOCH.EPOCH p
      fget w F.CRN_CKSTAT.STAGE p = 2 → ∀ u, ReadsAll (srcEdge (edgeOf w (areaBase w p)) 3) w u
        (((imageRanges w p E).filter (fun r => r.2.1 == 3)).map (fun r => (r.2.2.1, r.2.2.1 + r.2.2.2))) →
      imageBytes u p E (storeChunks u p E) + MiB ≤ areaSize s p →
      ∃ t, exec (.ckptStaged p) s = .next t ∧ fget t F.CRN_CKSTAT.STAGE p = 3 ∧ rdNat t (areaBase s p) 4 = 0x4E524143 ∧
        rdNat t (areaBase s p + 16) 8 = E ∧ s.fbOffered < t.fbOffered)

/-- R345, R346, R360, R366, R367, R369, R378: what each command of the control node to Cairn does in the states that allow it, and that it is rejected
in the others; while HC2 does not run it waits; and a restore ends either way. -/
def Obligations.CairnCommands : Prop :=
  (∀ (p : PartIx) (s : State), coreActs s 2 = true →
    let arg := (reg s .CRN_ARG p).toNat
    let E := fget s F.CRN_EPOCH.EPOCH p
    let st := fget s F.CRN_STAT.STATE p
    (∃ t, exec (.halt .meridian p) s = .next t ∧ fget t F.CRN_STAT.STATE p = 2 ∧ (part t p).running = false ∧ (part t p).wanted = false ∧
      (part t p).committing = false ∧ fget t F.HUB_TRB_STAT.HOLDING p = 0 ∧ fget t F.CRN_EPOCH.EPOCH p = E ∧
      ∀ c ∈ clustersOf s p, (clu t c).inflight = [] ∧ ∀ x, (stream t c x).running = false) ∧
    (st = 2 → fget s F.CRN_ARRIVED.STEP p = E + 1 →
      ∃ t, exec (.flip .meridian p) s = .next t ∧ fget t F.CRN_EPOCH.EPOCH p = E + 1 ∧ fget t F.CRN_STAT.STATE p = 2 ∧ (part t p).ckptOwed = true ∧ Logged s t) ∧
    (st ≠ 2 → ∃ t, exec (.flip .meridian p) s = .next t ∧ CommandRejected s t p) ∧
    (st = 2 ∨ st = 4 →
      let r := readRecord s (outSlot s p E)
      (∃ t, exec (.resume .meridian p) s = .next t ∧
        (recordFail s p E r = none → fget t F.CRN_STAT.STATE p = 1 ∧ (part t p).wanted = true ∧ fget t F.CRN_EPOCH.EPOCH p = E) ∧
        (recordFail s p E r ≠ none → fget t F.CRN_STAT.STATE p = st ∧ (part t p).wanted = (part s p).wanted ∧ s.fbOffered < t.fbOffered)) ∧
      (let r := readRecord s arg
       within arg r.length (winLo s p) (winHi s p) = true → outSlot s p E + r.length ≤ 2 ^ 48 →
       ∃ t, exec (.mirrorLoad .meridian p) s = .next t ∧ fget t F.CRN_STAT.STATE p = st ∧
         (recordFail s p E r = none → recordSkews r = [] →
           ∀ i, i < r.length → rdByte t (outSlot s p E + i) = nth r i 0) ∧
         (recordFail s p E r ≠ none → s.fbOffered < t.fbOffered))) ∧
    (st ≠ 2 → st ≠ 4 → (∃ t, exec (.resume .meridian p) s = .next t ∧ CommandRejected s t p) ∧
      (∃ t, exec (.mirrorLoad .meridian p) s = .next t ∧ CommandRejected s t p)) ∧
    (st = 2 ∨ (st = 3 ∧ 3 ≤ fget s F.CRN_REST.RESULT p) →
      ∃ t, exec (.restore .meridian p) s = .next t ∧ fget t F.CRN_STAT.STATE p = 3 ∧ fget t F.CRN_REST.RESULT p = 1 ∧ (part t p).restoreEpoch = arg) ∧
    (st = 3 → fget s F.CRN_REST.RESULT p = 1 →
      let c := (part s p).restoreEpoch
      ∃ t, exec (.restoreDone p) s = .next t ∧ s.fbOffered < t.fbOffered ∧
        (restoreFail s p c (viewImage s p) = none → fget t F.CRN_STAT.STATE p = 4 ∧ fget t F.CRN_REST.RESULT p = 2 ∧
          fget t F.CRN_EPOCH.EPOCH p = c % 2 ^ 64 ∧ fget t F.CRN_ARRIVED.STEP p = c % 2 ^ 64) ∧
        (∀ k i, restoreFail s p c (viewImage s p) = some (k, i) → fget t F.CRN_STAT.STATE p = 3 ∧ fget t F.CRN_REST.RESULT p = k % 16 ∧
          fget t F.CRN_EVT.RESTORE_BAD p = 1 ∧ fget t F.CRN_EPOCH.EPOCH p = E)) ∧
    (st = 1 ∨ st = 2 → E < arg →
      ∃ t, exec (.ckptAt .meridian p) s = .next t ∧ t = { s with parts := t.parts } ∧ SameParts p s t ∧
        part t p = { part s p with ckptAt := (part t p).ckptAt } ∧ ∀ n, n ∈ (part t p).ckptAt ↔ n = arg ∨ n ∈ (part s p).ckptAt) ∧
    (arg ≤ E → ∃ t, exec (.ckptAt .meridian p) s = .next t ∧ CommandRejected s t p) ∧
    (fget s F.CRN_CKSTAT.STAGE p = 3 → arg = fget s F.CRN_CKEPOCH.EPOCH p →
      ∃ t, exec (.drained .meridian p) s = .next t ∧ t = { s with regs := t.regs } ∧ SameRegs [regAddr .CRN_CKSTAT p 0] s t ∧
        fget t F.CRN_CKSTAT.DRAINED p = 1 ∧ fget t F.CRN_CKSTAT.STAGE p = 3) ∧
    (st = 0 → ∃ t, exec (.setEpoch .meridian p) s = .next t ∧ fget t F.CRN_EPOCH.EPOCH p = arg ∧ fget t F.CRN_ARRIVED.STEP p = arg ∧
      (part t p).epochSet = true ∧ fget t F.CRN_STAT.STATE p = 0) ∧
    (st ≠ 0 → ∃ t, exec (.setEpoch .meridian p) s = .next t ∧ CommandRejected s t p)) ∧
  (∀ (p : PartIx) (s : State), isFrozen s = false → coreRuns s 2 = false →
    ∀ c ∈ [(Instr.halt .meridian p, 1), (.flip .meridian p, 2), (.resume .meridian p, 3), (.mirrorLoad .meridian p, 4), (.restore .meridian p, 5),
      (.ckptAt .meridian p, 6), (.drained .meridian p, 7), (.setEpoch .meridian p, 8)],
      ∃ t, exec c.1 s = .next t ∧ t = { s with parts := t.parts } ∧ SameParts p s t ∧
        part t p = { part s p with commands := (part s p).commands ++ [c.2] })

/-- R382, R383, R391, R392, R394, R401, R402: a sample adds the whole µJ of each supply to its counter and keeps the rest; a governor period chooses the
highest setting that fits, which becomes pending or is in force already; a sensor at 115 °C stops the P40; a pending change takes effect at an
aligned boundary; a droop stretches its cluster's clock for HOLD ticks. -/
def Obligations.EnergyIsCountedAndGoverned : Prop :=
  (∀ (x : EnergySample) (s : State), isFrozen s = false → s.tick % 125 = 0 → s.power.sampled ≠ s.tick + 1 → x.doms.length = 50 → x.mems.length = 8 →
    let got := fun (key : Nat) (y : Sampled) => ngetD 0 s.power.residue key + y.mv * y.ma
    ∃ t, exec (.energySample x) s = .next t ∧ t.power.sampled = s.tick + 1 ∧ SameStores s t ∧ t.clusters = s.clusters ∧
      (∀ j y, x.doms[j]? = some y → fget t F.PWR_DOM.UJ j = (fget s F.PWR_DOM.UJ j + got j y / 1000000) % 2 ^ 64 ∧
        ngetD 0 t.power.residue j = got j y % 1000000 ∧ fget t F.PWR_SAMP.MV j = min y.mv 65535 ∧ fget t F.PWR_SAMP.MA j = min y.ma 65535) ∧
      (∀ e y, x.mems[e]? = some y → fget t F.PWR_MEM.UJ e = (fget s F.PWR_MEM.UJ e + got (50 + e) y / 1000000) % 2 ^ 64 ∧
        ngetD 0 t.power.residue (50 + e) = got (50 + e) y % 1000000) ∧
      fget t F.PWR_IN.UJ = (fget s F.PWR_IN.UJ + got 58 x.input / 1000000) % 2 ^ 64 ∧
      ngetD 0 t.power.residue 58 = got 58 x.input % 1000000) ∧
  (∀ s : State, isFrozen s = false → s.tick % 1250 = 0 → s.power.period ≠ s.tick + 1 →
    (vfKnown s = true → s.power.ceiling = none →
      let h := (fget s F.PWR_IN.UJ :: s.power.hist).take 100001
      let u := { s with power := { s.power with hist := h } }
      let x := (settings.find? (estFits u (budget u) (nth h 0 0 - nth h 1 0))).getD (7, 7)
      ∃ t, exec (.governorPeriod []) s = .next t ∧ t.power.hist = h ∧ t.power.period = s.tick + 1 ∧ SameStores s t ∧ t.clusters = s.clusters ∧
        setting t = setting s ∧ (x ≠ setting s → t.power.pending = some x ∧ fget t F.PWR_GOV_STAT.PENDING = 1) ∧
        (x = setting s → t.power.pending = none ∧ fget t F.PWR_GOV_STAT.PENDING = 0)) ∧
    (∀ x : Sensor, isStopped s = false → 460 ≤ x.tj.toNat →
      ∃ t, exec (.governorPeriod [x]) s = .next t ∧ isStopped t = true ∧ fget t F.PWR_STOP_STAT.CAUSE = 2 ∧ fget t F.PWR_EVT.THERM_STOP = 1 ∧
        fget t F.PWR_THERM.TJ = x.tj.toNat ∧ fget t F.PWR_THERM.SOURCE = x.source.toNat ∧ ∀ p, p < 8 → (part t p).running = false)) ∧
  (∀ (x : Nat × Nat) (s : State), isFrozen s = false → s.power.pending = some x → x.1 < 8 → x.2 < 8 → changePermitted s = true → aligned s = true →
    voltOf s x.1 ≤ voltNow s →
    ∃ t, exec .settingChange s = .next t ∧ t = { s with regs := t.regs, power := t.power } ∧ SameRegs [regAddr .PWR_GOV_STAT 0 0] s t ∧
      setting t = x ∧ fget t F.PWR_GOV_STAT.PENDING = 0 ∧ t.power.pending = none) ∧
  (∀ (c : ClusterIx) (s : State), isFrozen s = false →
    (∃ t, exec (.droopTrip c) s = .next t ∧ (clu t c).droopHold = some s.tick ∧ SameClusters c s t ∧ SameStores s t ∧
      fget t F.PWR_DROOP_CNT.COUNT = min (fget s F.PWR_DROOP_CNT.COUNT + 1) (2 ^ 32 - 1) ∧ fget t F.PWR_EVT.DROOP = 1) ∧
    (∀ k, (clu s c).droopHold = some k → k + sget s F.PWR_DROOP_CFG.HOLD ≤ s.tick →
      ∃ t, exec (.droopHoldEnd c) s = .next t ∧ t = { s with clusters := t.clusters, power := t.power } ∧ SameClusters c s t ∧
        clu t c = { clu s c with droopHold := none } ∧ t.power.lastHoldEnd = some s.tick))

/-- R380, R381, R389, R396, R397, R403, R404: a tick adds a wake token below 64; the head of the wake queue is granted for its cost and starts its domain
or its pass; a woken domain is usable after its time; RETAIN loses what the domain does not keep; the coolant stops the P40 and a restart
with the key starts it again, or is rejected. -/
def Obligations.TokensDomainsAndStops : Prop :=
  ∀ s : State, isFrozen s = false →
    (s.power.refilled ≠ s.tick + 1 → fget s F.PWR_TOK_STAT.TOKENS < 64 →
      ∃ t, exec .tokenRefill s = .next t ∧ fget t F.PWR_TOK_STAT.TOKENS = fget s F.PWR_TOK_STAT.TOKENS + 1 ∧
        fget t F.PWR_TOK_REFILL.COUNT = (fget s F.PWR_TOK_REFILL.COUNT + 1) % 2 ^ 64 ∧ t.power = { s.power with refilled := s.tick + 1 } ∧
        SameRegs [regAddr .PWR_TOK_STAT 0 0, regAddr .PWR_TOK_REFILL 0 0] s t) ∧
    (∀ w rest, s.power.queue = w :: rest → canGrant s w = true →
      (w.code < 64 → ∃ t, exec .wakeGrant s = .next t ∧ fget t F.PWR_TOK_STAT.TOKENS = fget s F.PWR_TOK_STAT.TOKENS - wakeCost w.code ∧
        fget t F.PWR_TOK_GRANT.COUNT = (fget s F.PWR_TOK_GRANT.COUNT + wakeCost w.code) % 2 ^ 64 ∧ t.power.queue = rest ∧
        nget t.power.waking w.code = some s.tick ∧ (w.code < 32 → domState t w.code = 2) ∧ t.clusters = s.clusters) ∧
      (∀ r, 64 ≤ w.code → w.code < 192 → let c := (w.code - 64) / 4
        (clu s c).inflight.find? (fun o => o.id = w.op && !o.begun) = some r → isRemote r = false → NoStash c r → mapFault s c r = none →
        ∃ t, exec .wakeGrant s = .next t ∧ fget t F.PWR_TOK_STAT.TOKENS = fget s F.PWR_TOK_STAT.TOKENS - 1 ∧ t.power.queue = rest ∧
          fget t F.PWR_TOK_GRANT.COUNT = (fget s F.PWR_TOK_GRANT.COUNT + 1) % 2 ^ 64 ∧ SameClusters c s t ∧
          ∃ inf, (clu t c).inflight = (clu s c).inflight.map (fun o => if o.id = r.id then { o with begun := true, accInf := inf } else o))) ∧
    (∀ (d : DomainIx) (k : Nat), nget s.power.waking d = some k → k + (if d.val < 32 then 250 else 500) ≤ s.tick →
      ∃ t, exec (.domainWakeDone d) s = .next t ∧ nget t.power.waking d = none ∧
        (d.val < 32 → domState t d = 0 ∧ SameClusters d s t ∧ ∀ a, a < 0x1000000000000 →
          rdByte t a = if nearBase d ≤ a ∧ a < nearBase d + 0x2000000 then 0 else rdByte s a) ∧
        (32 ≤ d.val → t.power.on.contains d.val = true ∧ SameStores s t ∧ t.clusters = s.clusters)) ∧
    (∀ v : BitVec 32,
      (∃ t, exec (.domRetain .meridian v) s = .next t ∧
        (∀ c, c < 32 → natBit v.toNat c = true → mayRetain s c = true → domState t c = 1 ∧ (clu t c).inflight = [] ∧ (clu t c).slots = [] ∧
          ∀ a, nearBase c ≤ a → a < nearBase c + 0x2000000 → rdByte t a = 0) ∧
        (∀ c, c < 32 → natBit v.toNat c = false → domState t c = domState s c ∧ clu t c = clu s c) ∧
        (∀ a, 0x400000000000 ≤ a → a < 0x400400000000 → rdByte t a = rdByte s a) ∧
        ∀ c, c < 32 → natBit v.toNat c = true → mayRetain s c = false → domState s c ≠ 1 → domState t c = domState s c ∧
          fget t F.PWR_EVT.GATE_REJECT = 1) ∧
      (∃ t, exec (.domWake .meridian v) s = .next t ∧ t = { s with regs := t.regs, power := t.power } ∧
        ∀ c, c < 32 → natBit v.toNat c = true → domState s c = 1 → s.power.queue.any (fun w => w.code == c) = false →
          ⟨s.tick, c, 0⟩ ∈ t.power.queue) ∧
      (∃ t, exec (.pwrCapWrite .meridian v) s = .next t ∧ fget t F.PWR_CAP.CAP = max 400 (min 1200 (natBits v.toNat 10 0)) ∧
        fget t F.PWR_CAP.WINDOW = max 1 (min 1000 (natBits v.toNat 23 14)) ∧ fget t F.PWR_CAP.PEAK = max 100 (min 125 (natBits v.toNat 31 24)) ∧
        SameRegs [regAddr .PWR_CAP 0 0, regAddr .FBK_LOST 0 0] s t ∧ Logged s t) ∧
      (∃ t, exec (.restart .meridian v) s = .next t ∧ Logged s t ∧ SameStores s t ∧ t.clusters = s.clusters ∧
        if v.toNat % 65536 = 0x434C ∧ isStopped s = true ∧ fbit s F.PWR_STOP_STAT.COOL_OK = true ∧ 125000000 ≤ fget s F.PWR_STOP_STAT.OK_TICKS ∧
          (fget s F.PWR_STOP_STAT.CAUSE < 2 ∨ fget s F.PWR_THERM.TJ ≤ 360)
        then isStopped t = false ∧ setting t = (6, 0) ∧ t.power.pending = none
        else isStopped t = isStopped s ∧ setting t = setting s ∧ fget t F.PWR_EVT.RESTART_REJECT = 1)) ∧
    (isStopped s = false → 125 ≤ s.power.coolLow →
      ∃ t, exec .coolLoss s = .next t ∧ isStopped t = true ∧ fget t F.PWR_STOP_STAT.CAUSE = 1 ∧ fget t F.PWR_EVT.COOL_STOP = 1 ∧
        fget t F.HUB_ALERT.STOP = 1 ∧ ∀ p, p < 8 → (part t p).running = false)

/-- R266, R268, R270 to R274, R277, R278, R284, R470, R471: a scrubber pass starts or is rejected, and ends with its record; a place unseen for 2^40
ticks is dropped; declared places go to a record; entries of the Field Book are written four a tick, a fatal one freezes it, and THAW opens it;
the conservation check is silent while every identity holds. -/
def Obligations.IntegrityIsKept : Prop :=
  ∀ s : State, isFrozen s = false →
    (let a := fget s F.ECC_SCR_ADDR.ADDR
     let n := fget s F.ECC_SCR_LEN.BYTES
     let r := fget s F.ECC_SCR_REC.ADDR
     ∃ t, exec (.scrubGo .meridian 1) s = .next t ∧
       if fget s F.ECC_SCR_STAT.BUSY = 0 ∧ n ≠ 0 ∧ a % 8 = 0 ∧ n % 8 = 0 ∧ inOneRow s a n = true ∧ r % 64 = 0 ∧
         (r + 192 ≤ memTop s ∨ 0x7E0000000000 ≤ r ∧ r + 192 ≤ 0x7E0001000000) ∧ (r + 192 ≤ a ∨ a + n ≤ r)
       then t = { s with regs := t.regs, integ := t.integ } ∧ SameRegs [regAddr .ECC_SCR_STAT 0 0] s t ∧
         fget t F.ECC_SCR_STAT.BUSY = 1 ∧ fget t F.ECC_SCR_STAT.REJECTED = 0 ∧ fget t F.ECC_SCR_STAT.ABORTED = 0 ∧
         t.integ = { s.integ with scrub := some ⟨s.tick, tickNow s, fget s F.ECC_SCR_CTL.MODE, a, n, r⟩ }
       else fget t F.ECC_SCR_STAT.REJECTED = 1 ∧ Logged s t ∧ t.integ = s.integ ∧ SameStores s t) ∧
    (∀ x u l, isStopped s = false → coreRuns s 3 = true → s.integ.scrub = some x → x.rec_ + 192 ≤ 0x1000000000000 →
      scrubRange x.mode x.addr (8 * (x.len / 8)) s = (u, l) →
      let count := fun (k : Nat) => (l.filter (fun f => f.2.2 == k)).length % 2 ^ 32
      ∃ t, exec .scrubDone s = .next t ∧ t.integ = { u.integ with scrub := none } ∧ fget t F.ECC_SCR_STAT.BUSY = 0 ∧ Logged u t ∧
        rdNat t x.rec_ 8 = x.len / 8 % 2 ^ 64 ∧ rdNat t (x.rec_ + 8) 4 = count 1 ∧ rdNat t (x.rec_ + 12) 4 = count 2 ∧
        rdNat t (x.rec_ + 16) 4 = count 3 ∧ rdNat t (x.rec_ + 23) 1 = 0 ∧
        ∀ b, b < 0x1000000000000 → b < x.rec_ ∨ x.rec_ + 192 ≤ b → rdByte t b = rdByte u b) ∧
    (∀ i x, coreRuns s 3 = true → s.integ.places[i]? = some x → x.last + 2 ^ 40 ≤ s.tick →
      ∃ t, exec (.locationDrop i) s = .next t ∧ t = { s with integ := { s.integ with places := s.integ.places.eraseIdx i } }) ∧
    (coreRuns s 3 = true → (∃ d ∈ s.integ.pending, d.1 ≠ 3) →
      ∃ t, exec .retirementRecordWrite s = .next t ∧ (∀ e ∈ t.integ.recorded, e.kind ≠ 4) ∧
        ((t.integ.pending = s.integ.pending.filter (fun d => d.1 = 3) ∧ t.integ.noRecord = false ∧
            fget t F.ECC_RET_STAT.SLOT = freeRetSlot s ∧ ∃ l, t.integ.entries = (s.integ.entries ++ l).take 4096) ∨
          (t.integ.pending = s.integ.pending ∧ t.integ.noRecord = s.integ.noRecord ∧
            fget t F.ECC_RET_STAT.SLOT = fget s F.ECC_RET_STAT.SLOT ∧ t.integ.entries = s.integ.entries))) ∧
    (s.boot.held = 2 → isStopped s = false →
      ∃ t, exec (.acceptEmpty .meridian 1) s = .next t ∧ fget t F.HUB_BOOT_STAT.PHASE = 4 ∧ fget t F.HUB_BOOT_STAT.HELD = 0 ∧ t.boot.held = 0 ∧
        fget t F.ECC_RET_STAT.EMPTY = 1 ∧ fget t F.ECC_RET_STAT.ENTRIES = 0 ∧ t.integ.entries = [] ∧ fget t F.HUB_MEM_STAT.ACTIVE = 256) ∧
    (∃ t, exec (.thaw .meridian 1) s = .next t ∧ t = { s with regs := t.regs } ∧ SameRegs [regAddr .FBK_STAT 0 0] s t ∧
      fget t F.FBK_STAT.FROZEN = 0) ∧
    (fget s F.FBK_STAT.FROZEN = 0 →
      let n := min (4 - (if s.fbTick = s.tick then s.fbDone else 0)) s.fb.length
      let c := fget s F.FBK_COUNT.COUNT
      ((∀ e ∈ s.fb, e.code < 0x8000) →
        ∃ t, exec .fieldBookWrite s = .next t ∧ t.fb = s.fb.drop n ∧ fget t F.FBK_COUNT.COUNT = (c + n) % 2 ^ 64 ∧
          ∀ i e, i < n → s.fb[i]? = some e → rdBytes t (fbBase + 32 * ((c + i) % 8192)) 32 = fbEntryBytes e) ∧
      (∀ e rest, s.fb = e :: rest → 0x8000 ≤ e.code → 1 ≤ n →
        ∃ t, exec .fieldBookWrite s = .next t ∧ t.fb = [] ∧ fget t F.FBK_STAT.FROZEN = 1 ∧ fget t F.FBK_STAT.FREEZE_IDX = c % 8192 ∧
          rdBytes t (fbBase + 32 * (c % 8192)) 32 = fbEntryBytes e ∧
          fget t F.FBK_LOST.COUNT = min (fget s F.FBK_LOST.COUNT + rest.length) (2 ^ 32 - 1))) ∧
    (coreRuns s 3 = true →
      ((∀ x ∈ identities s, x.2.1 = x.2.2) → exec .conserveCheck s = .next s) ∧
      ((∃ x ∈ identities s, x.2.1 ≠ x.2.2) →
        ∃ t, exec .conserveCheck s = .next t ∧ fget t F.HUB_ALERT.CONSERVE = 1 ∧ Logged s t ∧ SameStores s t ∧ t.clusters = s.clusters))

/-- R411, R412, R415: the Meridian port goes from DOWN over LOCK and HELLO to UP, with the smaller of both highest versions and its sessions open; a
loss of lock takes it DOWN and ends every session, and a HELLO takes an UP port back. -/
def Obligations.MeridianPortComesUp : Prop :=
  ∀ s : State, isFrozen s = false →
    (2 ≤ phase s → s.power.on.contains 48 = true → merState s = mDOWN →
      ∃ t, exec .meridianLight s = .next t ∧ merState t = mLOCK ∧ t = { s with regs := t.regs, merSince := s.tick }) ∧
    (merState s = mLOCK →
      (∃ t, exec .meridianLock s = .next t ∧ merState t = mHELLO ∧ fget t F.HUB_CLK_STAT.OE_LOCK = 1 ∧ t.helloTick = none ∧ t.merSince = s.tick) ∧
      (s.merSince + 6250000 ≤ s.tick → ∃ t, exec .meridianLockTimeout s = .next t ∧ merState t = mDOWN)) ∧
    (merState s = mHELLO → ∃ t, exec .meridianLockLoss s = .next t ∧ merState t = mDOWN ∧ fget t F.HUB_CLK_STAT.OE_LOCK = 0) ∧
    (merState s = mUP → ∃ t, exec .meridianLockLoss s = .next t ∧ merState t = mDOWN ∧ fget t F.HUB_CLK_STAT.OE_LOCK = 0 ∧
      fget t F.MBX_EVT.PORT_DOWN = 1 ∧ Logged s t ∧ ∀ i, i < 16 → fget t F.MBX_SESS_STAT.OPEN i = 0 ∧ (sess t i).outgoing = [] ∧ (sess t i).sent = []) ∧
    (merState s = mHELLO → s.helloTick = none ∨ (∃ k, s.helloTick = some k ∧ k + 125000 ≤ s.tick) →
      ∃ t, exec .helloSend s = .next t ∧ t.hello = some (helloFrame s) ∧ t.helloTick = some s.tick ∧
        fget t F.MBX_MER_TXFR.COUNT = (fget s F.MBX_MER_TXFR.COUNT + 1) % 2 ^ 64) ∧
    (∀ sent : Frame, let f := heard sent
      frameCrcOk f = true → frType f = 1 → f.payload.length = 32 →
      let vmin := bNat f.payload 0 1
      let vmax := bNat f.payload 1 1
      let v := min vmax (ownVermax s)
      (merState s = mHELLO → 1 ≤ v → vmin ≤ v →
        ∃ t, exec (.helloReceive sent) s = .next t ∧ merState t = mUP ∧ merVersion t = v ∧ Logged s t ∧ ∀ i, i < 16 →
          fget t F.MBX_SESS_STAT.OPEN i = (if i < (if v = 2 then 16 else 1) then 1 else 0) ∧
          (i < (if v = 2 then 16 else 1) → fget t F.MBX_SESS_STAT.TXCRED i = bNat f.payload 2 1 ∧ (sess t i).nextSeq = 0 ∧ (sess t i).lastIn = none)) ∧
      (merState s = mHELLO → v < 1 ∨ v < vmin →
        ∃ t, exec (.helloReceive sent) s = .next t ∧ merState t = mHELLO ∧ fget t F.MBX_EVT.VER_FAIL = 1 ∧ Logged s t) ∧
      (merState s = mUP → ∃ t, exec (.helloReceive sent) s = .next t ∧ merState t = mHELLO ∧ merVersion t = 0)) ∧
    (∀ sent : Frame, frameCrcOk (heard sent) = false → merState s = mHELLO ∨ merState s = mUP →
      ∃ t, exec (.helloReceive sent) s = .next t ∧ t = { s with regs := t.regs, fresh := t.fresh } ∧ fget t F.MBX_EVT.CRC = 1 ∧
        fget t F.MBX_MER_CRCERR.COUNT = min (fget s F.MBX_MER_CRCERR.COUNT + 1) (fmax F.MBX_MER_CRCERR.COUNT) ∧
        SameRegs [regAddr .MBX_MER_CRCERR 0 0, regAddr .MBX_EVT 0 0] s t)

/-- R412 to R416: a CMD frame in sequence is acknowledged and its command waits; one out of sequence is not taken; a CTRL frame acknowledges and
returns credits; frames without an acknowledgement go out again; a waiting frame spends a credit and takes the next number. -/
def Obligations.MeridianFramesFlow : Prop :=
  (∀ (f : Frame) (junk ws : List Nat) (k : Nat), f.hdr.length = 16 → frLen f = f.payload.length → f.payload.length % 8 = 0 →
    startWord ∉ junk → framesIn (junk.length + 1 + k) (junk ++ frameWords f ++ ws) = f :: framesIn k ws) ∧
  (∀ (sent : Frame) (s : State), let f := heard sent
    let i := frSession f
    isFrozen s = false → frameCrcOk f = true → frameFits s f = true →
    (frType f = 2 → frLast f = true → (sess s i).asm = none → frSeq f = (ackOf (sess s i) + 1) % 65536 →
      let c : MerCmd := ⟨frOp f, frTag f, f.payload⟩
      (isRelease c = true → s.boot.fwRuns = true →
        ∃ t g l, exec (.cmdFrameReceive sent) s = .next t ∧ (sess t i).outgoing = l ++ [g] ∧ frType g = 3 ∧ frOp g = 4 ∧ frTag g = frTag f ∧
          bNat g.hdr 10 2 = 0 ∧ ∀ n, n < 4 → natBit (bNat c.data 16 4) n = true → fget s F.HUB_CORE_STAT.STATE n = 2 →
            fget t F.HUB_CORE_STAT.STATE n = 0) ∧
      (isRelease c = false → ((sess s i).cmds ≠ [] ∨ autoAnswer s c = none) →
      ∃ t, exec (.cmdFrameReceive sent) s = .next t ∧ (sess t i).cmds = (sess s i).cmds ++ [c] ∧ (sess t i).lastIn = some (frSeq f) ∧
        (∃ g, (sess t i).ctrl = some g ∧ frType g = 5 ∧ frAck g = frSeq f ∧ frNak g = false) ∧ SameStores s t)) ∧
    (frType f = 2 → frSeq f ≠ (ackOf (sess s i) + 1) % 65536 →
      ∃ t, exec (.cmdFrameReceive sent) s = .next t ∧ (sess t i).cmds = (sess s i).cmds ∧ (sess t i).lastIn = (sess s i).lastIn ∧
        (∃ g, (sess t i).ctrl = some g ∧ frType g = 5) ∧ SameStores s t) ∧
    (frType f = 5 →
      ∃ t, exec (.ctrlFrameReceive sent) s = .next t ∧
        (sess t i).sent = (sess s i).sent.filter (fun g => 32768 ≤ (frAck f + 65536 - g.1) % 65536) ∧
        fget t F.MBX_SESS_STAT.TXCRED i = min (fget s F.MBX_SESS_STAT.TXCRED i + frCredit f) 255 ∧
        (frNak f = false → fget t F.MBX_MER_RESEND.COUNT = fget s F.MBX_MER_RESEND.COUNT) ∧
        (frNak f = true → fget t F.MBX_MER_RESEND.COUNT = min (fget s F.MBX_MER_RESEND.COUNT + (sess t i).sent.length) (2 ^ 32 - 1)))) ∧
  (∀ (i : SessIx) (s : State), isFrozen s = false → merState s = mUP →
    ((sess s i).sent ≠ [] → (sess s i).sentTick + sget s F.MBX_MER_CFG.ACK_TMO ≤ s.tick →
      ∃ t, exec (.ackTimeout i) s = .next t ∧ (sess t i).sentTick = s.tick ∧ (sess t i).sent = (sess s i).sent ∧
        fget t F.MBX_MER_RESEND.COUNT = min (fget s F.MBX_MER_RESEND.COUNT + (sess s i).sent.length) (2 ^ 32 - 1) ∧
        fget t F.MBX_MER_TXFR.COUNT = (fget s F.MBX_MER_TXFR.COUNT + (sess s i).sent.length) % 2 ^ 64) ∧
    (∀ f rest, (sess s i).outgoing = f :: rest → portLives s = true → fget s F.MBX_SESS_STAT.TXCRED i ≠ 0 → (sess s i).sent.length < 64 →
      f.hdr.length = 16 →
      ∃ t g l, exec (.frameSend i) s = .next t ∧ (sess t i).outgoing = rest ++ l ∧ ((sess s i).cmds = [] → l = []) ∧ (sess t i).sent = (sess s i).sent ++ [((sess s i).nextSeq, g)] ∧
        g.payload = f.payload ∧ frSeq g = (sess s i).nextSeq % 65536 ∧ frAck g = ackOf (sess s i) % 65536 ∧ frOp g = frOp f ∧ frTag g = frTag f ∧
        frameCrcOk g = true ∧ (sess t i).nextSeq = ((sess s i).nextSeq + 1) % 65536 ∧
        fget t F.MBX_SESS_STAT.TXCRED i = fget s F.MBX_SESS_STAT.TXCRED i - 1))

/-- R188, R378, R416, R417, R419, R420, R449, R472, R475: what LOAD, RUN, READ, WRITE, TELEM, ATTEST, FREEZE and READOUT do and answer. -/
def Obligations.MeridianCommandsAnswer : Prop :=
  ∀ (i : SessIx) (c : MerCmd) (s : State),
    (let p := loadPart c
     let img := (c.data.drop 24).take (loadLen c)
     (AtFront s i 1 c → loadLen c ≠ 0 → (sess s i).started = false → coreRuns s 1 = true → c.data.length = (pad8 (zeros (24 + loadLen c))).length →
       within (loadAddr c) (loadLen c) (winLo s p) (winHi s p) = true → winHi s p ≤ 0x400000000000 →
       (isReady s = true → fget s F.HUB_PART.CLUSTERS p ≠ 0 → (part s p).image = none → (∀ k, k < 32 → domState s k = 0) →
         (imgFail (expelFrom s p) p (fixLen 128 img) = none →
           ∃ t im, exec (.load i) s = .next t ∧ Answers s t i c 0 [] ∧ (part t p).image = some im ∧ im.digest = sha3 img ∧
             im.layers = bNat img 12 2 ∧ ∀ k, k < img.length → rdByte t (loadAddr c + k) = nth img k 0) ∧
         (imgFail (expelFrom s p) p (fixLen 128 img) ≠ none →
           ∃ t, exec (.load i) s = .next t ∧ Answers s t i c 8 (leBytes 8 p) ∧ (part t p).image = none ∧ s.fbOffered < t.fbOffered)) ∧
       (isReady s = false ∨ fget s F.HUB_PART.CLUSTERS p = 0 ∨ (part s p).image.isSome = true →
         ∃ t, exec (.load i) s = .next t ∧ Answers s t i c 3 [] ∧ t.parts = s.parts ∧ SameStores s t)) ∧
     (AtFront s i 1 c → loadLen c ≠ 0 → (sess s i).started = false → coreRuns s 1 = true →
       c.data.length ≠ (pad8 (zeros (24 + loadLen c))).length ∨ within (loadAddr c) (loadLen c) (winLo s p) (winHi s p) = false →
       ∃ t, exec (.load i) s = .next t ∧ Answers s t i c 4 [] ∧ t.parts = s.parts ∧ SameStores s t) ∧
     (AtFront s i 1 c → loadLen c = 0 → isReady s = true → fget s F.HUB_PART.CLUSTERS p ≠ 0 →
       (fget s F.CRN_STAT.STATE p = 0 ∨ fget s F.CRN_STAT.STATE p = 2) →
       ∃ t, exec (.unload i) s = .next t ∧ Answers s t i c 0 [] ∧ (part t p).image = none ∧ SameParts p s t)) ∧
    (let p := bNat c.data 0 8 % 8
     AtFront s i 2 c →
       (isReady s = true → (sess s i).started = false → (part s p).image.isSome = true → (part s p).epochSet = true → fget s F.CRN_STAT.STATE p = 0 →
         ∃ t, exec (.run i) s = .next t ∧ fget t F.CRN_STAT.STATE p = 1 ∧ (part t p).wanted = true ∧ (sess t i).started = true ∧
           (sess t i).cmds = [c] ∧ SameStores s t) ∧
       ((sess s i).started = true → (part s p).step ≠ 0 → ∃ t, exec (.run i) s = .next t ∧ Answers s t i c 0 [] ∧ t.parts = s.parts)) ∧
    (let a := bNat c.data 0 8
     let n := bNat c.data 8 4
     (∀ u, AtFront s i 3 c → s.boot.fwRuns = true → n % 8 = 0 → 8 ≤ n → n ≤ 65536 → inRegs a = false → mappedBytes s a n = n →
       Reads (srcCore 0) s u a (a + n) →
       ∃ t, exec (.read i) s = .next t ∧ Answers u t i c 0 (rdBytes u a n) ∧ SameStores u t ∧ t.clusters = s.clusters) ∧
     (AtFront s i 4 c → s.boot.fwRuns = true → n % 4 = 0 → c.data.length = (pad8 (zeros (16 + n))).length → inRegs a = false →
       mappedBytes s a n = n → memTop s ≤ 0x400000000000 →
       ∃ t, exec (.write i) s = .next t ∧ Answers s t i c 0 [] ∧ t.clusters = s.clusters ∧
         ∀ b, b < 0x1000000000000 → rdByte t b = if a ≤ b ∧ b < a + n then nth c.data (16 + (b - a)) 0 else rdByte s b)) ∧
    (AtFront s i 6 c → ∃ t, exec (.telem i) s = .next t ∧ Answers s t i c 0 (pad8 (telemRecord s (bNat c.data 0 1))) ∧ SameStores s t) ∧
    (AtFront s i 7 c → isReady s = true → c.data.length = 80 →
      let u := { s with boot := { s.boot with reports := s.boot.reports + 1 } }
      let b := reportBody u (c.data.drop 16)
      ∃ t, exec (.attest i) s = .next t ∧ Answers s t i c 0 (pad8 (b ++ makeSig "KRYJO-ATTEST" s.boot.sk b)) ∧
        t.boot = u.boot ∧ SameStores s t) ∧
    (isFrozen s = false → (sess s i).cmds = [c] → c.op = 8 → (sess s i).dead = false → mayStart s i = true → bNat c.data 0 2 = 0x465A →
      ∃ t f, exec (.freeze i) s = .next t ∧ isFrozen t = true ∧ bNat t.freeze.record 6 1 = 2 ∧ fget t F.FBK_STAT.FROZEN = 1 ∧
        fget t F.HUB_ALERT.FROZEN = 1 ∧ (sess t i).outgoing = [f] ∧ frType f = 3 ∧ bNat f.hdr 10 2 = 0 ∧ SameStores s t ∧ t.clusters = s.clusters) ∧
    (∀ b, isFrozen s = true → portLives s = true → (sess s i).cmds = [c] → c.op = 9 → (sess s i).dead = false → mayStart s i = true →
      readoutBytes s (bNat c.data 0 4) (bNat c.data 4 8) (bNat c.data 12 4) = some b →
      ∃ t, exec (.readout i) s = .next t ∧ Answers s t i c 0 (pad8 b) ∧ isFrozen t = true ∧ SameStores s t ∧ t.clusters = s.clusters)

/-- R421 to R426: a mailbox takes one notice from the sender that its number allows, the receiver takes it and the sender is told; a full or closed one
turns a Meridian PUT away at once, or makes it wait its limit; HC0 posts the oldest record; a ring raises COUNT of its token. -/
def Obligations.MailboxesAndDoorbells : Prop :=
  (∀ (i : SessIx) (c : MerCmd) (s : State), AtFront s i 5 c →
    let n := bNat c.data 1 1
    (bNat c.data 0 1 = 1 →
      (n = 32 + i.val ∨ (56 ≤ n ∧ n < 64) → mbxFull s n = false → mbxClosed s n = false →
        ∃ t, exec (.meridianMbxPut i) s = .next t ∧ Answers s t i c 0 [] ∧ mbxFull t n = true ∧
          reg t .MBX_DATA n = BitVec.ofNat 64 (bNat c.data 8 8) ∧ fget t F.MBX_STAT.SKIND n = 1 ∧ fget t F.MBX_STAT.SENDER n = i.val) ∧
      (n = 32 + i.val → mbxFull s n = true ∨ mbxClosed s n = true →
        ∃ t, exec (.meridianMbxPut i) s = .next t ∧ (sess t i).cmds = [c] ∧ (sess t i).started = true ∧ t.regs = s.regs) ∧
      (56 ≤ n → n < 64 → mbxFull s n = true ∨ mbxClosed s n = true →
        ∃ t, exec (.meridianMbxPut i) s = .next t ∧ Answers s t i c (if mbxClosed s n then 7 else 2) []) ∧
      ((sess s i).started = true → mbxFull s n = true ∨ mbxClosed s n = true → (sess s i).since + sget s F.MBX_MER_MBXTMO.TICKS ≤ s.tick →
        ∃ t, exec (.mbxPutTimeout i) s = .next t ∧ Answers s t i c 2 [])) ∧
    (bNat c.data 0 1 = 2 → 48 ≤ n → n < 56 → mbxFull s n = true →
      ∃ t, exec (.mbxGet i) s = .next t ∧ Answers s t i c 0 (leBytes 8 (reg s .MBX_DATA n).toNat) ∧ mbxFull t n = false ∧ t.recAcked = s.recAcked + 1) ∧
    (bNat c.data 0 1 = 3 → n < 64 → ∃ t, exec (.mbxStat i) s = .next t ∧ Answers s t i c 0 (leBytes 8 (reg s .MBX_STAT n).toNat)) ∧
    (let k := bNat c.data 2 2
     bNat c.data 0 1 = 4 → n < 32 → 2 ≤ k → k < 64 → inRun s n = true → nget (clu s n).bells k = none → tokFull s n (192 + k) 1 = false →
      ∃ t, exec (.mbxRing i) s = .next t ∧ Answers s t i c 0 [] ∧ tokCount t n (192 + k) = tokCount s n (192 + k) + 1)) ∧
  (∀ (k : CoreIx) (n : MbxIx) (v : Word) (s : State), isFrozen s = false → coreRuns s k = true →
    (48 ≤ n.val → mbxFull s n = false → mbxClosed s n = false →
      ∃ t, exec (.mbxPost (.core k) n v) s = .next t ∧ mbxFull t n = true ∧ reg t .MBX_DATA n = v ∧ fget t F.MBX_STAT.SKIND n = 2 ∧
        fget t F.MBX_STAT.SENDER n = k.val) ∧
    (n.val < 48 ∨ mbxFull s n = true ∨ mbxClosed s n = true →
      ∃ t, exec (.mbxPost (.core k) n v) s = .next t ∧ mbxFull t n = mbxFull s n ∧ reg t .MBX_DATA n = reg s .MBX_DATA n ∧ Logged s t) ∧
    (k.val = receiverOf n → (n.val < 48 ∨ 56 ≤ n.val) → mbxFull s n = true → (n.val < 32 → (clu s n).notices = []) →
      ∃ t, exec (.mbxDataRead (.core k) n) s = .next t ∧ mbxFull t n = false ∧ reg t .MBX_DATA n = 0 ∧
        fget t F.MBX_STAT.SSTAT n = if noticeOk (reg s .MBX_DATA n) = true then 2 else 3) ∧
    (k.val ≠ receiverOf n ∨ (48 ≤ n.val ∧ n.val < 56) → ∃ t, exec (.mbxDataRead (.core k) n) s = .next t ∧ mbxFull t n = mbxFull s n ∧ Logged s t)) ∧
  (∀ (i : RecordBoxIx) (a : Word) (rest : List Word) (s : State), coreActs s 0 = true → nget s.records i = some (a :: rest) →
    mbxFull s (48 + i.val) = false →
    ∃ t, exec (.recordPost i) s = .next t ∧ mbxFull t (48 + i.val) = true ∧ ngetD [] t.records i = rest ∧
      bitsOf (reg t .MBX_DATA (48 + i.val)) 47 0 = a.toNat % 2 ^ 48 ∧ bitsOf (reg t .MBX_DATA (48 + i.val)) 59 56 = 7) ∧
  (∀ (k : CoreIx) (c : ClusterIx) (v : Word) (s : State), isFrozen s = false → coreRuns s k = true → inRun s c = true →
    (clu s c).bells = [] → (∀ n, n < 64 → tokFull s c (192 + n) 1 = false) →
    ∃ t, exec (.doorbellRing (.core k) c v) s = .next t ∧ SameStores s t ∧ ∀ n, n < 64 →
      tokCount t c (192 + n) = tokCount s c (192 + n) + (if 2 ≤ n ∧ bitOf v n = true then 1 else 0))

/-- R431, R432, R484, R499: RESET_n starts a cold reset; so does HUB_RESET with its key and KIND cold, and KIND warm starts a warm one once READY, each at the
next tick boundary (on a frozen P40 the cold one at once); a warm reset keeps the settings of R499, the images and the stores; any other write is
rejected. Two samples out of range remove power, and 100 ms in range start
the cold reset. -/
def Obligations.InputAndResets : Prop :=
  (∀ s : State, s.boot.inputOn = true → ∃ t, exec .resetPin s = .next t ∧ ColdStarts s t 1) ∧
  (∀ (src : Source) (v : BitVec 32) (s : State), src = .meridian ∨ src = .smbus → s.boot.inputOn = true → s.freeze.lost = false →
    (isFrozen s = true → v.toNat / 65536 = 0x5253 → v.toNat % 4 = 2 → ∃ t, exec (.hubResetCold src v) s = .next t ∧ ColdStarts s t 2) ∧
    (isFrozen s = false → v.toNat / 65536 = 0x5253 → v.toNat % 4 = 2 → ∃ t, exec (.hubResetCold src v) s = .next t ∧ ResetDue s t 2) ∧
    (isFrozen s = false → v.toNat / 65536 = 0x5253 → v.toNat % 4 = 1 → fget s F.HUB_BOOT_STAT.READY = 1 →
      ∃ t, exec (.hubResetWarm src v) s = .next t ∧ ResetDue s t 1) ∧
    (isFrozen s = false → v.toNat / 65536 ≠ 0x5253 ∨ v.toNat % 4 = 0 ∨ v.toNat % 4 = 3 ∨ (v.toNat % 4 = 1 ∧ fget s F.HUB_BOOT_STAT.READY = 0) →
      ∀ c ∈ [Instr.hubResetCold src v, Instr.hubResetWarm src v], ∃ t, exec c s = .next t ∧ fget t F.HUB_BOOT_STAT.RESET_REJ = 1 ∧ Logged s t ∧
        SameRegs [regAddr .HUB_BOOT_STAT 0 0, regAddr .FBK_LOST 0 0] s t ∧
        t = { s with regs := t.regs, fresh := t.fresh, fb := t.fb, fbOffered := t.fbOffered })) ∧
  (∀ s : State, s.pending = [] → isFrozen s = false →
    (s.boot.due = 2 → ∃ t, step s = .next t ∧ ColdStarts { s with free := t.free } t 2) ∧
    (s.boot.due = 1 → QuietTick s →
      ∃ t, step s = .next t ∧ InPhaseNow t 2 ∧ fget t F.HUB_BOOT_STAT.READY = 0 ∧
        fget t F.HUB_BOOT_STAT.LAST_RESET = 3 ∧ fget t F.HUB_BOOT_STAT.WARMS = min (fget s F.HUB_BOOT_STAT.WARMS + 1) 65535 ∧
        t.boot.warm = true ∧ t.boot.due = 0 ∧ t.tick = s.tick + 1 ∧ t.flash = s.flash ∧
        (∀ r ∈ settingsKept, ∀ idx inst, regAt (regAddr r idx inst) = some (r, idx, inst) → reg t r idx inst = reg s r idx inst) ∧
        (∀ a, a < 0x7E0000E00000 → rdByte t a = rdPlace s a ∧ synAt t a = synAt s a) ∧
        (∀ p, p < 8 → (part t p).image = (part s p).image ∧ (part t p).running = false ∧
          fget t F.CRN_STAT.STATE p = (if fget s F.CRN_STAT.STATE p = 1 then 2 else fget s F.CRN_STAT.STATE p)) ∧
        (∀ c, c < 32 → (clu t c).inflight = [] ∧ (clu t c).slots = [] ∧ ∀ st, stream t c st = StreamState.reset) ∧ t.switch = [] ∧ t.arrived = [])) ∧
  (∀ (mv : Nat) (s : State), s.boot.inputOn = true →
    (mv < 38000 → s.boot.lowSamples = 0 → exec (.inputUndervoltage mv) s = .next { s with boot := { s.boot with lowSamples := 1 } }) ∧
    (mv < 38000 → s.boot.lowSamples ≠ 0 → ∃ t, exec (.inputUndervoltage mv) s = .next t ∧ PowerLost s t ∧ t.boot.inputOn = false) ∧
    (38000 ≤ mv → exec (.inputUndervoltage mv) s = .next { s with boot := { s.boot with lowSamples := 0 } }) ∧
    (62000 < mv → s.boot.highSamples = 0 → exec (.inputOvervoltage mv) s = .next { s with boot := { s.boot with highSamples := 1 } }) ∧
    (62000 < mv → s.boot.highSamples ≠ 0 → ∃ t, exec (.inputOvervoltage mv) s = .next t ∧ PowerLost s t ∧ t.boot.inputOn = false) ∧
    (mv ≤ 62000 → exec (.inputOvervoltage mv) s = .next { s with boot := { s.boot with highSamples := 0 } })) ∧
  (∀ (mv : Nat) (s : State), s.boot.inputOn = false →
    (40000 ≤ mv → mv ≤ 60000 → s.boot.goodSince = none → exec (.inputPowerGood mv) s = .next { s with boot := { s.boot with goodSince := some s.tick } }) ∧
    (∀ k, 40000 ≤ mv → mv ≤ 60000 → s.boot.goodSince = some k → k + 12500000 ≤ s.tick →
      ∃ t, exec (.inputPowerGood mv) s = .next t ∧ ColdStarts s t 0) ∧
    (mv < 40000 ∨ 60000 < mv → exec (.inputPowerGood mv) s = .next { s with boot := { s.boot with goodSince := none } }))

/-- R433 to R442, R447, R448: each phase of start-up does its work and hands on to the next: RAILS samples the pins and starts the clock, ROM clears hub
SRAM and measures, FW_LOAD starts the active image or checks the running one, RECORDS takes the records, IDENTITY derives the key, DOMAINS
asks for every domain, SELFTEST, STORES and DRAM pass and clear, LINKS starts the ports, READY ends it; a phase past its limit stops it. -/
def Obligations.StartUpPhases : Prop :=
  ∀ s : State,
    (∀ tray slot : BitVec 4, inPhase s 0 = true → s.boot.since ≤ s.tick →
      ∃ t, exec (.rails tray slot) s = .next t ∧ InPhaseNow t 1 ∧ t.tick = 0 ∧ fget t F.HUB_CLK_STAT.ROOT_LOCK = 1 ∧
        (∀ d, d < 4 → fget t F.LNK_STATION.TRAY 0 d = tray.toNat ∧ fget t F.LNK_STATION.SLOT 0 d = slot.toNat) ∧ SameStores s t) ∧
    (inPhase s 1 = true →
      ∃ t, exec .rom s = .next t ∧ t.flash = s.flash ∧
        (rootOk s = true → InPhaseNow t 2 ∧ fget t F.HUB_FW_SVN.FLOOR = (floorNow s).1 ∧ (∃ w ∈ t.power.queue, w.code = 48) ∧
          (s.boot.warm = false → t.boot.measure = measured (measured (measured s.boot.measure 1 (fixLen 64 Config.romDigest)) 2 (sha3 (rootKey s))) 3 (floorNow s).2)) ∧
        (rootOk s = false → fget t F.HUB_BOOT_STAT.STOPPED = 1 ∧ Logged s t) ∧
        ∀ a, a < 0x1000000000000 → rdByte t a = if 0x7E0000000000 ≤ a ∧ a < 0x7E0001000000 then 0 else rdByte s a) ∧
    (inPhase s 2 = true →
      ∃ t, exec .fwLoad s = .next t ∧
        (s.boot.warm = true → imageIntact s = true → InPhaseNow t 6 ∧ t.boot.fwRuns = true ∧ SameStores s t) ∧
        (s.boot.warm = true → imageIntact s = false → fget t F.HUB_BOOT_STAT.HELD = 1 ∧ Logged s t) ∧
        (s.boot.warm = false → selGood s = true → selPending s = none → fwVerify s (flashImage s (selActive s)) none = none →
          FirmwareStarts s t (selActive s) (flashImage s (selActive s)) ∧ fget t F.HUB_BOOT_STAT.SLOT = selActive s) ∧
        (s.boot.warm = false → selGood s = false → (∀ k, k < 2 → fwVerify s (flashImage s k) none ≠ none) →
          fget t F.HUB_BOOT_STAT.HELD = 1 ∧ t.boot.held = 1 ∧ fget t F.HUB_BOOT_STAT.PHASE = 2)) ∧
    (inPhase s 3 = true →
      ∃ t, exec .records s = .next t ∧ SameStores s t ∧ t.flash = s.flash ∧
        (bestSlot (cfgValid s) (cfgSeq s) = none → fget t F.HUB_BOOT_STAT.STOPPED = 1 ∧ Logged s t) ∧
        ∀ k, bestSlot (cfgValid s) (cfgSeq s) = some k →
          fget t F.PWR_IDLE.WATTS = bNat (cfgRecord s k) 82 2 ∧ t.integ.repairs = cfgEntries s k ∧
          (∀ j, bestSlot (retValid s) (retSeq s) = some j → InPhaseNow t 4 ∧ t.integ.entries = retEntries s j ∧
            fget t F.ECC_RET_STAT.SLOT = j ∧ fget t F.ECC_RET_STAT.EMPTY = 0) ∧
          (bestSlot (retValid s) (retSeq s) = none → fget t F.HUB_BOOT_STAT.HELD = 1 ∧ t.boot.held = 2 ∧
            fget t F.HUB_BOOT_STAT.PHASE = 3 ∧ fget t F.HUB_ALERT.RECORD_BAD = 1 ∧ Logged s t)) ∧
    (inPhase s 4 = true →
      ∃ t, exec .identity s = .next t ∧ SameStores s t ∧
        (∀ k, Config.pufKey (s.boot.puf.getD 0) (helperData s) = some k →
          (Mldsa.keyGen (idSeed k)).1 = certSubject (devCert s) →
          InPhaseNow t 5 ∧ t.boot.pk = certSubject (devCert s) ∧ t.boot.puf = none ∧
            (s.boot.warm = false → t.boot.measure = measured s.boot.measure 7 (sha3 (certSubject (devCert s))))) ∧
        ((∀ k, Config.pufKey (s.boot.puf.getD 0) (helperData s) = some k → (Mldsa.keyGen (idSeed k)).1 ≠ certSubject (devCert s)) → fget t F.HUB_BOOT_STAT.STOPPED = 1 ∧ Logged s t)) ∧
    (inPhase s 5 = true → (∀ n, n < 48 → domainBusy s n = false) →
      (s.power.on.contains 47 = false →
        ∃ t, exec .domains s = .next t ∧ t = { s with regs := t.regs, power := t.power } ∧
          (∀ n, 32 ≤ n → n < 48 → ⟨s.tick, n, 0⟩ ∈ t.power.queue) ∧ (∀ n, n < 32 → ⟨s.tick + 1, n, 0⟩ ∈ t.power.queue)) ∧
      (s.power.on.contains 47 = true → ∃ t, exec .domains s = .next t ∧ InPhaseNow t 6 ∧ SameStores s t)) ∧
    (inPhase s 6 = true →
      ∃ t, exec (.selftest []) s = .next t ∧ InPhaseNow t 7 ∧ fget t F.ECC_STEST_STAT.DONE = 1 ∧ fget t F.ECC_STEST_STAT.PASS = 1 ∧
        fget t F.ECC_STEST_STAT.FAILED = 0) ∧
    (∀ f : SelfTestFail, inPhase s 6 = true → f.source.toNat / 0x1000 = 1 → f.pattern.toNat < 466 →
      ∃ t, exec (.selftest [f]) s = .next t ∧ InPhaseNow t 7 ∧ fget t F.ECC_STEST_STAT.DONE = 1 ∧ fget t F.ECC_STEST_STAT.PASS = 0 ∧
        fget t F.ECC_STEST_STAT.FAILED = 1 ∧ natBit (fget t F.ECC_STEST_CLU.WITHHELD) (f.source.toNat % 32) = true ∧
        ∀ p, p < 8 → natBit (fget t F.HUB_PART.CLUSTERS p) (f.source.toNat % 32) = false) ∧
    (inPhase s 7 = true →
      ∃ t, exec .stores s = .next t ∧ InPhaseNow t 8 ∧ (∀ c, c < 32 → (clu t c).acc = [] ∧ (clu t c).side = []) ∧
        ∀ a, 0x400000000000 ≤ a → a < 0x410040000000 →
          (s.boot.warm = false → rdByte t a = 0) ∧ (s.boot.warm = true → s.integ.recorded = [] → rdByte t a = rdByte s a)) ∧
    (inPhase s 8 = true → fget s F.HUB_MEM_STAT.ACTIVE ≠ 0 →
      ∃ t, exec (.dram []) s = .next t ∧ InPhaseNow t 9 ∧ fget t F.HUB_MEM_STAT.ACTIVE = fget s F.HUB_MEM_STAT.ACTIVE ∧
        ∀ a, a < 0x400000000000 → rdByte t a = if s.boot.warm then rdByte s a else 0) ∧
    (inPhase s 9 = true →
      ∃ t, exec .links s = .next t ∧ InPhaseNow t 10 ∧ SameStores s t ∧
        ∀ n, n < 24 → pState t n = if pState s n = pFAILED then pFAILED else if fbit s F.LNK_PCFG.ENABLE (n % 6) (n / 6) then pDETECT else pDISABLED) ∧
    (inPhase s 10 = true → fget s F.HUB_BOOT_STAT.TRIAL = 0 →
      ∃ t, exec .ready s = .next t ∧ fget t F.HUB_BOOT_STAT.READY = 1 ∧ (reg t .HUB_BOOT_TIME).toNat = ((s.tick : Int) - s.boot.start).toNat % 2 ^ 64 ∧
        s.fbOffered < t.fbOffered ∧ t.recOffered = s.recOffered + 1 ∧ t.boot = s.boot) ∧
    (∀ k, k < 10 → inPhase s k = true → s.boot.since + bootLimit k s.boot.warm ≤ s.tick →
      ∃ t, exec .bootTimeout s = .next t ∧ fget t F.HUB_BOOT_STAT.STOPPED = 1 ∧ fget t F.HUB_BOOT_STAT.PHASE = k ∧
        (0 < k → fget t F.HUB_ALERT.BOOT_STOP = 1 ∧ Logged s t) ∧ SameStores s t)

/-- R437, R443, R451, R452: PROGRAM writes a verified image to the slot that is not active and, once it reads back right, makes it pending; FLOOR writes an
accepted record, the current one untouched; ABANDON withdraws a pending image; BOOT starts an image from the boot buffer while FW_LOAD holds; what does not verify is refused with its
cause. -/
def Obligations.FirmwareCommands : Prop :=
  ∀ s : State, isFrozen s = false → coreRuns s 0 = true →
    (s.boot.fwRuns = true →
      (let len := fget s F.HUB_FW_LEN.BYTES
       let k := 1 - selActive s
       (within (fwSource s) len 0 (memTop s) = false →
         ∃ t, exec (.program .meridian) s = .next t ∧ fget t F.HUB_FW_STAT.STATE = 3 ∧ Logged s t ∧ t.flash = s.flash ∧ SameStores s t) ∧
       (within (fwSource s) len 0 (memTop s) = true →
         ∃ t, exec (.program .meridian) s = .next t ∧
           (∀ c, fwVerify s (sourceImage s) (some len) = some c → FirmwareRejected s t c) ∧
           (fwVerify s (sourceImage s) (some len) = none → Logged s t ∧ SameStores s t ∧
             (flBytes t (fwSlotAddr k) len = rdBytes s (fwSource s) len → fget t F.HUB_FW_STAT.STATE = 2 ∧ fget t F.HUB_FW_STAT.CAUSE = 0 ∧
               fget t F.HUB_FW_STAT.ACTIVE = selActive s ∧ fget t F.HUB_FW_STAT.PEND_V = 1 ∧ fget t F.HUB_FW_STAT.PENDING = k ∧
               selGood t = true ∧ selPending t = some k) ∧
             (flBytes t (fwSlotAddr k) len ≠ rdBytes s (fwSource s) len → fget t F.HUB_FW_STAT.STATE = 3 ∧ fget t F.HUB_FW_STAT.CAUSE = 6 ∧
               flBytes t 0 64 = flBytes s 0 64)))) ∧
      (let b := rdBytes s (fwSource s) floorSize
       ∃ t, exec (.floor .meridian) s = .next t ∧
         (floorAccepts s b = false → FirmwareRejected s t 7) ∧
         (floorAccepts s b = true → Logged s t ∧ SameStores s t ∧ ∃ k, k < 2 ∧ floorSlot s ≠ some k ∧
           floorRecord t (1 - k) = floorRecord s (1 - k) ∧ (floorRecord t k = b → fget t F.HUB_FW_STAT.STATE = 2) ∧
           (floorRecord t k ≠ b → fget t F.HUB_FW_STAT.STATE = 3))) ∧
      (∃ t, exec (.abandon .meridian) s = .next t ∧ fget t F.HUB_FW_STAT.STATE = 2 ∧ fget t F.HUB_FW_STAT.PEND_V = 0 ∧ selGood t = true ∧
        selPending t = none ∧ selActive t = selActive s ∧ SameStores s t)) ∧
    (phase s = 2 → s.boot.held = 1 →
      ∃ t, exec (.boot .meridian) s = .next t ∧
        (∀ c, fwVerify s (bufferImage s) (some (fget s F.HUB_FW_LEN.BYTES)) = some c → FirmwareRejected s t c) ∧
        (fwVerify s (bufferImage s) (some (fget s F.HUB_FW_LEN.BYTES)) = none →
          FirmwareStarts s t 2 (bufferImage s) ∧ fget t F.HUB_FW_STAT.STATE = 2 ∧ fget t F.HUB_BOOT_STAT.MERIDIAN = 1)) ∧
    (phase s ≠ 2 ∨ s.boot.held ≠ 1 → ∃ t, exec (.boot .meridian) s = .next t ∧ fget t F.HUB_FW_STAT.STATE = 3 ∧ Logged s t ∧ t.flash = s.flash ∧ SameStores s t)

/-- R472 to R478, R489, R495, R496: FREEZE_n, which brings ALERT_n low, and a lost root clock freeze the P40; the test access port and SMBus take their commands while the hub has
power, the read-out of a frozen P40 gives the words of its stores, and 125 °C ends the frozen state. -/
def Obligations.FrozenAccess : Prop :=
  (∀ s : State, isFrozen s = false →
    (∃ t, exec .freezePin s = .next t ∧ FreezesNow s t 1 0xFF ∧ (s.boot.inputOn = true → alertPin t = false)) ∧
    (phase s ≠ 0 → ∃ t, exec .rootUnlock s = .next t ∧ FreezesNow s t 3 0xFF ∧ fget t F.HUB_CLK_STAT.ROOT_LOCK = 0)) ∧
  (∀ s : State, isFrozen s = true → s.boot.inputOn = true → ∃ t, exec .junction125cPowerOff s = .next t ∧ PowerLost s t) ∧
  (∀ s : State, exec .tapReset s = .next { s with tap := ⟨.idcode, [], 0, 0⟩ }) ∧
  (∀ s : State, tapLives s = true →
    exec .idcode s = .next { s with tap := { s.tap with instr := .idcode, out := 0x0004074B } } ∧
    exec .bypass s = .next { s with tap := { s.tap with instr := .bypass, out := 0 } } ∧
    (∀ pins, exec (.samplePreload pins) s = .next { s with tap := { s.tap with instr := .samplePreload, boundary := pins } } ∧
      exec (.extest pins) s = .next { s with tap := { s.tap with instr := .extest, boundary := pins } }) ∧
    (∀ v, exec (.roAddr v) s = .next { s with tap := { s.tap with instr := .roAddr, addr := v } }) ∧
    (∃ t, exec .roData s = .next t ∧ t = { s with tap := t.tap, free := t.free } ∧ t.tap.instr = .roData ∧
      t.tap.addr.toNat / 2 ^ 48 = s.tap.addr.toNat / 2 ^ 48 ∧ t.tap.addr.toNat % 2 ^ 48 = (s.tap.addr.toNat + 8) % 2 ^ 48 ∧
      ∀ c g k, c < 32 → g < 0x80000 → k < 8 → isFrozen s = true → s.tap.addr.toNat = (0x200 + c) * 2 ^ 48 + 72 * g + 8 * k →
        t.tap.out = BitVec.ofNat 64 (rdNat s (nearBase c + 64 * g + 8 * k) 8))) ∧
  (∀ s : State, smbLives s = true →
    (∀ a, exec (.smbSetAddress a true) s = .next { s with smb := { s.smb with addr := a.toNat, status := 0 } }) ∧
    exec .smbReadStatus s = .next { s with smb := { s.smb with out := BitVec.ofNat 64 s.smb.status } } ∧
    (∀ r i n, regAt s.smb.addr = some (r, i, n) →
      (smbReads r n = true → exec (.smbReadRegister true) s = .next { s with smb := ⟨s.smb.addr, 0, BitVec.ofNat 64 (regPeek s r i n)⟩ }) ∧
      (smbReads r n = false → exec (.smbReadRegister true) s = .next { s with smb := ⟨s.smb.addr, 1, 0⟩ }) ∧
      (∀ w v, mayWrite r .smbus = false → exec (.smbWriteRegister w v true) s = .next { s with smb := ⟨s.smb.addr, 1, 0⟩ }) ∧
      (∀ v, r = .FBK_RDIDX → isFrozen s = false →
        ∃ t, exec (.smbWriteRegister 4 v true) s = .next t ∧ t.smb = ⟨s.smb.addr, 0, 0⟩ ∧ t = { s with regs := t.regs, held := t.held, smb := t.smb } ∧
          SameRegs [s.smb.addr] s t ∧ fget t F.FBK_RDIDX.INDEX = v.toNat % 2 ^ 13) ∧
      (∀ v, r = .HUB_RESET → v.toNat / 65536 = 0x5253 → v.toNat % 4 = 2 → ∃ t, exec (.smbWriteRegister 4 v true) s = .next t ∧
        (isFrozen s = true → ColdStarts s { t with smb := State.reset.smb } 2 ∧ t.smb = ⟨0, 0, 0⟩) ∧
        (isFrozen s = false → ResetDue s { t with smb := s.smb } 2 ∧ t.smb = ⟨s.smb.addr, 0, 0⟩))))

/-- R472, R473: on a frozen P40 every command leaves the stores, the clusters, the partitions and every register but those of the Meridian port as they
were, until a reset or the loss of power takes the whole state away. -/
def Obligations.FrozenStaysFrozen : Prop :=
  ∀ (c : Instr) (s t : State), isFrozen s = true → exec c s = .next t → StillFrozen s t ∨ (endsFreeze c = true ∧ StateGone s t)

/-- From every state whose memory is in its canonical form, whatever command stands in front, a step gives a state whose memory is. -/
def Obligations.MemoryStaysCanonical : Prop :=
  ∀ s t : State, s.memOk → step s = .next t → t.memOk

/-- R13, R431: what reset leaves, and what a step does that finds no command: one tick passes (assumption log 1) where no reset is due, TCK_NOW counts on, and on a frozen
P40 nothing moves (R472). -/
def Obligations.ResetAndTicks : Prop :=
  (State.reset.memOk ∧ State.reset.pending = [] ∧ isFrozen State.reset = false ∧ phase State.reset = 0 ∧
    (reg State.reset .PWR_CAP).toNat = 0x6E0284B0 ∧ (reg State.reset .HUB_BOOT_STAT).toNat = 0 ∧ (reg State.reset .TCK_NOW).toNat = 0) ∧
  ∀ s : State, s.pending = [] →
    (isFrozen s = true → s.boot.inputOn = true → step s = .next s) ∧
    (isFrozen s = false → s.boot.due = 0 →
      ∃ t, step s = .next t ∧ t.tick = s.tick + 1 ∧ t.pending = [] ∧ isFrozen t = false ∧ t.flash = s.flash ∧ t.held = [] ∧
        (s.tickSlew.natAbs < 32 → reg t .TCK_NOW = reg s .TCK_NOW + 1) ∧
        (QuietTick s → SameStores s t ∧ t.clusters = s.clusters ∧ t.parts = s.parts) ∧
        ∀ n, n < 4 → coreRuns s n = true →
          ((Machine.core s n).met = none → s.boot.fwRuns = true → (Machine.core s n).left ≠ 0 →
            (Machine.core t n).left + 1 = (Machine.core s n).left) ∧
          ((Machine.core s n).met.isSome = true → fget t F.HUB_CORE_STAT.STATE n = 1))

/-- R238, R254, R262, R263, R264: what a reader of the stores meets. It leaves nothing but corrections, counts, locations and cache lines; with nothing
in error and no line to fill it leaves nothing at all; a single-bit error of a word of SRAM is corrected, written back and counted; a poisoned
word is delivered poisoned; an uncorrectable one is retried once, and reported if it stays. -/
def Obligations.ReadsFollowTheWordCode : Prop :=
  (∀ (src lo hi : Nat) (s u : State) (e : Option (Nat × Nat)), checkRange src (s, none) lo hi = (u, e) → ReadEffect s u) ∧
  (∀ (src lo hi : Nat) (s : State), s.syn = [] → s.tags = [] → s.lines = [] → s.lineSyn = [] →
    src < 0x1000 ∨ (∀ p, p < 8 → fget s F.HUB_WIN.CACHE p = 0) → Reads src s s lo hi) ∧
  (∀ (src w : Nat) (x : Byte) (s : State), w % 8 = 0 → 0x400000000000 ≤ w → w < 0x1000000000000 → storedIn s w (w + 8) = [(w, x)] →
    (∀ i, classOf x = .dataBit i →
      ∃ u, Reads src s u w (w + 8) ∧ nget u.syn w = none ∧ fget u F.ECC_CECNT.COUNT = (fget s F.ECC_CECNT.COUNT + 1) % 2 ^ 64 ∧
        ∀ a, a < 0x1000000000000 → rdByte u a = if a = w + i / 8 then rdByte s a ^^^ BitVec.ofNat 8 (2 ^ (i % 8)) else rdByte s a) ∧
    (classOf x = .checkBit →
      ∃ u, Reads src s u w (w + 8) ∧ nget u.syn w = none ∧ fget u F.ECC_CECNT.COUNT = (fget s F.ECC_CECNT.COUNT + 1) % 2 ^ 64 ∧
        ∀ a, a < 0x1000000000000 → rdByte u a = rdByte s a) ∧
    (classOf x = .poison →
      ∃ u, checkRange src (s, none) w (w + 8) = (u, some (w, 2)) ∧ u = { s with regs := u.regs } ∧
        fget u F.ECC_POISONCNT.COUNT = (fget s F.ECC_POISONCNT.COUNT + 1) % 2 ^ 64) ∧
    (classOf x = .ue →
      ∃ u e, checkRange src (s, none) w (w + 8) = (u, e) ∧
        ((e = some (w, 1) ∧ fget u F.ECC_UECNT.COUNT = (fget s F.ECC_UECNT.COUNT + 1) % 2 ^ 64 ∧ nget u.syn w = some x) ∨
         (e = some (w, 2) ∧ fget u F.ECC_POISONCNT.COUNT = (fget s F.ECC_POISONCNT.COUNT + 1) % 2 ^ 64) ∨
         (e = none ∧ fget u F.ECC_RTRYCNT.COUNT = (fget s F.ECC_RTRYCNT.COUNT + 1) % 2 ^ 64 ∧ nget u.syn w = none))))

/-- R194, R196, R197: bits 63:56 of a word pick its instruction and the rest are its operands; every word spells a well-formed instruction, and every
well-formed instruction, with every operand that its fields admit, has a word that spells it. -/
def Obligations.WordsSpellInstructions : Prop :=
  (∀ (cl : ClusterIx) (st : Stream) (w : BitVec 64),
    (instrOf cl st w).wf = true ∧ opcodeOf (instrOf cl st w) = w.toNat / 2 ^ 56 ∧ issueOf (instrOf cl st w) = some (wordIssue cl st w)) ∧
  (∀ (c : Instr) (i : Issue), issueOf c = some i → c.wf = true → ∃ w, instrOf i.cl i.st w = c) ∧
  (∀ (cl : ClusterIx) (st : Stream) (v w : BitVec 64), instrOf cl st v = instrOf cl st w → v = w)

/-- R179: what a cluster's work changes in the stores need not be visible to another cluster at once, which may read each such byte old or new; the
cluster itself sees it, and another does once the writer has fenced or arrived and it is ordered after that. -/
def Obligations.WritesBecomeVisible : Prop :=
  (∀ (c : Nat) (work : State → State) (s : State), hiddenFrom s c = [] → s.memOk → (work s).memOk → (work s).lost = s.lost →
    let t := throughView c work s
    (∀ a, rdByte t a = rdByte (work s) a) ∧
    ∀ x, x < 0x1000000000000 → synAt s x = 0 → rdPlace (work s) x ≠ rdPlace s x →
      nget t.unseen x = some ⟨c, (clu (work s) c).fences, rdPlace s x⟩) ∧
  (∀ (h : List (Nat × Byte)) (s : State) (a : Nat),
    rdPlace (viewOf s h) a = rdPlace s a ∨ (a, rdPlace (viewOf s h) a) ∈ h) ∧
  (∀ (c d : Nat) (s : State), (∀ e ∈ s.unseen, e.2.writer = d ∧ e.2.fence ≤ (clu s d).fences) →
    hiddenFrom s d = [] ∧ hiddenFrom (seeWrites (fenceWrites s d) c) c = []) ∧
  (∀ (c d : Nat) (s : State) (e : Nat × Unseen), e ∈ s.unseen → e.2.writer = d → c ≠ d → ngetD 0 (clu s c).seen d ≤ e.2.fence →
    (e.1, e.2.old) ∈ hiddenFrom s c)

/-- No command stops the machine: whatever the state and the operands, exec answers a next state, and it leaves the commands that wait behind it
where they are. -/
def Obligations.EveryCommandAnswers : Prop :=
  ∀ (c : Instr) (s : State), ∃ t, exec c s = .next t ∧ t.pending = s.pending

end Issue
end

