-- ==== Sys2Proof/Laws/Dispatch.lean ====
section
/-! SUPPORT. What exec is on each command: its meaning. Later proofs rewrite with these and never unfold the dispatch. -/

namespace Sys2Proof.Machine

theorem exec_nop (iss : Issue) (opc : BitVec 8) (s : State) : exec (.nop iss opc) s = execNop iss opc s := rfl
theorem exec_end (iss : Issue) (s : State) : exec (.end_ iss) s = execEnd iss s := rfl
theorem exec_trap (iss : Issue) (s : State) : exec (.trap iss) s = execTrap iss s := rfl
theorem exec_fenceS (iss : Issue) (s : State) : exec (.fenceS iss) s = execFenceS iss s := rfl
theorem exec_fenceC (iss : Issue) (s : State) : exec (.fenceC iss) s = execFenceC iss s := rfl
theorem exec_fenceG (iss : Issue) (s : State) : exec (.fenceG iss) s = execFenceG iss s := rfl
theorem exec_add (iss : Issue) (s : State) : exec (.add iss) s = execAdd iss s := rfl
theorem exec_sub (iss : Issue) (s : State) : exec (.sub iss) s = execSub iss s := rfl
theorem exec_mul (iss : Issue) (s : State) : exec (.mul iss) s = execMul iss s := rfl
theorem exec_and (iss : Issue) (s : State) : exec (.and iss) s = execAnd iss s := rfl
theorem exec_or (iss : Issue) (s : State) : exec (.or iss) s = execOr iss s := rfl
theorem exec_xor (iss : Issue) (s : State) : exec (.xor iss) s = execXor iss s := rfl
theorem exec_shl (iss : Issue) (s : State) : exec (.shl iss) s = execShl iss s := rfl
theorem exec_shr (iss : Issue) (s : State) : exec (.shr iss) s = execShr iss s := rfl
theorem exec_sra (iss : Issue) (s : State) : exec (.sra iss) s = execSra iss s := rfl
theorem exec_min (iss : Issue) (s : State) : exec (.min iss) s = execMin iss s := rfl
theorem exec_max (iss : Issue) (s : State) : exec (.max iss) s = execMax iss s := rfl
theorem exec_minu (iss : Issue) (s : State) : exec (.minu iss) s = execMinu iss s := rfl
theorem exec_maxu (iss : Issue) (s : State) : exec (.maxu iss) s = execMaxu iss s := rfl
theorem exec_addi (iss : Issue) (s : State) : exec (.addi iss) s = execAddi iss s := rfl
theorem exec_andi (iss : Issue) (s : State) : exec (.andi iss) s = execAndi iss s := rfl
theorem exec_ori (iss : Issue) (s : State) : exec (.ori iss) s = execOri iss s := rfl
theorem exec_xori (iss : Issue) (s : State) : exec (.xori iss) s = execXori iss s := rfl
theorem exec_shli (iss : Issue) (s : State) : exec (.shli iss) s = execShli iss s := rfl
theorem exec_shri (iss : Issue) (s : State) : exec (.shri iss) s = execShri iss s := rfl
theorem exec_srai (iss : Issue) (s : State) : exec (.srai iss) s = execSrai iss s := rfl
theorem exec_li (iss : Issue) (s : State) : exec (.li iss) s = execLi iss s := rfl
theorem exec_lih (iss : Issue) (s : State) : exec (.lih iss) s = execLih iss s := rfl
theorem exec_cmp (iss : Issue) (s : State) : exec (.cmp iss) s = execCmp iss s := rfl
theorem exec_cmpi (iss : Issue) (s : State) : exec (.cmpi iss) s = execCmpi iss s := rfl
theorem exec_pop (iss : Issue) (s : State) : exec (.pop iss) s = execPop iss s := rfl
theorem exec_movA (iss : Issue) (s : State) : exec (.movA iss) s = execMovA iss s := rfl
theorem exec_movS (iss : Issue) (s : State) : exec (.movS iss) s = execMovS iss s := rfl
theorem exec_adda (iss : Issue) (s : State) : exec (.adda iss) s = execAdda iss s := rfl
theorem exec_addai (iss : Issue) (s : State) : exec (.addai iss) s = execAddai iss s := rfl
theorem exec_ldD (iss : Issue) (s : State) : exec (.ldD iss) s = execLdD iss s := rfl
theorem exec_ldW (iss : Issue) (s : State) : exec (.ldW iss) s = execLdW iss s := rfl
theorem exec_stD (iss : Issue) (s : State) : exec (.stD iss) s = execStD iss s := rfl
theorem exec_stW (iss : Issue) (s : State) : exec (.stW iss) s = execStW iss s := rfl
theorem exec_tdLd (iss : Issue) (s : State) : exec (.tdLd iss) s = execTdLd iss s := rfl
theorem exec_tdSt (iss : Issue) (s : State) : exec (.tdSt iss) s = execTdSt iss s := rfl
theorem exec_tdSet (iss : Issue) (s : State) : exec (.tdSet iss) s = execTdSet iss s := rfl
theorem exec_b (iss : Issue) (s : State) : exec (.b iss) s = execB iss s := rfl
theorem exec_bl (iss : Issue) (s : State) : exec (.bl iss) s = execBl iss s := rfl
theorem exec_bi (iss : Issue) (s : State) : exec (.bi iss) s = execBi iss s := rfl
theorem exec_sig (iss : Issue) (s : State) : exec (.sig iss) s = execSig iss s := rfl
theorem exec_wait (iss : Issue) (s : State) : exec (.wait iss) s = execWait iss s := rfl
theorem exec_bar (iss : Issue) (s : State) : exec (.bar iss) s = execBar iss s := rfl
theorem exec_barArr (iss : Issue) (s : State) : exec (.barArr iss) s = execBarArr iss s := rfl
theorem exec_barWt (iss : Issue) (s : State) : exec (.barWt iss) s = execBarWt iss s := rfl
theorem exec_mbxPut (iss : Issue) (s : State) : exec (.mbxPut iss) s = execMbxPut iss s := rfl
theorem exec_ldt (iss : Issue) (s : State) : exec (.ldt iss) s = execLdt iss s := rfl
theorem exec_ldtTr (iss : Issue) (s : State) : exec (.ldtTr iss) s = execLdtTr iss s := rfl
theorem exec_stt (iss : Issue) (s : State) : exec (.stt iss) s = execStt iss s := rfl
theorem exec_dma (iss : Issue) (s : State) : exec (.dma iss) s = execDma iss s := rfl
theorem exec_mmaF8F8 (iss : Issue) (s : State) : exec (.mmaF8F8 iss) s = execMmaF8F8 iss s := rfl
theorem exec_mmaF4xF8 (iss : Issue) (s : State) : exec (.mmaF4xF8 iss) s = execMmaF4xF8 iss s := rfl
theorem exec_mmaF8F4x (iss : Issue) (s : State) : exec (.mmaF8F4x iss) s = execMmaF8F4x iss s := rfl
theorem exec_mmaF4xF4x (iss : Issue) (s : State) : exec (.mmaF4xF4x iss) s = execMmaF4xF4x iss s := rfl
theorem exec_mmaI8I8 (iss : Issue) (s : State) : exec (.mmaI8I8 iss) s = execMmaI8I8 iss s := rfl
theorem exec_mmaI4xI8 (iss : Issue) (s : State) : exec (.mmaI4xI8 iss) s = execMmaI4xI8 iss s := rfl
theorem exec_mmaI8I4x (iss : Issue) (s : State) : exec (.mmaI8I4x iss) s = execMmaI8I4x iss s := rfl
theorem exec_mmaI4xI4x (iss : Issue) (s : State) : exec (.mmaI4xI4x iss) s = execMmaI4xI4x iss s := rfl
theorem exec_mmaBf16Bf16 (iss : Issue) (s : State) : exec (.mmaBf16Bf16 iss) s = execMmaBf16Bf16 iss s := rfl
theorem exec_mmaF16F16 (iss : Issue) (s : State) : exec (.mmaF16F16 iss) s = execMmaF16F16 iss s := rfl
theorem exec_drainRaw (iss : Issue) (s : State) : exec (.drainRaw iss) s = execDrainRaw iss s := rfl
theorem exec_drainAct (iss : Issue) (s : State) : exec (.drainAct iss) s = execDrainAct iss s := rfl
theorem exec_drainGate (iss : Issue) (s : State) : exec (.drainGate iss) s = execDrainGate iss s := rfl
theorem exec_drainDact (iss : Issue) (s : State) : exec (.drainDact iss) s = execDrainDact iss s := rfl
theorem exec_drainDgate (iss : Issue) (s : State) : exec (.drainDgate iss) s = execDrainDgate iss s := rfl
theorem exec_qzBlk (iss : Issue) (s : State) : exec (.qzBlk iss) s = execQzBlk iss s := rfl
theorem exec_qzSheet (iss : Issue) (s : State) : exec (.qzSheet iss) s = execQzSheet iss s := rfl
theorem exec_rowfwdNorm (iss : Issue) (s : State) : exec (.rowfwdNorm iss) s = execRowfwdNorm iss s := rfl
theorem exec_rowfwdSmax (iss : Issue) (s : State) : exec (.rowfwdSmax iss) s = execRowfwdSmax iss s := rfl
theorem exec_rowfwdSmerge (iss : Issue) (s : State) : exec (.rowfwdSmerge iss) s = execRowfwdSmerge iss s := rfl
theorem exec_rowbwdNorm (iss : Issue) (s : State) : exec (.rowbwdNorm iss) s = execRowbwdNorm iss s := rfl
theorem exec_rowbwdSmax (iss : Issue) (s : State) : exec (.rowbwdSmax iss) s = execRowbwdSmax iss s := rfl
theorem exec_vEw (iss : Issue) (s : State) : exec (.vEw iss) s = execVEw iss s := rfl
theorem exec_vRed (iss : Issue) (s : State) : exec (.vRed iss) s = execVRed iss s := rfl
theorem exec_vGather (iss : Issue) (s : State) : exec (.vGather iss) s = execVGather iss s := rfl
theorem exec_vScatter (iss : Issue) (s : State) : exec (.vScatter iss) s = execVScatter iss s := rfl
theorem exec_rsendB8 (iss : Issue) (s : State) : exec (.rsendB8 iss) s = execRsendB8 iss s := rfl
theorem exec_rsendBf16 (iss : Issue) (s : State) : exec (.rsendBf16 iss) s = execRsendBf16 iss s := rfl
theorem exec_rrecv (iss : Issue) (s : State) : exec (.rrecv iss) s = execRrecv iss s := rfl
theorem exec_issueStallRelease (cl : ClusterIx) (st : Stream) (s : State) : exec (.issueStallRelease cl st) s = execIssueStallRelease cl st s := rfl
theorem exec_waitSatisfied (cl : ClusterIx) (st : Stream) (s : State) : exec (.waitSatisfied cl st) s = execWaitSatisfied cl st s := rfl
theorem exec_fenceRelease (cl : ClusterIx) (st : Stream) (s : State) : exec (.fenceRelease cl st) s = execFenceRelease cl st s := rfl
theorem exec_putUnblock (cl : ClusterIx) (st : Stream) (s : State) : exec (.putUnblock cl st) s = execPutUnblock cl st s := rfl
theorem exec_waitTimeout (cl : ClusterIx) (st : Stream) (s : State) : exec (.waitTimeout cl st) s = execWaitTimeout cl st s := rfl
theorem exec_streamEnd (cl : ClusterIx) (st : Stream) (s : State) : exec (.streamEnd cl st) s = execStreamEnd cl st s := rfl
theorem exec_opBegin (cl : ClusterIx) (op : Nat) (s : State) : exec (.opBegin cl op) s = execOpBegin cl op s := rfl
theorem exec_passComplete (cl : ClusterIx) (e : EngineIx) (s : State) : exec (.passComplete cl e) s = execPassComplete cl e s := rfl
theorem exec_drainComplete (cl : ClusterIx) (e : EngineIx) (s : State) : exec (.drainComplete cl e) s = execDrainComplete cl e s := rfl
theorem exec_quantiserComplete (cl : ClusterIx) (s : State) : exec (.quantiserComplete cl) s = execQuantiserComplete cl s := rfl
theorem exec_rowOpComplete (cl : ClusterIx) (s : State) : exec (.rowOpComplete cl) s = execRowOpComplete cl s := rfl
theorem exec_vectorOpComplete (cl : ClusterIx) (s : State) : exec (.vectorOpComplete cl) s = execVectorOpComplete cl s := rfl
theorem exec_dmaComplete (cl : ClusterIx) (ch : ChanIx) (s : State) : exec (.dmaComplete cl ch) s = execDmaComplete cl ch s := rfl
theorem exec_slotBoundary (cl : ClusterIx) (s : State) : exec (.slotBoundary cl) s = execSlotBoundary cl s := rfl
theorem exec_tileBroadcast (p : PartIx) (s : State) : exec (.tileBroadcast p) s = execTileBroadcast p s := rfl
theorem exec_runStart (p : PartIx) (s : State) : exec (.runStart p) s = execRunStart p s := rfl
theorem exec_runEnd (p : PartIx) (s : State) : exec (.runEnd p) s = execRunEnd p s := rfl
theorem exec_runAbandon (cl : ClusterIx) (s : State) : exec (.runAbandon cl) s = execRunAbandon cl s := rfl
theorem exec_stepFault (p : PartIx) (s : State) : exec (.stepFault p) s = execStepFault p s := rfl
theorem exec_verdict (p : PartIx) (s : State) : exec (.verdict p) s = execVerdict p s := rfl
theorem exec_answerCommit (src : Source) (p : PartIx) (s : State) : exec (.answerCommit src p) s = execAnswerCommit src p s := rfl
theorem exec_answerReplay (src : Source) (p : PartIx) (s : State) : exec (.answerReplay src p) s = execAnswerReplay src p s := rfl
theorem exec_answerSkip (src : Source) (p : PartIx) (s : State) : exec (.answerSkip src p) s = execAnswerSkip src p s := rfl
theorem exec_apply (src : Source) (p : PartIx) (s : State) : exec (.apply src p) s = execApply src p s := rfl
theorem exec_holdNext (src : Source) (p : PartIx) (s : State) : exec (.holdNext src p) s = execHoldNext src p s := rfl
theorem exec_lossReport (src : Source) (p : PartIx) (v : BitVec 32) (s : State) : exec (.lossReport src p v) s = execLossReport src p v s := rfl
theorem exec_wdtKick (src : Source) (n : CoreIx) (v : BitVec 32) (s : State) : exec (.wdtKick src n v) s = execWdtKick src n v s := rfl
theorem exec_coreWdt (n : CoreIx) (pc : Word) (s : State) : exec (.coreWdt n pc) s = execCoreWdt n pc s := rfl
theorem exec_coreRestart (n : CoreIx) (s : State) : exec (.coreRestart n) s = execCoreRestart n s := rfl
theorem exec_coreRelease (src : Source) (v : BitVec 32) (s : State) : exec (.coreRelease src v) s = execCoreRelease src v s := rfl
theorem exec_partWrite (src : Source) (p : PartIx) (v : Word) (s : State) : exec (.partWrite src p v) s = execPartWrite src p v s := rfl
theorem exec_winWrite (src : Source) (p : PartIx) (v : Word) (s : State) : exec (.winWrite src p v) s = execWinWrite src p v s := rfl
theorem exec_registerWrite (src : Source) (addr : BitVec 48) (width : Nat) (v : Word) (s : State) : exec (.registerWrite src addr width v) s = execRegisterWrite src addr width v s := rfl
theorem exec_updateComplete (p : PartIx) (s : State) : exec (.updateComplete p) s = execUpdateComplete p s := rfl
theorem exec_emit (p : PartIx) (s : State) : exec (.emit p) s = execEmit p s := rfl
theorem exec_gatherStart (p : PartIx) (tag : BitVec 12) (s : State) : exec (.gatherStart p tag) s = execGatherStart p tag s := rfl
theorem exec_gatherTimeout (p : PartIx) (tag : BitVec 12) (s : State) : exec (.gatherTimeout p tag) s = execGatherTimeout p tag s := rfl
theorem exec_portDetect (port : PortIx) (s : State) : exec (.portDetect port) s = execPortDetect port s := rfl
theorem exec_laneSignal (port : PortIx) (lane : LaneIx) (s : State) : exec (.laneSignal port lane) s = execLaneSignal port lane s := rfl
theorem exec_phyTrainDone (port : PortIx) (locked : BitVec 4) (s : State) : exec (.phyTrainDone port locked) s = execPhyTrainDone port locked s := rfl
theorem exec_phyTrainTimeout (port : PortIx) (locked : BitVec 4) (s : State) : exec (.phyTrainTimeout port locked) s = execPhyTrainTimeout port locked s := rfl
theorem exec_initFlit (port : PortIx) (peer : PeerInit) (s : State) : exec (.initFlit port peer) s = execInitFlit port peer s := rfl
theorem exec_initTimeout (port : PortIx) (s : State) : exec (.initTimeout port) s = execInitTimeout port s := rfl
theorem exec_retrainTimeout (port : PortIx) (s : State) : exec (.retrainTimeout port) s = execRetrainTimeout port s := rfl
theorem exec_fecLockLoss (port : PortIx) (lane : LaneIx) (s : State) : exec (.fecLockLoss port lane) s = execFecLockLoss port lane s := rfl
theorem exec_portRetrain (src : Source) (port : PortIx) (s : State) : exec (.portRetrain src port) s = execPortRetrain src port s := rfl
theorem exec_portDisable (src : Source) (port : PortIx) (s : State) : exec (.portDisable src port) s = execPortDisable src port s := rfl
theorem exec_portEnable (src : Source) (port : PortIx) (s : State) : exec (.portEnable src port) s = execPortEnable src port s := rfl
theorem exec_flitReceive (port : PortIx) (flit : Flit) (s : State) : exec (.flitReceive port flit) s = execFlitReceive port flit s := rfl
theorem exec_packetForward (input : SwitchInput) (vc : VcIx) (s : State) : exec (.packetForward input vc) s = execPacketForward input vc s := rfl
theorem exec_writeReceive  (s : State) : exec (.writeReceive) s = execWriteReceive s := rfl
theorem exec_wackReceive  (s : State) : exec (.wackReceive) s = execWackReceive s := rfl
theorem exec_refuseReceive  (s : State) : exec (.refuseReceive) s = execRefuseReceive s := rfl
theorem exec_eNakReceive  (s : State) : exec (.eNakReceive) s = execENakReceive s := rfl
theorem exec_e2eTimeout (tid : BitVec 17) (s : State) : exec (.e2eTimeout tid) s = execE2eTimeout tid s := rfl
theorem exec_barUpReceive  (s : State) : exec (.barUpReceive) s = execBarUpReceive s := rfl
theorem exec_barDownReceive  (s : State) : exec (.barDownReceive) s = execBarDownReceive s := rfl
theorem exec_barrierRelease (bar : BarrierId) (s : State) : exec (.barrierRelease bar) s = execBarrierRelease bar s := rfl
theorem exec_stationAssign (src : Source) (v : BitVec 32) (s : State) : exec (.stationAssign src v) s = execStationAssign src v s := rfl
theorem exec_tsyncSend  (s : State) : exec (.tsyncSend) s = execTsyncSend s := rfl
theorem exec_tsyncReceive (sub : Nat) (s : State) : exec (.tsyncReceive sub) s = execTsyncReceive sub s := rfl
theorem exec_redScatterReceive  (s : State) : exec (.redScatterReceive) s = execRedScatterReceive s := rfl
theorem exec_wireBlockForward (p : PartIx) (tag : BitVec 12) (block : Nat) (s : State) : exec (.wireBlockForward p tag block) s = execWireBlockForward p tag block s := rfl
theorem exec_redGatherReceive  (s : State) : exec (.redGatherReceive) s = execRedGatherReceive s := rfl
theorem exec_hopReceive  (s : State) : exec (.hopReceive) s = execHopReceive s := rfl
theorem exec_closureFinal (p : PartIx) (tag : BitVec 12) (s : State) : exec (.closureFinal p tag) s = execClosureFinal p tag s := rfl
theorem exec_upStatusReceive  (s : State) : exec (.upStatusReceive) s = execUpStatusReceive s := rfl
theorem exec_upMaxReceive  (s : State) : exec (.upMaxReceive) s = execUpMaxReceive s := rfl
theorem exec_downStatusReceive  (s : State) : exec (.downStatusReceive) s = execDownStatusReceive s := rfl
theorem exec_downMaxReceive  (s : State) : exec (.downMaxReceive) s = execDownMaxReceive s := rfl
theorem exec_preUpReceive  (s : State) : exec (.preUpReceive) s = execPreUpReceive s := rfl
theorem exec_preDownReceive  (s : State) : exec (.preDownReceive) s = execPreDownReceive s := rfl
theorem exec_gatherHopReceive  (s : State) : exec (.gatherHopReceive) s = execGatherHopReceive s := rfl
theorem exec_bucketTimeout (p : PartIx) (tag : BitVec 12) (s : State) : exec (.bucketTimeout p tag) s = execBucketTimeout p tag s := rfl
theorem exec_commitArrive (p : PartIx) (s : State) : exec (.commitArrive p) s = execCommitArrive p s := rfl
theorem exec_ckptStaged (p : PartIx) (s : State) : exec (.ckptStaged p) s = execCkptStaged p s := rfl
theorem exec_commitTimeout (p : PartIx) (s : State) : exec (.commitTimeout p) s = execCommitTimeout p s := rfl
theorem exec_mirrorSendTimeout (p : PartIx) (s : State) : exec (.mirrorSendTimeout p) s = execMirrorSendTimeout p s := rfl
theorem exec_buddyWrite (src : Source) (p : PartIx) (which : BuddyReg) (v : Word) (s : State) : exec (.buddyWrite src p which v) s = execBuddyWrite src p which v s := rfl
theorem exec_halt (src : Source) (p : PartIx) (s : State) : exec (.halt src p) s = execHalt src p s := rfl
theorem exec_flip (src : Source) (p : PartIx) (s : State) : exec (.flip src p) s = execFlip src p s := rfl
theorem exec_resume (src : Source) (p : PartIx) (s : State) : exec (.resume src p) s = execResume src p s := rfl
theorem exec_mirrorLoad (src : Source) (p : PartIx) (s : State) : exec (.mirrorLoad src p) s = execMirrorLoad src p s := rfl
theorem exec_restore (src : Source) (p : PartIx) (s : State) : exec (.restore src p) s = execRestore src p s := rfl
theorem exec_restoreDone (p : PartIx) (s : State) : exec (.restoreDone p) s = execRestoreDone p s := rfl
theorem exec_ckptAt (src : Source) (p : PartIx) (s : State) : exec (.ckptAt src p) s = execCkptAt src p s := rfl
theorem exec_drained (src : Source) (p : PartIx) (s : State) : exec (.drained src p) s = execDrained src p s := rfl
theorem exec_setEpoch (src : Source) (p : PartIx) (s : State) : exec (.setEpoch src p) s = execSetEpoch src p s := rfl
theorem exec_energySample (sample : EnergySample) (s : State) : exec (.energySample sample) s = execEnergySample sample s := rfl
theorem exec_governorPeriod (sensors : List Sensor) (s : State) : exec (.governorPeriod sensors) s = execGovernorPeriod sensors s := rfl
theorem exec_settingChange  (s : State) : exec (.settingChange) s = execSettingChange s := rfl
theorem exec_droopTrip (cl : ClusterIx) (s : State) : exec (.droopTrip cl) s = execDroopTrip cl s := rfl
theorem exec_droopHoldEnd (cl : ClusterIx) (s : State) : exec (.droopHoldEnd cl) s = execDroopHoldEnd cl s := rfl
theorem exec_tokenRefill  (s : State) : exec (.tokenRefill) s = execTokenRefill s := rfl
theorem exec_wakeGrant  (s : State) : exec (.wakeGrant) s = execWakeGrant s := rfl
theorem exec_domainWakeDone (d : DomainIx) (s : State) : exec (.domainWakeDone d) s = execDomainWakeDone d s := rfl
theorem exec_domRetain (src : Source) (clusters : BitVec 32) (s : State) : exec (.domRetain src clusters) s = execDomRetain src clusters s := rfl
theorem exec_domWake (src : Source) (clusters : BitVec 32) (s : State) : exec (.domWake src clusters) s = execDomWake src clusters s := rfl
theorem exec_pwrCapWrite (src : Source) (v : BitVec 32) (s : State) : exec (.pwrCapWrite src v) s = execPwrCapWrite src v s := rfl
theorem exec_coolLoss  (s : State) : exec (.coolLoss) s = execCoolLoss s := rfl
theorem exec_restart (src : Source) (v : BitVec 32) (s : State) : exec (.restart src v) s = execRestart src v s := rfl
theorem exec_scrubGo (src : Source) (v : BitVec 32) (s : State) : exec (.scrubGo src v) s = execScrubGo src v s := rfl
theorem exec_scrubDone  (s : State) : exec (.scrubDone) s = execScrubDone s := rfl
theorem exec_locationDrop (iss : Nat) (s : State) : exec (.locationDrop iss) s = execLocationDrop iss s := rfl
theorem exec_retirementRecordWrite  (s : State) : exec (.retirementRecordWrite) s = execRetirementRecordWrite s := rfl
theorem exec_acceptEmpty (src : Source) (v : BitVec 32) (s : State) : exec (.acceptEmpty src v) s = execAcceptEmpty src v s := rfl
theorem exec_thaw (src : Source) (v : BitVec 32) (s : State) : exec (.thaw src v) s = execThaw src v s := rfl
theorem exec_fieldBookWrite  (s : State) : exec (.fieldBookWrite) s = execFieldBookWrite s := rfl
theorem exec_conserveCheck  (s : State) : exec (.conserveCheck) s = execConserveCheck s := rfl
theorem exec_meridianLight  (s : State) : exec (.meridianLight) s = execMeridianLight s := rfl
theorem exec_meridianLock  (s : State) : exec (.meridianLock) s = execMeridianLock s := rfl
theorem exec_meridianLockTimeout  (s : State) : exec (.meridianLockTimeout) s = execMeridianLockTimeout s := rfl
theorem exec_meridianLockLoss  (s : State) : exec (.meridianLockLoss) s = execMeridianLockLoss s := rfl
theorem exec_helloSend  (s : State) : exec (.helloSend) s = execHelloSend s := rfl
theorem exec_helloReceive (frame : Frame) (s : State) : exec (.helloReceive frame) s = execHelloReceive frame s := rfl
theorem exec_cmdFrameReceive (frame : Frame) (s : State) : exec (.cmdFrameReceive frame) s = execCmdFrameReceive frame s := rfl
theorem exec_ctrlFrameReceive (frame : Frame) (s : State) : exec (.ctrlFrameReceive frame) s = execCtrlFrameReceive frame s := rfl
theorem exec_ackTimeout (sess : SessIx) (s : State) : exec (.ackTimeout sess) s = execAckTimeout sess s := rfl
theorem exec_frameSend (sess : SessIx) (s : State) : exec (.frameSend sess) s = execFrameSend sess s := rfl
theorem exec_load (sess : SessIx) (s : State) : exec (.load sess) s = execLoad sess s := rfl
theorem exec_unload (sess : SessIx) (s : State) : exec (.unload sess) s = execUnload sess s := rfl
theorem exec_run (sess : SessIx) (s : State) : exec (.run sess) s = execRun sess s := rfl
theorem exec_read (sess : SessIx) (s : State) : exec (.read sess) s = execRead sess s := rfl
theorem exec_write (sess : SessIx) (s : State) : exec (.write sess) s = execWrite sess s := rfl
theorem exec_meridianMbxPut (sess : SessIx) (s : State) : exec (.meridianMbxPut sess) s = execMeridianMbxPut sess s := rfl
theorem exec_mbxGet (sess : SessIx) (s : State) : exec (.mbxGet sess) s = execMbxGet sess s := rfl
theorem exec_mbxStat (sess : SessIx) (s : State) : exec (.mbxStat sess) s = execMbxStat sess s := rfl
theorem exec_mbxRing (sess : SessIx) (s : State) : exec (.mbxRing sess) s = execMbxRing sess s := rfl
theorem exec_mbxPutTimeout (sess : SessIx) (s : State) : exec (.mbxPutTimeout sess) s = execMbxPutTimeout sess s := rfl
theorem exec_telem (sess : SessIx) (s : State) : exec (.telem sess) s = execTelem sess s := rfl
theorem exec_attest (sess : SessIx) (s : State) : exec (.attest sess) s = execAttest sess s := rfl
theorem exec_freeze (sess : SessIx) (s : State) : exec (.freeze sess) s = execFreeze sess s := rfl
theorem exec_readout (sess : SessIx) (s : State) : exec (.readout sess) s = execReadout sess s := rfl
theorem exec_mbxPost (src : Source) (n : MbxIx) (v : Word) (s : State) : exec (.mbxPost src n v) s = execMbxPost src n v s := rfl
theorem exec_mbxDataRead (src : Source) (n : MbxIx) (s : State) : exec (.mbxDataRead src n) s = execMbxDataRead src n s := rfl
theorem exec_recordPost (iss : RecordBoxIx) (s : State) : exec (.recordPost iss) s = execRecordPost iss s := rfl
theorem exec_doorbellRing (src : Source) (c : ClusterIx) (v : Word) (s : State) : exec (.doorbellRing src c v) s = execDoorbellRing src c v s := rfl
theorem exec_resetPin  (s : State) : exec (.resetPin) s = execResetPin s := rfl
theorem exec_hubResetWarm (src : Source) (v : BitVec 32) (s : State) : exec (.hubResetWarm src v) s = execHubResetWarm src v s := rfl
theorem exec_hubResetCold (src : Source) (v : BitVec 32) (s : State) : exec (.hubResetCold src v) s = execHubResetCold src v s := rfl
theorem exec_inputUndervoltage (mv : Nat) (s : State) : exec (.inputUndervoltage mv) s = execInputUndervoltage mv s := rfl
theorem exec_inputOvervoltage (mv : Nat) (s : State) : exec (.inputOvervoltage mv) s = execInputOvervoltage mv s := rfl
theorem exec_inputPowerGood (mv : Nat) (s : State) : exec (.inputPowerGood mv) s = execInputPowerGood mv s := rfl
theorem exec_rails (tray : BitVec 4) (slot : BitVec 4) (s : State) : exec (.rails tray slot) s = execRails tray slot s := rfl
theorem exec_rom  (s : State) : exec (.rom) s = execRom s := rfl
theorem exec_fwLoad  (s : State) : exec (.fwLoad) s = execFwLoad s := rfl
theorem exec_records  (s : State) : exec (.records) s = execRecords s := rfl
theorem exec_identity  (s : State) : exec (.identity) s = execIdentity s := rfl
theorem exec_domains  (s : State) : exec (.domains) s = execDomains s := rfl
theorem exec_selftest (fails : List SelfTestFail) (s : State) : exec (.selftest fails) s = execSelftest fails s := rfl
theorem exec_stores  (s : State) : exec (.stores) s = execStores s := rfl
theorem exec_dram (failed : List Nat) (s : State) : exec (.dram failed) s = execDram failed s := rfl
theorem exec_links  (s : State) : exec (.links) s = execLinks s := rfl
theorem exec_ready  (s : State) : exec (.ready) s = execReady s := rfl
theorem exec_bootTimeout  (s : State) : exec (.bootTimeout) s = execBootTimeout s := rfl
theorem exec_program (src : Source) (s : State) : exec (.program src) s = execProgram src s := rfl
theorem exec_floor (src : Source) (s : State) : exec (.floor src) s = execFloor src s := rfl
theorem exec_abandon (src : Source) (s : State) : exec (.abandon src) s = execAbandon src s := rfl
theorem exec_boot (src : Source) (s : State) : exec (.boot src) s = execBoot src s := rfl
theorem exec_freezePin  (s : State) : exec (.freezePin) s = execFreezePin s := rfl
theorem exec_rootUnlock  (s : State) : exec (.rootUnlock) s = execRootUnlock s := rfl
theorem exec_idcode  (s : State) : exec (.idcode) s = execIdcode s := rfl
theorem exec_bypass  (s : State) : exec (.bypass) s = execBypass s := rfl
theorem exec_samplePreload (pins : List Bool) (s : State) : exec (.samplePreload pins) s = execSamplePreload pins s := rfl
theorem exec_extest (pins : List Bool) (s : State) : exec (.extest pins) s = execExtest pins s := rfl
theorem exec_roAddr (v : Word) (s : State) : exec (.roAddr v) s = execRoAddr v s := rfl
theorem exec_roData  (s : State) : exec (.roData) s = execRoData s := rfl
theorem exec_smbSetAddress (addr : BitVec 48) (pecOk : Bool) (s : State) : exec (.smbSetAddress addr pecOk) s = execSmbSetAddress addr pecOk s := rfl
theorem exec_smbReadRegister (pecOk : Bool) (s : State) : exec (.smbReadRegister pecOk) s = execSmbReadRegister pecOk s := rfl
theorem exec_smbWriteRegister (width : Nat) (v : Word) (pecOk : Bool) (s : State) : exec (.smbWriteRegister width v pecOk) s = execSmbWriteRegister width v pecOk s := rfl
theorem exec_smbReadStatus  (s : State) : exec (.smbReadStatus) s = execSmbReadStatus s := rfl
theorem exec_loadDataReturn (cl : ClusterIx) (st : Stream) (s : State) : exec (.loadDataReturn cl st) s = execLoadDataReturn cl st s := rfl
theorem exec_coreUe (n : CoreIx) (addr : BitVec 48) (syndrome : BitVec 8) (s : State) : exec (.coreUe n addr syndrome) s = execCoreUe n addr syndrome s := rfl
theorem exec_junction125cPowerOff  (s : State) : exec (.junction125cPowerOff) s = execJunction125cPowerOff s := rfl
theorem exec_tapReset  (s : State) : exec (.tapReset) s = execTapReset s := rfl

end Sys2Proof.Machine
end

