-- ==== Sys2Proof/Laws/Maps.lean ====
section
/-! SUPPORT. Laws of the sorted maps and of bit fields. The lookup laws hold of every list; the order laws say that the operations keep the
canonical form: keys that rise strictly and no entry equal to what an unlisted key reads as. -/

namespace Sys2Proof.Machine

variable {α : Type}

/-! ### Lookup -/

@[simp] theorem nget_nset_self (m : List (Nat × α)) (a : Nat) (v : α) : nget (nset m a v) a = some v := by
  induction m with
  | nil => simp [nset, nget]
  | cons c t ih =>
    obtain ⟨k, w⟩ := c
    simp only [nset]
    split
    · simp [nget]
    · split
      · simp [nget]
      · rename_i h; simp [nget, Ne.symm h, ih]

theorem nget_nset_of_ne (m : List (Nat × α)) {a b : Nat} (v : α) (h : b ≠ a) : nget (nset m a v) b = nget m b := by
  induction m with
  | nil => simp [nset, nget, h.symm]
  | cons c t ih =>
    obtain ⟨k, w⟩ := c
    simp only [nset]
    split
    · simp [nget, h.symm]
    · split
      · rename_i hk; subst hk; simp [nget, h.symm]
      · simp [nget, ih]

theorem nget_filter_of_pos (m : List (Nat × α)) (p : Nat → Bool) {a : Nat} (h : p a = true) :
    nget (m.filter (fun c => p c.1)) a = nget m a := by
  induction m with
  | nil => rfl
  | cons c t ih =>
    obtain ⟨k, w⟩ := c
    by_cases hk : k = a
    · subst hk; simp [List.filter, h, nget]
    · by_cases hp : p k = true
      · simp [List.filter, hp, nget, hk, ih]
      · simp [List.filter, hp, nget, hk, ih]

theorem nget_filter_of_neg (m : List (Nat × α)) (p : Nat → Bool) {a : Nat} (h : p a = false) :
    nget (m.filter (fun c => p c.1)) a = none := by
  induction m with
  | nil => rfl
  | cons c t ih =>
    obtain ⟨k, w⟩ := c
    by_cases hp : p k = true
    · have hk : k ≠ a := by intro e; subst e; simp [h] at hp
      simp [List.filter, hp, nget, hk, ih]
    · simp [List.filter, hp, ih]

@[simp] theorem nget_ndel_self (m : List (Nat × α)) (a : Nat) : nget (ndel m a) a = none :=
  nget_filter_of_neg m (fun k => k != a) (by simp)

theorem nget_ndel_of_ne (m : List (Nat × α)) {a b : Nat} (h : b ≠ a) : nget (ndel m a) b = nget m b :=
  nget_filter_of_pos m (fun k => k != a) (by simpa using h)

theorem nget_ndelRange_of_mem (m : List (Nat × α)) {lo hi a : Nat} (h1 : lo ≤ a) (h2 : a < hi) : nget (ndelRange m lo hi) a = none :=
  nget_filter_of_neg m (fun k => k < lo || hi ≤ k) (by simp; omega)

theorem nget_ndelRange_of_not_mem (m : List (Nat × α)) {lo hi a : Nat} (h : a < lo ∨ hi ≤ a) : nget (ndelRange m lo hi) a = nget m a :=
  nget_filter_of_pos m (fun k => k < lo || hi ≤ k) (by simpa using h)

@[simp] theorem ngetD_nset_self (d : α) (m : List (Nat × α)) (a : Nat) (v : α) : ngetD d (nset m a v) a = v := by simp [ngetD]

theorem ngetD_nset_of_ne (d : α) (m : List (Nat × α)) {a b : Nat} (v : α) (h : b ≠ a) : ngetD d (nset m a v) b = ngetD d m b := by
  simp [ngetD, nget_nset_of_ne m v h]

@[simp] theorem ngetD_nput_self [DecidableEq α] (d : α) (m : List (Nat × α)) (a : Nat) (v : α) : ngetD d (nput d m a v) a = v := by
  unfold nput; split
  · rename_i h; simp [ngetD, h]
  · simp

theorem nget_nput_of_ne [DecidableEq α] (d : α) (m : List (Nat × α)) {a b : Nat} (v : α) (h : b ≠ a) :
    nget (nput d m a v) b = nget m b := by
  unfold nput; split
  · exact nget_ndel_of_ne m h
  · exact nget_nset_of_ne m v h

theorem ngetD_nput_of_ne [DecidableEq α] (d d' : α) (m : List (Nat × α)) {a b : Nat} (v : α) (h : b ≠ a) :
    ngetD d (nput d' m a v) b = ngetD d m b := by
  simp [ngetD, nget_nput_of_ne d' m v h]

/-- What a lookup after a put reads, in one line. -/
theorem ngetD_nput [DecidableEq α] (d : α) (m : List (Nat × α)) (a b : Nat) (v : α) :
    ngetD d (nput d m a v) b = if b = a then v else ngetD d m b := by
  split
  · rename_i h; subst h; simp
  · rename_i h; exact ngetD_nput_of_ne d d m v h

theorem nget_eq_none_iff (m : List (Nat × α)) (a : Nat) : nget m a = none ↔ ∀ c ∈ m, c.1 ≠ a := by
  induction m with
  | nil => simp [nget]
  | cons c t ih =>
    obtain ⟨k, w⟩ := c
    by_cases hk : k = a
    · simp [nget, hk]
    · simp [nget, hk, ih]

/-! ### Bit fields -/

/-- A field that was put reads back, modulo its width, when the register is wide enough. -/
theorem natBits_natPut (x hi lo v : Nat) (h : lo ≤ hi) : natBits (natPut x hi lo v) hi lo = v % 2 ^ (hi + 1 - lo) := by
  unfold natBits natPut
  have e : 2 ^ (hi + 1) = 2 ^ (hi + 1 - lo) * 2 ^ lo := by rw [← Nat.pow_add]; congr 1; omega
  have hx : x % 2 ^ lo < 2 ^ lo := Nat.mod_lt _ (by positivity)
  have h1 : (x / 2 ^ (hi + 1) * 2 ^ (hi + 1) + v % 2 ^ (hi + 1 - lo) * 2 ^ lo + x % 2 ^ lo) / 2 ^ lo
      = x / 2 ^ (hi + 1) * 2 ^ (hi + 1 - lo) + v % 2 ^ (hi + 1 - lo) := by
    rw [e]
    rw [show x / (2 ^ (hi + 1 - lo) * 2 ^ lo) * (2 ^ (hi + 1 - lo) * 2 ^ lo) + v % 2 ^ (hi + 1 - lo) * 2 ^ lo + x % 2 ^ lo
      = x % 2 ^ lo + 2 ^ lo * (x / (2 ^ (hi + 1 - lo) * 2 ^ lo) * 2 ^ (hi + 1 - lo) + v % 2 ^ (hi + 1 - lo)) by ring]
    rw [Nat.add_mul_div_left _ _ (by positivity), Nat.div_eq_of_lt hx, Nat.zero_add]
  rw [h1, Nat.mul_comm, Nat.mul_add_mod, Nat.mod_mod]

theorem natPut_lt (x hi lo v w : Nat) (hx : x < 2 ^ w) (h : lo ≤ hi) (hw : hi < w) : natPut x hi lo v < 2 ^ w := by
  unfold natPut
  have e : 2 ^ (hi + 1) = 2 ^ (hi + 1 - lo) * 2 ^ lo := by rw [← Nat.pow_add]; congr 1; omega
  have ew : 2 ^ w = 2 ^ (w - (hi + 1)) * 2 ^ (hi + 1) := by rw [← Nat.pow_add]; congr 1; omega
  have h1 : x % 2 ^ lo < 2 ^ lo := Nat.mod_lt _ (by positivity)
  have h2 : v % 2 ^ (hi + 1 - lo) < 2 ^ (hi + 1 - lo) := Nat.mod_lt _ (by positivity)
  have h3 : x / 2 ^ (hi + 1) < 2 ^ (w - (hi + 1)) := by
    rw [Nat.div_lt_iff_lt_mul (by positivity), ← ew]; exact hx
  have h4 : v % 2 ^ (hi + 1 - lo) * 2 ^ lo + x % 2 ^ lo < 2 ^ (hi + 1) := by
    rw [e]
    calc v % 2 ^ (hi + 1 - lo) * 2 ^ lo + x % 2 ^ lo < v % 2 ^ (hi + 1 - lo) * 2 ^ lo + 2 ^ lo := by omega
      _ = (v % 2 ^ (hi + 1 - lo) + 1) * 2 ^ lo := by ring
      _ ≤ _ := Nat.mul_le_mul_right _ h2
  calc _ < x / 2 ^ (hi + 1) * 2 ^ (hi + 1) + 2 ^ (hi + 1) := by omega
    _ = (x / 2 ^ (hi + 1) + 1) * 2 ^ (hi + 1) := by ring
    _ ≤ 2 ^ (w - (hi + 1)) * 2 ^ (hi + 1) := Nat.mul_le_mul_right _ h3
    _ = 2 ^ w := ew.symm

/-- A field above the one that was put keeps its value. -/
theorem natBits_natPut_above (x hi lo v h2 l2 : Nat) (h : lo ≤ hi) (hl : hi < l2) : natBits (natPut x hi lo v) h2 l2 = natBits x h2 l2 := by
  unfold natBits
  congr 1
  have h1 : x % 2 ^ lo < 2 ^ lo := Nat.mod_lt _ (by positivity)
  have h2' : v % 2 ^ (hi + 1 - lo) < 2 ^ (hi + 1 - lo) := Nat.mod_lt _ (by positivity)
  have e : 2 ^ (hi + 1) = 2 ^ (hi + 1 - lo) * 2 ^ lo := by rw [← Nat.pow_add]; congr 1; omega
  have h4 : v % 2 ^ (hi + 1 - lo) * 2 ^ lo + x % 2 ^ lo < 2 ^ (hi + 1) := by
    rw [e]
    calc v % 2 ^ (hi + 1 - lo) * 2 ^ lo + x % 2 ^ lo < v % 2 ^ (hi + 1 - lo) * 2 ^ lo + 2 ^ lo := by omega
      _ = (v % 2 ^ (hi + 1 - lo) + 1) * 2 ^ lo := by ring
      _ ≤ _ := Nat.mul_le_mul_right _ h2'
  have e2 : 2 ^ l2 = 2 ^ (hi + 1) * 2 ^ (l2 - (hi + 1)) := by rw [← Nat.pow_add]; congr 1; omega
  rw [e2, ← Nat.div_div_eq_div_mul, ← Nat.div_div_eq_div_mul]
  congr 1
  unfold natPut
  rw [show x / 2 ^ (hi + 1) * 2 ^ (hi + 1) + v % 2 ^ (hi + 1 - lo) * 2 ^ lo + x % 2 ^ lo
    = (v % 2 ^ (hi + 1 - lo) * 2 ^ lo + x % 2 ^ lo) + 2 ^ (hi + 1) * (x / 2 ^ (hi + 1)) by ring]
  rw [Nat.add_mul_div_left _ _ (by positivity), Nat.div_eq_of_lt h4, Nat.zero_add]

/-- A field below the one that was put keeps its value. -/
theorem natBits_natPut_below (x hi lo v h2 l2 : Nat) (h : lo ≤ hi) (h2l : l2 ≤ h2) (hl : h2 < lo) :
    natBits (natPut x hi lo v) h2 l2 = natBits x h2 l2 := by
  unfold natBits
  have m : ∀ y, y / 2 ^ l2 % 2 ^ (h2 + 1 - l2) = y % 2 ^ (h2 + 1) / 2 ^ l2 := by
    intro y
    have e : 2 ^ (h2 + 1) = 2 ^ l2 * 2 ^ (h2 + 1 - l2) := by rw [← Nat.pow_add]; congr 1; omega
    rw [e, Nat.mod_mul_right_div_self]
  rw [m, m]
  congr 1
  have e1 : 2 ^ (hi + 1) = 2 ^ (h2 + 1) * 2 ^ (hi - h2) := by rw [← Nat.pow_add]; congr 1; omega
  have e2 : 2 ^ lo = 2 ^ (h2 + 1) * 2 ^ (lo - (h2 + 1)) := by rw [← Nat.pow_add]; congr 1; omega
  unfold natPut
  have hx : x % 2 ^ lo % 2 ^ (h2 + 1) = x % 2 ^ (h2 + 1) := Nat.mod_mod_of_dvd _ ⟨_, e2⟩
  rw [e1]
  rw [show x / (2 ^ (h2 + 1) * 2 ^ (hi - h2)) * (2 ^ (h2 + 1) * 2 ^ (hi - h2)) + v % 2 ^ (hi + 1 - lo) * 2 ^ lo + x % 2 ^ lo
    = 2 ^ (h2 + 1) * (x / (2 ^ (h2 + 1) * 2 ^ (hi - h2)) * 2 ^ (hi - h2) + v % 2 ^ (hi + 1 - lo) * 2 ^ (lo - (h2 + 1))) + x % 2 ^ lo by
      conv_lhs => rw [show v % 2 ^ (hi + 1 - lo) * 2 ^ lo = v % 2 ^ (hi + 1 - lo) * (2 ^ (h2 + 1) * 2 ^ (lo - (h2 + 1))) by rw [← e2]]
      ring]
  rw [Nat.mul_add_mod, hx]

/-! ### The canonical form -/

/-- Every key is above a bound, and the keys rise strictly. -/
theorem nsorted_cons (a : Nat) (v : α) (t : List (Nat × α)) :
    nsorted ((a, v) :: t) = true ↔ (∀ c ∈ t, a < c.1) ∧ nsorted t = true := by
  induction t generalizing a v with
  | nil => simp [nsorted]
  | cons c t ih =>
    obtain ⟨b, w⟩ := c
    simp only [nsorted, Bool.and_eq_true, decide_eq_true_eq, List.mem_cons, forall_eq_or_imp]
    constructor
    · rintro ⟨h1, h2⟩
      refine ⟨⟨h1, ?_⟩, h2⟩
      intro x hx
      have := ((ih b w).1 h2).1 x hx
      omega
    · rintro ⟨⟨h1, _⟩, h2⟩
      exact ⟨h1, h2⟩

theorem nsorted_filter (m : List (Nat × α)) (p : Nat × α → Bool) (h : nsorted m = true) : nsorted (m.filter p) = true := by
  induction m with
  | nil => rfl
  | cons c t ih =>
    obtain ⟨k, w⟩ := c
    obtain ⟨h1, h2⟩ := (nsorted_cons k w t).1 h
    by_cases hp : p (k, w) = true
    · rw [List.filter_cons_of_pos hp, nsorted_cons]
      exact ⟨fun c hc => h1 c (List.mem_filter.1 hc).1, ih h2⟩
    · rw [List.filter_cons_of_neg hp]; exact ih h2

theorem mem_nset (m : List (Nat × α)) (a : Nat) (v : α) (c : Nat × α) (h : c ∈ nset m a v) : c = (a, v) ∨ c ∈ m := by
  induction m with
  | nil => simpa [nset] using h
  | cons d t ih =>
    obtain ⟨k, w⟩ := d
    simp only [nset] at h
    split at h
    · simpa using h
    · split at h
      · rcases List.mem_cons.1 h with h | h
        · exact .inl h
        · exact .inr (List.mem_cons_of_mem _ h)
      · rcases List.mem_cons.1 h with h | h
        · exact .inr (by simp [h])
        · rcases ih h with h | h
          · exact .inl h
          · exact .inr (List.mem_cons_of_mem _ h)

theorem nsorted_nset (m : List (Nat × α)) (a : Nat) (v : α) (h : nsorted m = true) : nsorted (nset m a v) = true := by
  induction m with
  | nil => rfl
  | cons d t ih =>
    obtain ⟨k, w⟩ := d
    obtain ⟨h1, h2⟩ := (nsorted_cons k w t).1 h
    simp only [nset]
    split
    · rename_i hk
      rw [nsorted_cons]
      refine ⟨?_, h⟩
      intro c hc
      rcases List.mem_cons.1 hc with rfl | hc
      · exact hk
      · exact Nat.lt_trans hk (h1 c hc)
    · split
      · rename_i _ hk
        subst hk
        rw [nsorted_cons]
        exact ⟨h1, h2⟩
      · rename_i hk1 hk2
        rw [nsorted_cons]
        refine ⟨?_, ih h2⟩
        intro c hc
        rcases mem_nset t a v c hc with rfl | hc
        · show k < a
          omega
        · exact h1 c hc

theorem nsorted_nput [DecidableEq α] (d : α) (m : List (Nat × α)) (a : Nat) (v : α) (h : nsorted m = true) :
    nsorted (nput d m a v) = true := by
  unfold nput; split
  · exact nsorted_filter m _ h
  · exact nsorted_nset m a v h

end Sys2Proof.Machine
end

