-- ==== Sys2Proof/Laws/Memory.lean ====
section
/-! SUPPORT. Laws of the stores: every memory operation keeps the canonical form, and what a byte reads after it. -/

namespace Sys2Proof.Machine

/-! ### The canonical form -/

theorem memWf_iff (l : List (Nat × Nat × Nat)) (m : List Host.Cell) :
    memWf l m = true ↔ nsorted m = true ∧ ∀ c ∈ m, c.2 ≠ backByte l c.1 := by
  simp [memWf]

theorem memWf_filter (l : List (Nat × Nat × Nat)) (m : List Host.Cell) (p : Host.Cell → Bool) (h : memWf l m = true) :
    memWf l (m.filter p) = true := by
  rw [memWf_iff] at h ⊢
  exact ⟨nsorted_filter m p h.1, fun c hc => h.2 c (List.mem_filter.1 hc).1⟩

/-- Placing a byte keeps the canonical form. -/
theorem memWf_memPut (l : List (Nat × Nat × Nat)) (m : List Host.Cell) (a : Nat) (b : Byte) (h : memWf l m = true) :
    memWf l (memPut l m a b) = true := by
  unfold memPut nput
  split
  · exact memWf_filter l m _ h
  · rename_i hb
    rw [memWf_iff] at h ⊢
    refine ⟨nsorted_nset m a b h.1, fun c hc => ?_⟩
    rcases mem_nset m a b c hc with rfl | hc
    · exact hb
    · exact h.2 c hc

theorem memWf_memPuts (l : List (Nat × Nat × Nat)) (m : List Host.Cell) (a : Nat) (bs : List Byte) (h : memWf l m = true) :
    memWf l (memPuts l m a bs) = true := by
  induction bs generalizing m a with
  | nil => exact h
  | cons b bs ih => exact ih _ _ (memWf_memPut l m a b h)

theorem memWf_ndelRange (l : List (Nat × Nat × Nat)) (m : List Host.Cell) (lo hi : Nat) (h : memWf l m = true) :
    memWf l (ndelRange m lo hi) = true := memWf_filter l m _ h

theorem memWf_wrPlace (s : State) (a : Nat) (bs : List Byte) (h : memWf s.lost s.mem = true) :
    memWf (wrPlace s a bs).lost (wrPlace s a bs).mem = true := memWf_memPuts _ _ _ _ h

theorem memWf_wrSpans (s : State) (l : List (Nat × Nat)) (bs : List Byte) (h : memWf s.lost s.mem = true) :
    memWf (wrSpans s l bs).lost (wrSpans s l bs).mem = true := by
  induction l generalizing s bs with
  | nil => exact h
  | cons r l ih => exact ih _ _ (memWf_wrPlace s r.1 _ h)

theorem memWf_wrBytes (s : State) (a : Nat) (bs : List Byte) (h : memWf s.lost s.mem = true) :
    memWf (wrBytes s a bs).lost (wrBytes s a bs).mem = true := by
  unfold wrBytes; split
  · exact h
  · split
    · exact memWf_wrPlace s a bs h
    · exact memWf_wrSpans s _ bs h

theorem memWf_wrNat (s : State) (a n v : Nat) (h : memWf s.lost s.mem = true) :
    memWf (wrNat s a n v).lost (wrNat s a n v).mem = true := memWf_wrBytes s a _ h

theorem memWf_zeroRange (s : State) (lo hi : Nat) (h : memWf s.lost s.mem = true) :
    memWf (zeroRange s lo hi).lost (zeroRange s lo hi).mem = true := memWf_ndelRange _ _ _ _ h

/-- What a channel retirement left undefined lies in LPDDR5X. -/
theorem backByte_of_le (l : List (Nat × Nat × Nat)) {a : Nat} (h : 0x400000000000 ≤ a) : backByte l a = 0 := by simp [backByte, h]

/-- The filling of LPDDR5X keeps the form. -/
theorem memWf_fillLpddr (s : State) (h : memWf s.lost s.mem = true) : memWf (fillLpddr s).lost (fillLpddr s).mem = true := by
  unfold fillLpddr zeroRange ndelRange
  rw [memWf_iff] at h ⊢
  refine ⟨nsorted_filter _ _ h.1, fun c hc => ?_⟩
  obtain ⟨hm, hr⟩ := List.mem_filter.1 hc
  have hr : 0x400000000000 ≤ c.1 := by simpa using hr
  have := h.2 c hm
  rwa [backByte_of_le _ hr] at this ⊢

theorem memWf_writeBack (s : State) (w : Nat) (syn : Byte) (h : memWf s.lost s.mem = true) :
    memWf (writeBack s w syn).lost (writeBack s w syn).mem = true := by
  unfold writeBack
  simp only
  split
  · exact memWf_memPut _ _ _ _ h
  · exact h

@[simp] theorem poisonAt_mem (s : State) (a : Nat) : (poisonAt s a).mem = s.mem := rfl

/-! ### What a byte reads -/

@[simp] theorem ngetD_memPut (l : List (Nat × Nat × Nat)) (m : List Host.Cell) (a : Nat) (v : Byte) (b : Nat) :
    ngetD (backByte l b) (memPut l m a v) b = if b = a then v else ngetD (backByte l b) m b := by
  unfold memPut
  by_cases h : b = a
  · subst h; simp
  · rw [if_neg h]; exact ngetD_nput_of_ne _ _ _ _ h

theorem ngetD_memPuts (l : List (Nat × Nat × Nat)) (m : List Host.Cell) (a : Nat) (bs : List Byte) (x : Nat) :
    ngetD (backByte l x) (memPuts l m a bs) x =
      if a ≤ x ∧ x < a + bs.length then bs.getD (x - a) 0 else ngetD (backByte l x) m x := by
  induction bs generalizing m a with
  | nil => simp [memPuts]
  | cons b bs ih =>
    simp only [memPuts, ih, ngetD_memPut, List.length_cons]
    by_cases h1 : x = a
    · subst h1; simp
    · by_cases h2 : a + 1 ≤ x ∧ x < a + 1 + bs.length
      · have e : x - a = (x - (a + 1)) + 1 := by omega
        have h3 : a ≤ x ∧ x < a + (bs.length + 1) := by omega
        rw [if_pos h2, if_pos h3, e, List.getD_cons_succ]
      · have h3 : ¬ (a ≤ x ∧ x < a + (bs.length + 1)) := by omega
        rw [if_neg h2, if_neg h1, if_neg h3]

/-- A device address is its own place. -/
theorem place_of_lt (s : State) {a : Nat} (h : a < 0x1000000000000) : place s a = a := by simp [place, h]

theorem rdByte_of_lt (s : State) {a : Nat} (h : a < 0x1000000000000) :
    rdByte s a = if a < 0x400000000000 then ngetD (rdPlace s a) s.lineBytes a else rdPlace s a := by
  unfold rdByte; rw [place_of_lt s h]

/-- A byte after a write at a place. -/
theorem rdByte_wrPlace (s : State) (a : Nat) (bs : List Byte) (x : Nat) (h : x < 0x1000000000000) :
    rdByte (wrPlace s a bs) x = if a ≤ x ∧ x < a + bs.length then bs.getD (x - a) 0 else rdByte s x := by
  rw [rdByte_of_lt _ h, rdByte_of_lt _ h]
  simp only [wrPlace, rdPlace, ngetD_memPuts]
  by_cases hx : a ≤ x ∧ x < a + bs.length
  · simp only [if_pos hx, ngetD, nget_ndelRange_of_mem _ hx.1 hx.2]
    split <;> rfl
  · simp only [if_neg hx, ngetD, nget_ndelRange_of_not_mem _ (show x < a ∨ a + bs.length ≤ x by omega)]

/-- A byte after an ordinary write at a device address. -/
theorem rdByte_wrBytes (s : State) (a : Nat) (bs : List Byte) (x : Nat) (ha : a < 0x1000000000000) (hx : x < 0x1000000000000) :
    rdByte (wrBytes s a bs) x = if a ≤ x ∧ x < a + bs.length then bs.getD (x - a) 0 else rdByte s x := by
  unfold wrBytes
  split
  · rename_i h
    have : bs = [] := List.isEmpty_iff.1 h
    subst this
    simp
  · exact rdByte_wrPlace s a bs x hx

@[simp] theorem leBytes_length (n v : Nat) : (leBytes n v).length = n := by
  induction n generalizing v with
  | zero => rfl
  | succ n ih => simp [leBytes, ih]

theorem leNat_leBytes (n v : Nat) : leNat (leBytes n v) = v % 256 ^ n := by
  induction n generalizing v with
  | zero => simp [leBytes, leNat, Nat.mod_one]
  | succ n ih =>
    simp only [leBytes, leNat, ih, BitVec.toNat_ofNat]
    rw [show 256 ^ (n + 1) = 256 * 256 ^ n by ring, Nat.mod_mul]

/-- Read after write: n bytes written as a number read back as that number. -/
theorem rdNat_wrNat_self (s : State) (a n v : Nat) (h : a + n ≤ 0x1000000000000) : rdNat (wrNat s a n v) a n = v % 256 ^ n := by
  rw [← leNat_leBytes n v]
  unfold rdNat rdBytes wrNat
  congr 1
  apply List.ext_getElem
  · simp
  · intro i h1 h2
    simp only [List.length_map, List.length_range] at h1
    simp only [List.getElem_map, List.getElem_range]
    rw [rdByte_wrBytes _ _ _ _ (by omega) (by omega), leBytes_length, if_pos ⟨by omega, by omega⟩]
    simp [h1]

/-- A number that a write does not touch reads as before. -/
theorem rdNat_wrBytes_of_disjoint (s : State) (a : Nat) (bs : List Byte) (x n : Nat) (ha : a < 0x1000000000000)
    (hx : x + n ≤ 0x1000000000000) (h : x + n ≤ a ∨ a + bs.length ≤ x) : rdNat (wrBytes s a bs) x n = rdNat s x n := by
  unfold rdNat rdBytes
  congr 1
  apply List.map_congr_left
  intro i hi
  have : i < n := List.mem_range.1 hi
  rw [rdByte_wrBytes _ _ _ _ ha (by omega), if_neg (by omega)]

end Sys2Proof.Machine
end

