-- ==== Sys2Proof/Laws/State.lean ====
section
/-! SUPPORT. One lemma for each field of the state under each elementary update: the update leaves the field, or is what it says. -/

namespace Sys2Proof.Machine

/-! ### setReg -/

@[simp] theorem setReg_pending (s : State) (r : RegName) (v : Word) (idx inst : Nat) : (setReg s r v idx inst).pending = s.pending := by rfl
@[simp] theorem setReg_tick (s : State) (r : RegName) (v : Word) (idx inst : Nat) : (setReg s r v idx inst).tick = s.tick := by rfl
@[simp] theorem setReg_free (s : State) (r : RegName) (v : Word) (idx inst : Nat) : (setReg s r v idx inst).free = s.free := by rfl
theorem setReg_regs (s : State) (r : RegName) (v : Word) (idx inst : Nat) : (setReg s r v idx inst).regs = nput (regReset idx r) s.regs (regAddr r idx inst) v := by rfl
@[simp] theorem setReg_fresh (s : State) (r : RegName) (v : Word) (idx inst : Nat) : (setReg s r v idx inst).fresh = s.fresh := by rfl
@[simp] theorem setReg_held (s : State) (r : RegName) (v : Word) (idx inst : Nat) : (setReg s r v idx inst).held = s.held := by rfl
@[simp] theorem setReg_mem (s : State) (r : RegName) (v : Word) (idx inst : Nat) : (setReg s r v idx inst).mem = s.mem := by rfl
@[simp] theorem setReg_unseen (s : State) (r : RegName) (v : Word) (idx inst : Nat) : (setReg s r v idx inst).unseen = s.unseen := by rfl
@[simp] theorem setReg_lost (s : State) (r : RegName) (v : Word) (idx inst : Nat) : (setReg s r v idx inst).lost = s.lost := by rfl
@[simp] theorem setReg_tags (s : State) (r : RegName) (v : Word) (idx inst : Nat) : (setReg s r v idx inst).tags = s.tags := by rfl
@[simp] theorem setReg_lines (s : State) (r : RegName) (v : Word) (idx inst : Nat) : (setReg s r v idx inst).lines = s.lines := by rfl
@[simp] theorem setReg_lineBytes (s : State) (r : RegName) (v : Word) (idx inst : Nat) : (setReg s r v idx inst).lineBytes = s.lineBytes := by rfl
@[simp] theorem setReg_lineSyn (s : State) (r : RegName) (v : Word) (idx inst : Nat) : (setReg s r v idx inst).lineSyn = s.lineSyn := by rfl
@[simp] theorem setReg_lineUse (s : State) (r : RegName) (v : Word) (idx inst : Nat) : (setReg s r v idx inst).lineUse = s.lineUse := by rfl
@[simp] theorem setReg_waysOff (s : State) (r : RegName) (v : Word) (idx inst : Nat) : (setReg s r v idx inst).waysOff = s.waysOff := by rfl
@[simp] theorem setReg_syn (s : State) (r : RegName) (v : Word) (idx inst : Nat) : (setReg s r v idx inst).syn = s.syn := by rfl
@[simp] theorem setReg_flash (s : State) (r : RegName) (v : Word) (idx inst : Nat) : (setReg s r v idx inst).flash = s.flash := by rfl
@[simp] theorem setReg_clusters (s : State) (r : RegName) (v : Word) (idx inst : Nat) : (setReg s r v idx inst).clusters = s.clusters := by rfl
@[simp] theorem setReg_parts (s : State) (r : RegName) (v : Word) (idx inst : Nat) : (setReg s r v idx inst).parts = s.parts := by rfl
@[simp] theorem setReg_cores (s : State) (r : RegName) (v : Word) (idx inst : Nat) : (setReg s r v idx inst).cores = s.cores := by rfl
@[simp] theorem setReg_ports (s : State) (r : RegName) (v : Word) (idx inst : Nat) : (setReg s r v idx inst).ports = s.ports := by rfl
@[simp] theorem setReg_switch (s : State) (r : RegName) (v : Word) (idx inst : Nat) : (setReg s r v idx inst).switch = s.switch := by rfl
@[simp] theorem setReg_turns (s : State) (r : RegName) (v : Word) (idx inst : Nat) : (setReg s r v idx inst).turns = s.turns := by rfl
@[simp] theorem setReg_arrived (s : State) (r : RegName) (v : Word) (idx inst : Nat) : (setReg s r v idx inst).arrived = s.arrived := by rfl
@[simp] theorem setReg_nextTid (s : State) (r : RegName) (v : Word) (idx inst : Nat) : (setReg s r v idx inst).nextTid = s.nextTid := by rfl
@[simp] theorem setReg_sent (s : State) (r : RegName) (v : Word) (idx inst : Nat) : (setReg s r v idx inst).sent = s.sent := by rfl
@[simp] theorem setReg_resend (s : State) (r : RegName) (v : Word) (idx inst : Nat) : (setReg s r v idx inst).resend = s.resend := by rfl
@[simp] theorem setReg_nakSeen (s : State) (r : RegName) (v : Word) (idx inst : Nat) : (setReg s r v idx inst).nakSeen = s.nakSeen := by rfl
@[simp] theorem setReg_routeMiss (s : State) (r : RegName) (v : Word) (idx inst : Nat) : (setReg s r v idx inst).routeMiss = s.routeMiss := by rfl
@[simp] theorem setReg_bars (s : State) (r : RegName) (v : Word) (idx inst : Nat) : (setReg s r v idx inst).bars = s.bars := by rfl
@[simp] theorem setReg_tickGood (s : State) (r : RegName) (v : Word) (idx inst : Nat) : (setReg s r v idx inst).tickGood = s.tickGood := by rfl
@[simp] theorem setReg_tickSlew (s : State) (r : RegName) (v : Word) (idx inst : Nat) : (setReg s r v idx inst).tickSlew = s.tickSlew := by rfl
@[simp] theorem setReg_tickSent (s : State) (r : RegName) (v : Word) (idx inst : Nat) : (setReg s r v idx inst).tickSent = s.tickSent := by rfl
@[simp] theorem setReg_power (s : State) (r : RegName) (v : Word) (idx inst : Nat) : (setReg s r v idx inst).power = s.power := by rfl
@[simp] theorem setReg_integ (s : State) (r : RegName) (v : Word) (idx inst : Nat) : (setReg s r v idx inst).integ = s.integ := by rfl
@[simp] theorem setReg_fb (s : State) (r : RegName) (v : Word) (idx inst : Nat) : (setReg s r v idx inst).fb = s.fb := by rfl
@[simp] theorem setReg_fbOffered (s : State) (r : RegName) (v : Word) (idx inst : Nat) : (setReg s r v idx inst).fbOffered = s.fbOffered := by rfl
@[simp] theorem setReg_fbTick (s : State) (r : RegName) (v : Word) (idx inst : Nat) : (setReg s r v idx inst).fbTick = s.fbTick := by rfl
@[simp] theorem setReg_fbDone (s : State) (r : RegName) (v : Word) (idx inst : Nat) : (setReg s r v idx inst).fbDone = s.fbDone := by rfl
@[simp] theorem setReg_records (s : State) (r : RegName) (v : Word) (idx inst : Nat) : (setReg s r v idx inst).records = s.records := by rfl
@[simp] theorem setReg_recPos (s : State) (r : RegName) (v : Word) (idx inst : Nat) : (setReg s r v idx inst).recPos = s.recPos := by rfl
@[simp] theorem setReg_recSeq (s : State) (r : RegName) (v : Word) (idx inst : Nat) : (setReg s r v idx inst).recSeq = s.recSeq := by rfl
@[simp] theorem setReg_recOffered (s : State) (r : RegName) (v : Word) (idx inst : Nat) : (setReg s r v idx inst).recOffered = s.recOffered := by rfl
@[simp] theorem setReg_recAcked (s : State) (r : RegName) (v : Word) (idx inst : Nat) : (setReg s r v idx inst).recAcked = s.recAcked := by rfl
@[simp] theorem setReg_merSince (s : State) (r : RegName) (v : Word) (idx inst : Nat) : (setReg s r v idx inst).merSince = s.merSince := by rfl
@[simp] theorem setReg_helloTick (s : State) (r : RegName) (v : Word) (idx inst : Nat) : (setReg s r v idx inst).helloTick = s.helloTick := by rfl
@[simp] theorem setReg_hello (s : State) (r : RegName) (v : Word) (idx inst : Nat) : (setReg s r v idx inst).hello = s.hello := by rfl
@[simp] theorem setReg_sess (s : State) (r : RegName) (v : Word) (idx inst : Nat) : (setReg s r v idx inst).sess = s.sess := by rfl
@[simp] theorem setReg_boot (s : State) (r : RegName) (v : Word) (idx inst : Nat) : (setReg s r v idx inst).boot = s.boot := by rfl
@[simp] theorem setReg_freeze (s : State) (r : RegName) (v : Word) (idx inst : Nat) : (setReg s r v idx inst).freeze = s.freeze := by rfl
@[simp] theorem setReg_tap (s : State) (r : RegName) (v : Word) (idx inst : Nat) : (setReg s r v idx inst).tap = s.tap := by rfl
@[simp] theorem setReg_smb (s : State) (r : RegName) (v : Word) (idx inst : Nat) : (setReg s r v idx inst).smb = s.smb := by rfl
@[simp] theorem setReg_tray (s : State) (r : RegName) (v : Word) (idx inst : Nat) : (setReg s r v idx inst).tray = s.tray := by rfl
@[simp] theorem setReg_slotId (s : State) (r : RegName) (v : Word) (idx inst : Nat) : (setReg s r v idx inst).slotId = s.slotId := by rfl
@[simp] theorem setReg_wbePos (s : State) (r : RegName) (v : Word) (idx inst : Nat) : (setReg s r v idx inst).wbePos = s.wbePos := by rfl
@[simp] theorem setReg_wbeLeft (s : State) (r : RegName) (v : Word) (idx inst : Nat) : (setReg s r v idx inst).wbeLeft = s.wbeLeft := by rfl

/-! ### fput -/

@[simp] theorem fput_pending (s : State) (f : Fld) (v idx inst : Nat) : (fput s f v idx inst).pending = s.pending := by rfl
@[simp] theorem fput_tick (s : State) (f : Fld) (v idx inst : Nat) : (fput s f v idx inst).tick = s.tick := by rfl
@[simp] theorem fput_free (s : State) (f : Fld) (v idx inst : Nat) : (fput s f v idx inst).free = s.free := by rfl
@[simp] theorem fput_fresh (s : State) (f : Fld) (v idx inst : Nat) : (fput s f v idx inst).fresh = s.fresh := by rfl
@[simp] theorem fput_held (s : State) (f : Fld) (v idx inst : Nat) : (fput s f v idx inst).held = s.held := by rfl
@[simp] theorem fput_mem (s : State) (f : Fld) (v idx inst : Nat) : (fput s f v idx inst).mem = s.mem := by rfl
@[simp] theorem fput_unseen (s : State) (f : Fld) (v idx inst : Nat) : (fput s f v idx inst).unseen = s.unseen := by rfl
@[simp] theorem fput_lost (s : State) (f : Fld) (v idx inst : Nat) : (fput s f v idx inst).lost = s.lost := by rfl
@[simp] theorem fput_tags (s : State) (f : Fld) (v idx inst : Nat) : (fput s f v idx inst).tags = s.tags := by rfl
@[simp] theorem fput_lines (s : State) (f : Fld) (v idx inst : Nat) : (fput s f v idx inst).lines = s.lines := by rfl
@[simp] theorem fput_lineBytes (s : State) (f : Fld) (v idx inst : Nat) : (fput s f v idx inst).lineBytes = s.lineBytes := by rfl
@[simp] theorem fput_lineSyn (s : State) (f : Fld) (v idx inst : Nat) : (fput s f v idx inst).lineSyn = s.lineSyn := by rfl
@[simp] theorem fput_lineUse (s : State) (f : Fld) (v idx inst : Nat) : (fput s f v idx inst).lineUse = s.lineUse := by rfl
@[simp] theorem fput_waysOff (s : State) (f : Fld) (v idx inst : Nat) : (fput s f v idx inst).waysOff = s.waysOff := by rfl
@[simp] theorem fput_syn (s : State) (f : Fld) (v idx inst : Nat) : (fput s f v idx inst).syn = s.syn := by rfl
@[simp] theorem fput_flash (s : State) (f : Fld) (v idx inst : Nat) : (fput s f v idx inst).flash = s.flash := by rfl
@[simp] theorem fput_clusters (s : State) (f : Fld) (v idx inst : Nat) : (fput s f v idx inst).clusters = s.clusters := by rfl
@[simp] theorem fput_parts (s : State) (f : Fld) (v idx inst : Nat) : (fput s f v idx inst).parts = s.parts := by rfl
@[simp] theorem fput_cores (s : State) (f : Fld) (v idx inst : Nat) : (fput s f v idx inst).cores = s.cores := by rfl
@[simp] theorem fput_ports (s : State) (f : Fld) (v idx inst : Nat) : (fput s f v idx inst).ports = s.ports := by rfl
@[simp] theorem fput_switch (s : State) (f : Fld) (v idx inst : Nat) : (fput s f v idx inst).switch = s.switch := by rfl
@[simp] theorem fput_turns (s : State) (f : Fld) (v idx inst : Nat) : (fput s f v idx inst).turns = s.turns := by rfl
@[simp] theorem fput_arrived (s : State) (f : Fld) (v idx inst : Nat) : (fput s f v idx inst).arrived = s.arrived := by rfl
@[simp] theorem fput_nextTid (s : State) (f : Fld) (v idx inst : Nat) : (fput s f v idx inst).nextTid = s.nextTid := by rfl
@[simp] theorem fput_sent (s : State) (f : Fld) (v idx inst : Nat) : (fput s f v idx inst).sent = s.sent := by rfl
@[simp] theorem fput_resend (s : State) (f : Fld) (v idx inst : Nat) : (fput s f v idx inst).resend = s.resend := by rfl
@[simp] theorem fput_nakSeen (s : State) (f : Fld) (v idx inst : Nat) : (fput s f v idx inst).nakSeen = s.nakSeen := by rfl
@[simp] theorem fput_routeMiss (s : State) (f : Fld) (v idx inst : Nat) : (fput s f v idx inst).routeMiss = s.routeMiss := by rfl
@[simp] theorem fput_bars (s : State) (f : Fld) (v idx inst : Nat) : (fput s f v idx inst).bars = s.bars := by rfl
@[simp] theorem fput_tickGood (s : State) (f : Fld) (v idx inst : Nat) : (fput s f v idx inst).tickGood = s.tickGood := by rfl
@[simp] theorem fput_tickSlew (s : State) (f : Fld) (v idx inst : Nat) : (fput s f v idx inst).tickSlew = s.tickSlew := by rfl
@[simp] theorem fput_tickSent (s : State) (f : Fld) (v idx inst : Nat) : (fput s f v idx inst).tickSent = s.tickSent := by rfl
@[simp] theorem fput_power (s : State) (f : Fld) (v idx inst : Nat) : (fput s f v idx inst).power = s.power := by rfl
@[simp] theorem fput_integ (s : State) (f : Fld) (v idx inst : Nat) : (fput s f v idx inst).integ = s.integ := by rfl
@[simp] theorem fput_fb (s : State) (f : Fld) (v idx inst : Nat) : (fput s f v idx inst).fb = s.fb := by rfl
@[simp] theorem fput_fbOffered (s : State) (f : Fld) (v idx inst : Nat) : (fput s f v idx inst).fbOffered = s.fbOffered := by rfl
@[simp] theorem fput_fbTick (s : State) (f : Fld) (v idx inst : Nat) : (fput s f v idx inst).fbTick = s.fbTick := by rfl
@[simp] theorem fput_fbDone (s : State) (f : Fld) (v idx inst : Nat) : (fput s f v idx inst).fbDone = s.fbDone := by rfl
@[simp] theorem fput_records (s : State) (f : Fld) (v idx inst : Nat) : (fput s f v idx inst).records = s.records := by rfl
@[simp] theorem fput_recPos (s : State) (f : Fld) (v idx inst : Nat) : (fput s f v idx inst).recPos = s.recPos := by rfl
@[simp] theorem fput_recSeq (s : State) (f : Fld) (v idx inst : Nat) : (fput s f v idx inst).recSeq = s.recSeq := by rfl
@[simp] theorem fput_recOffered (s : State) (f : Fld) (v idx inst : Nat) : (fput s f v idx inst).recOffered = s.recOffered := by rfl
@[simp] theorem fput_recAcked (s : State) (f : Fld) (v idx inst : Nat) : (fput s f v idx inst).recAcked = s.recAcked := by rfl
@[simp] theorem fput_merSince (s : State) (f : Fld) (v idx inst : Nat) : (fput s f v idx inst).merSince = s.merSince := by rfl
@[simp] theorem fput_helloTick (s : State) (f : Fld) (v idx inst : Nat) : (fput s f v idx inst).helloTick = s.helloTick := by rfl
@[simp] theorem fput_hello (s : State) (f : Fld) (v idx inst : Nat) : (fput s f v idx inst).hello = s.hello := by rfl
@[simp] theorem fput_sess (s : State) (f : Fld) (v idx inst : Nat) : (fput s f v idx inst).sess = s.sess := by rfl
@[simp] theorem fput_boot (s : State) (f : Fld) (v idx inst : Nat) : (fput s f v idx inst).boot = s.boot := by rfl
@[simp] theorem fput_freeze (s : State) (f : Fld) (v idx inst : Nat) : (fput s f v idx inst).freeze = s.freeze := by rfl
@[simp] theorem fput_tap (s : State) (f : Fld) (v idx inst : Nat) : (fput s f v idx inst).tap = s.tap := by rfl
@[simp] theorem fput_smb (s : State) (f : Fld) (v idx inst : Nat) : (fput s f v idx inst).smb = s.smb := by rfl
@[simp] theorem fput_tray (s : State) (f : Fld) (v idx inst : Nat) : (fput s f v idx inst).tray = s.tray := by rfl
@[simp] theorem fput_slotId (s : State) (f : Fld) (v idx inst : Nat) : (fput s f v idx inst).slotId = s.slotId := by rfl
@[simp] theorem fput_wbePos (s : State) (f : Fld) (v idx inst : Nat) : (fput s f v idx inst).wbePos = s.wbePos := by rfl
@[simp] theorem fput_wbeLeft (s : State) (f : Fld) (v idx inst : Nat) : (fput s f v idx inst).wbeLeft = s.wbeLeft := by rfl

/-! ### setClu -/

@[simp] theorem setClu_pending (s : State) (c : Nat) (x : Cluster) : (setClu s c x).pending = s.pending := by rfl
@[simp] theorem setClu_tick (s : State) (c : Nat) (x : Cluster) : (setClu s c x).tick = s.tick := by rfl
@[simp] theorem setClu_free (s : State) (c : Nat) (x : Cluster) : (setClu s c x).free = s.free := by rfl
@[simp] theorem setClu_regs (s : State) (c : Nat) (x : Cluster) : (setClu s c x).regs = s.regs := by rfl
@[simp] theorem setClu_fresh (s : State) (c : Nat) (x : Cluster) : (setClu s c x).fresh = s.fresh := by rfl
@[simp] theorem setClu_held (s : State) (c : Nat) (x : Cluster) : (setClu s c x).held = s.held := by rfl
@[simp] theorem setClu_mem (s : State) (c : Nat) (x : Cluster) : (setClu s c x).mem = s.mem := by rfl
@[simp] theorem setClu_unseen (s : State) (c : Nat) (x : Cluster) : (setClu s c x).unseen = s.unseen := by rfl
@[simp] theorem setClu_lost (s : State) (c : Nat) (x : Cluster) : (setClu s c x).lost = s.lost := by rfl
@[simp] theorem setClu_tags (s : State) (c : Nat) (x : Cluster) : (setClu s c x).tags = s.tags := by rfl
@[simp] theorem setClu_lines (s : State) (c : Nat) (x : Cluster) : (setClu s c x).lines = s.lines := by rfl
@[simp] theorem setClu_lineBytes (s : State) (c : Nat) (x : Cluster) : (setClu s c x).lineBytes = s.lineBytes := by rfl
@[simp] theorem setClu_lineSyn (s : State) (c : Nat) (x : Cluster) : (setClu s c x).lineSyn = s.lineSyn := by rfl
@[simp] theorem setClu_lineUse (s : State) (c : Nat) (x : Cluster) : (setClu s c x).lineUse = s.lineUse := by rfl
@[simp] theorem setClu_waysOff (s : State) (c : Nat) (x : Cluster) : (setClu s c x).waysOff = s.waysOff := by rfl
@[simp] theorem setClu_syn (s : State) (c : Nat) (x : Cluster) : (setClu s c x).syn = s.syn := by rfl
@[simp] theorem setClu_flash (s : State) (c : Nat) (x : Cluster) : (setClu s c x).flash = s.flash := by rfl
theorem setClu_clusters (s : State) (c : Nat) (x : Cluster) : (setClu s c x).clusters = nset s.clusters c x := by rfl
@[simp] theorem setClu_parts (s : State) (c : Nat) (x : Cluster) : (setClu s c x).parts = s.parts := by rfl
@[simp] theorem setClu_cores (s : State) (c : Nat) (x : Cluster) : (setClu s c x).cores = s.cores := by rfl
@[simp] theorem setClu_ports (s : State) (c : Nat) (x : Cluster) : (setClu s c x).ports = s.ports := by rfl
@[simp] theorem setClu_switch (s : State) (c : Nat) (x : Cluster) : (setClu s c x).switch = s.switch := by rfl
@[simp] theorem setClu_turns (s : State) (c : Nat) (x : Cluster) : (setClu s c x).turns = s.turns := by rfl
@[simp] theorem setClu_arrived (s : State) (c : Nat) (x : Cluster) : (setClu s c x).arrived = s.arrived := by rfl
@[simp] theorem setClu_nextTid (s : State) (c : Nat) (x : Cluster) : (setClu s c x).nextTid = s.nextTid := by rfl
@[simp] theorem setClu_sent (s : State) (c : Nat) (x : Cluster) : (setClu s c x).sent = s.sent := by rfl
@[simp] theorem setClu_resend (s : State) (c : Nat) (x : Cluster) : (setClu s c x).resend = s.resend := by rfl
@[simp] theorem setClu_nakSeen (s : State) (c : Nat) (x : Cluster) : (setClu s c x).nakSeen = s.nakSeen := by rfl
@[simp] theorem setClu_routeMiss (s : State) (c : Nat) (x : Cluster) : (setClu s c x).routeMiss = s.routeMiss := by rfl
@[simp] theorem setClu_bars (s : State) (c : Nat) (x : Cluster) : (setClu s c x).bars = s.bars := by rfl
@[simp] theorem setClu_tickGood (s : State) (c : Nat) (x : Cluster) : (setClu s c x).tickGood = s.tickGood := by rfl
@[simp] theorem setClu_tickSlew (s : State) (c : Nat) (x : Cluster) : (setClu s c x).tickSlew = s.tickSlew := by rfl
@[simp] theorem setClu_tickSent (s : State) (c : Nat) (x : Cluster) : (setClu s c x).tickSent = s.tickSent := by rfl
@[simp] theorem setClu_power (s : State) (c : Nat) (x : Cluster) : (setClu s c x).power = s.power := by rfl
@[simp] theorem setClu_integ (s : State) (c : Nat) (x : Cluster) : (setClu s c x).integ = s.integ := by rfl
@[simp] theorem setClu_fb (s : State) (c : Nat) (x : Cluster) : (setClu s c x).fb = s.fb := by rfl
@[simp] theorem setClu_fbOffered (s : State) (c : Nat) (x : Cluster) : (setClu s c x).fbOffered = s.fbOffered := by rfl
@[simp] theorem setClu_fbTick (s : State) (c : Nat) (x : Cluster) : (setClu s c x).fbTick = s.fbTick := by rfl
@[simp] theorem setClu_fbDone (s : State) (c : Nat) (x : Cluster) : (setClu s c x).fbDone = s.fbDone := by rfl
@[simp] theorem setClu_records (s : State) (c : Nat) (x : Cluster) : (setClu s c x).records = s.records := by rfl
@[simp] theorem setClu_recPos (s : State) (c : Nat) (x : Cluster) : (setClu s c x).recPos = s.recPos := by rfl
@[simp] theorem setClu_recSeq (s : State) (c : Nat) (x : Cluster) : (setClu s c x).recSeq = s.recSeq := by rfl
@[simp] theorem setClu_recOffered (s : State) (c : Nat) (x : Cluster) : (setClu s c x).recOffered = s.recOffered := by rfl
@[simp] theorem setClu_recAcked (s : State) (c : Nat) (x : Cluster) : (setClu s c x).recAcked = s.recAcked := by rfl
@[simp] theorem setClu_merSince (s : State) (c : Nat) (x : Cluster) : (setClu s c x).merSince = s.merSince := by rfl
@[simp] theorem setClu_helloTick (s : State) (c : Nat) (x : Cluster) : (setClu s c x).helloTick = s.helloTick := by rfl
@[simp] theorem setClu_hello (s : State) (c : Nat) (x : Cluster) : (setClu s c x).hello = s.hello := by rfl
@[simp] theorem setClu_sess (s : State) (c : Nat) (x : Cluster) : (setClu s c x).sess = s.sess := by rfl
@[simp] theorem setClu_boot (s : State) (c : Nat) (x : Cluster) : (setClu s c x).boot = s.boot := by rfl
@[simp] theorem setClu_freeze (s : State) (c : Nat) (x : Cluster) : (setClu s c x).freeze = s.freeze := by rfl
@[simp] theorem setClu_tap (s : State) (c : Nat) (x : Cluster) : (setClu s c x).tap = s.tap := by rfl
@[simp] theorem setClu_smb (s : State) (c : Nat) (x : Cluster) : (setClu s c x).smb = s.smb := by rfl
@[simp] theorem setClu_tray (s : State) (c : Nat) (x : Cluster) : (setClu s c x).tray = s.tray := by rfl
@[simp] theorem setClu_slotId (s : State) (c : Nat) (x : Cluster) : (setClu s c x).slotId = s.slotId := by rfl
@[simp] theorem setClu_wbePos (s : State) (c : Nat) (x : Cluster) : (setClu s c x).wbePos = s.wbePos := by rfl
@[simp] theorem setClu_wbeLeft (s : State) (c : Nat) (x : Cluster) : (setClu s c x).wbeLeft = s.wbeLeft := by rfl

/-! ### modClu -/

@[simp] theorem modClu_pending (s : State) (c : Nat) (f : Cluster → Cluster) : (modClu s c f).pending = s.pending := by rfl
@[simp] theorem modClu_tick (s : State) (c : Nat) (f : Cluster → Cluster) : (modClu s c f).tick = s.tick := by rfl
@[simp] theorem modClu_free (s : State) (c : Nat) (f : Cluster → Cluster) : (modClu s c f).free = s.free := by rfl
@[simp] theorem modClu_regs (s : State) (c : Nat) (f : Cluster → Cluster) : (modClu s c f).regs = s.regs := by rfl
@[simp] theorem modClu_fresh (s : State) (c : Nat) (f : Cluster → Cluster) : (modClu s c f).fresh = s.fresh := by rfl
@[simp] theorem modClu_held (s : State) (c : Nat) (f : Cluster → Cluster) : (modClu s c f).held = s.held := by rfl
@[simp] theorem modClu_mem (s : State) (c : Nat) (f : Cluster → Cluster) : (modClu s c f).mem = s.mem := by rfl
@[simp] theorem modClu_unseen (s : State) (c : Nat) (f : Cluster → Cluster) : (modClu s c f).unseen = s.unseen := by rfl
@[simp] theorem modClu_lost (s : State) (c : Nat) (f : Cluster → Cluster) : (modClu s c f).lost = s.lost := by rfl
@[simp] theorem modClu_tags (s : State) (c : Nat) (f : Cluster → Cluster) : (modClu s c f).tags = s.tags := by rfl
@[simp] theorem modClu_lines (s : State) (c : Nat) (f : Cluster → Cluster) : (modClu s c f).lines = s.lines := by rfl
@[simp] theorem modClu_lineBytes (s : State) (c : Nat) (f : Cluster → Cluster) : (modClu s c f).lineBytes = s.lineBytes := by rfl
@[simp] theorem modClu_lineSyn (s : State) (c : Nat) (f : Cluster → Cluster) : (modClu s c f).lineSyn = s.lineSyn := by rfl
@[simp] theorem modClu_lineUse (s : State) (c : Nat) (f : Cluster → Cluster) : (modClu s c f).lineUse = s.lineUse := by rfl
@[simp] theorem modClu_waysOff (s : State) (c : Nat) (f : Cluster → Cluster) : (modClu s c f).waysOff = s.waysOff := by rfl
@[simp] theorem modClu_syn (s : State) (c : Nat) (f : Cluster → Cluster) : (modClu s c f).syn = s.syn := by rfl
@[simp] theorem modClu_flash (s : State) (c : Nat) (f : Cluster → Cluster) : (modClu s c f).flash = s.flash := by rfl
theorem modClu_clusters (s : State) (c : Nat) (f : Cluster → Cluster) : (modClu s c f).clusters = nset s.clusters c (f (clu s c)) := by rfl
@[simp] theorem modClu_parts (s : State) (c : Nat) (f : Cluster → Cluster) : (modClu s c f).parts = s.parts := by rfl
@[simp] theorem modClu_cores (s : State) (c : Nat) (f : Cluster → Cluster) : (modClu s c f).cores = s.cores := by rfl
@[simp] theorem modClu_ports (s : State) (c : Nat) (f : Cluster → Cluster) : (modClu s c f).ports = s.ports := by rfl
@[simp] theorem modClu_switch (s : State) (c : Nat) (f : Cluster → Cluster) : (modClu s c f).switch = s.switch := by rfl
@[simp] theorem modClu_turns (s : State) (c : Nat) (f : Cluster → Cluster) : (modClu s c f).turns = s.turns := by rfl
@[simp] theorem modClu_arrived (s : State) (c : Nat) (f : Cluster → Cluster) : (modClu s c f).arrived = s.arrived := by rfl
@[simp] theorem modClu_nextTid (s : State) (c : Nat) (f : Cluster → Cluster) : (modClu s c f).nextTid = s.nextTid := by rfl
@[simp] theorem modClu_sent (s : State) (c : Nat) (f : Cluster → Cluster) : (modClu s c f).sent = s.sent := by rfl
@[simp] theorem modClu_resend (s : State) (c : Nat) (f : Cluster → Cluster) : (modClu s c f).resend = s.resend := by rfl
@[simp] theorem modClu_nakSeen (s : State) (c : Nat) (f : Cluster → Cluster) : (modClu s c f).nakSeen = s.nakSeen := by rfl
@[simp] theorem modClu_routeMiss (s : State) (c : Nat) (f : Cluster → Cluster) : (modClu s c f).routeMiss = s.routeMiss := by rfl
@[simp] theorem modClu_bars (s : State) (c : Nat) (f : Cluster → Cluster) : (modClu s c f).bars = s.bars := by rfl
@[simp] theorem modClu_tickGood (s : State) (c : Nat) (f : Cluster → Cluster) : (modClu s c f).tickGood = s.tickGood := by rfl
@[simp] theorem modClu_tickSlew (s : State) (c : Nat) (f : Cluster → Cluster) : (modClu s c f).tickSlew = s.tickSlew := by rfl
@[simp] theorem modClu_tickSent (s : State) (c : Nat) (f : Cluster → Cluster) : (modClu s c f).tickSent = s.tickSent := by rfl
@[simp] theorem modClu_power (s : State) (c : Nat) (f : Cluster → Cluster) : (modClu s c f).power = s.power := by rfl
@[simp] theorem modClu_integ (s : State) (c : Nat) (f : Cluster → Cluster) : (modClu s c f).integ = s.integ := by rfl
@[simp] theorem modClu_fb (s : State) (c : Nat) (f : Cluster → Cluster) : (modClu s c f).fb = s.fb := by rfl
@[simp] theorem modClu_fbOffered (s : State) (c : Nat) (f : Cluster → Cluster) : (modClu s c f).fbOffered = s.fbOffered := by rfl
@[simp] theorem modClu_fbTick (s : State) (c : Nat) (f : Cluster → Cluster) : (modClu s c f).fbTick = s.fbTick := by rfl
@[simp] theorem modClu_fbDone (s : State) (c : Nat) (f : Cluster → Cluster) : (modClu s c f).fbDone = s.fbDone := by rfl
@[simp] theorem modClu_records (s : State) (c : Nat) (f : Cluster → Cluster) : (modClu s c f).records = s.records := by rfl
@[simp] theorem modClu_recPos (s : State) (c : Nat) (f : Cluster → Cluster) : (modClu s c f).recPos = s.recPos := by rfl
@[simp] theorem modClu_recSeq (s : State) (c : Nat) (f : Cluster → Cluster) : (modClu s c f).recSeq = s.recSeq := by rfl
@[simp] theorem modClu_recOffered (s : State) (c : Nat) (f : Cluster → Cluster) : (modClu s c f).recOffered = s.recOffered := by rfl
@[simp] theorem modClu_recAcked (s : State) (c : Nat) (f : Cluster → Cluster) : (modClu s c f).recAcked = s.recAcked := by rfl
@[simp] theorem modClu_merSince (s : State) (c : Nat) (f : Cluster → Cluster) : (modClu s c f).merSince = s.merSince := by rfl
@[simp] theorem modClu_helloTick (s : State) (c : Nat) (f : Cluster → Cluster) : (modClu s c f).helloTick = s.helloTick := by rfl
@[simp] theorem modClu_hello (s : State) (c : Nat) (f : Cluster → Cluster) : (modClu s c f).hello = s.hello := by rfl
@[simp] theorem modClu_sess (s : State) (c : Nat) (f : Cluster → Cluster) : (modClu s c f).sess = s.sess := by rfl
@[simp] theorem modClu_boot (s : State) (c : Nat) (f : Cluster → Cluster) : (modClu s c f).boot = s.boot := by rfl
@[simp] theorem modClu_freeze (s : State) (c : Nat) (f : Cluster → Cluster) : (modClu s c f).freeze = s.freeze := by rfl
@[simp] theorem modClu_tap (s : State) (c : Nat) (f : Cluster → Cluster) : (modClu s c f).tap = s.tap := by rfl
@[simp] theorem modClu_smb (s : State) (c : Nat) (f : Cluster → Cluster) : (modClu s c f).smb = s.smb := by rfl
@[simp] theorem modClu_tray (s : State) (c : Nat) (f : Cluster → Cluster) : (modClu s c f).tray = s.tray := by rfl
@[simp] theorem modClu_slotId (s : State) (c : Nat) (f : Cluster → Cluster) : (modClu s c f).slotId = s.slotId := by rfl
@[simp] theorem modClu_wbePos (s : State) (c : Nat) (f : Cluster → Cluster) : (modClu s c f).wbePos = s.wbePos := by rfl
@[simp] theorem modClu_wbeLeft (s : State) (c : Nat) (f : Cluster → Cluster) : (modClu s c f).wbeLeft = s.wbeLeft := by rfl

/-! ### modStr -/

@[simp] theorem modStr_pending (s : State) (c : Nat) (st : Stream) (f : StreamState → StreamState) : (modStr s c st f).pending = s.pending := by rfl
@[simp] theorem modStr_tick (s : State) (c : Nat) (st : Stream) (f : StreamState → StreamState) : (modStr s c st f).tick = s.tick := by rfl
@[simp] theorem modStr_free (s : State) (c : Nat) (st : Stream) (f : StreamState → StreamState) : (modStr s c st f).free = s.free := by rfl
@[simp] theorem modStr_regs (s : State) (c : Nat) (st : Stream) (f : StreamState → StreamState) : (modStr s c st f).regs = s.regs := by rfl
@[simp] theorem modStr_fresh (s : State) (c : Nat) (st : Stream) (f : StreamState → StreamState) : (modStr s c st f).fresh = s.fresh := by rfl
@[simp] theorem modStr_held (s : State) (c : Nat) (st : Stream) (f : StreamState → StreamState) : (modStr s c st f).held = s.held := by rfl
@[simp] theorem modStr_mem (s : State) (c : Nat) (st : Stream) (f : StreamState → StreamState) : (modStr s c st f).mem = s.mem := by rfl
@[simp] theorem modStr_unseen (s : State) (c : Nat) (st : Stream) (f : StreamState → StreamState) : (modStr s c st f).unseen = s.unseen := by rfl
@[simp] theorem modStr_lost (s : State) (c : Nat) (st : Stream) (f : StreamState → StreamState) : (modStr s c st f).lost = s.lost := by rfl
@[simp] theorem modStr_tags (s : State) (c : Nat) (st : Stream) (f : StreamState → StreamState) : (modStr s c st f).tags = s.tags := by rfl
@[simp] theorem modStr_lines (s : State) (c : Nat) (st : Stream) (f : StreamState → StreamState) : (modStr s c st f).lines = s.lines := by rfl
@[simp] theorem modStr_lineBytes (s : State) (c : Nat) (st : Stream) (f : StreamState → StreamState) : (modStr s c st f).lineBytes = s.lineBytes := by rfl
@[simp] theorem modStr_lineSyn (s : State) (c : Nat) (st : Stream) (f : StreamState → StreamState) : (modStr s c st f).lineSyn = s.lineSyn := by rfl
@[simp] theorem modStr_lineUse (s : State) (c : Nat) (st : Stream) (f : StreamState → StreamState) : (modStr s c st f).lineUse = s.lineUse := by rfl
@[simp] theorem modStr_waysOff (s : State) (c : Nat) (st : Stream) (f : StreamState → StreamState) : (modStr s c st f).waysOff = s.waysOff := by rfl
@[simp] theorem modStr_syn (s : State) (c : Nat) (st : Stream) (f : StreamState → StreamState) : (modStr s c st f).syn = s.syn := by rfl
@[simp] theorem modStr_flash (s : State) (c : Nat) (st : Stream) (f : StreamState → StreamState) : (modStr s c st f).flash = s.flash := by rfl
theorem modStr_clusters (s : State) (c : Nat) (st : Stream) (f : StreamState → StreamState) : (modStr s c st f).clusters = nset s.clusters c (setStr (clu s c) st (f (str (clu s c) st))) := by rfl
@[simp] theorem modStr_parts (s : State) (c : Nat) (st : Stream) (f : StreamState → StreamState) : (modStr s c st f).parts = s.parts := by rfl
@[simp] theorem modStr_cores (s : State) (c : Nat) (st : Stream) (f : StreamState → StreamState) : (modStr s c st f).cores = s.cores := by rfl
@[simp] theorem modStr_ports (s : State) (c : Nat) (st : Stream) (f : StreamState → StreamState) : (modStr s c st f).ports = s.ports := by rfl
@[simp] theorem modStr_switch (s : State) (c : Nat) (st : Stream) (f : StreamState → StreamState) : (modStr s c st f).switch = s.switch := by rfl
@[simp] theorem modStr_turns (s : State) (c : Nat) (st : Stream) (f : StreamState → StreamState) : (modStr s c st f).turns = s.turns := by rfl
@[simp] theorem modStr_arrived (s : State) (c : Nat) (st : Stream) (f : StreamState → StreamState) : (modStr s c st f).arrived = s.arrived := by rfl
@[simp] theorem modStr_nextTid (s : State) (c : Nat) (st : Stream) (f : StreamState → StreamState) : (modStr s c st f).nextTid = s.nextTid := by rfl
@[simp] theorem modStr_sent (s : State) (c : Nat) (st : Stream) (f : StreamState → StreamState) : (modStr s c st f).sent = s.sent := by rfl
@[simp] theorem modStr_resend (s : State) (c : Nat) (st : Stream) (f : StreamState → StreamState) : (modStr s c st f).resend = s.resend := by rfl
@[simp] theorem modStr_nakSeen (s : State) (c : Nat) (st : Stream) (f : StreamState → StreamState) : (modStr s c st f).nakSeen = s.nakSeen := by rfl
@[simp] theorem modStr_routeMiss (s : State) (c : Nat) (st : Stream) (f : StreamState → StreamState) : (modStr s c st f).routeMiss = s.routeMiss := by rfl
@[simp] theorem modStr_bars (s : State) (c : Nat) (st : Stream) (f : StreamState → StreamState) : (modStr s c st f).bars = s.bars := by rfl
@[simp] theorem modStr_tickGood (s : State) (c : Nat) (st : Stream) (f : StreamState → StreamState) : (modStr s c st f).tickGood = s.tickGood := by rfl
@[simp] theorem modStr_tickSlew (s : State) (c : Nat) (st : Stream) (f : StreamState → StreamState) : (modStr s c st f).tickSlew = s.tickSlew := by rfl
@[simp] theorem modStr_tickSent (s : State) (c : Nat) (st : Stream) (f : StreamState → StreamState) : (modStr s c st f).tickSent = s.tickSent := by rfl
@[simp] theorem modStr_power (s : State) (c : Nat) (st : Stream) (f : StreamState → StreamState) : (modStr s c st f).power = s.power := by rfl
@[simp] theorem modStr_integ (s : State) (c : Nat) (st : Stream) (f : StreamState → StreamState) : (modStr s c st f).integ = s.integ := by rfl
@[simp] theorem modStr_fb (s : State) (c : Nat) (st : Stream) (f : StreamState → StreamState) : (modStr s c st f).fb = s.fb := by rfl
@[simp] theorem modStr_fbOffered (s : State) (c : Nat) (st : Stream) (f : StreamState → StreamState) : (modStr s c st f).fbOffered = s.fbOffered := by rfl
@[simp] theorem modStr_fbTick (s : State) (c : Nat) (st : Stream) (f : StreamState → StreamState) : (modStr s c st f).fbTick = s.fbTick := by rfl
@[simp] theorem modStr_fbDone (s : State) (c : Nat) (st : Stream) (f : StreamState → StreamState) : (modStr s c st f).fbDone = s.fbDone := by rfl
@[simp] theorem modStr_records (s : State) (c : Nat) (st : Stream) (f : StreamState → StreamState) : (modStr s c st f).records = s.records := by rfl
@[simp] theorem modStr_recPos (s : State) (c : Nat) (st : Stream) (f : StreamState → StreamState) : (modStr s c st f).recPos = s.recPos := by rfl
@[simp] theorem modStr_recSeq (s : State) (c : Nat) (st : Stream) (f : StreamState → StreamState) : (modStr s c st f).recSeq = s.recSeq := by rfl
@[simp] theorem modStr_recOffered (s : State) (c : Nat) (st : Stream) (f : StreamState → StreamState) : (modStr s c st f).recOffered = s.recOffered := by rfl
@[simp] theorem modStr_recAcked (s : State) (c : Nat) (st : Stream) (f : StreamState → StreamState) : (modStr s c st f).recAcked = s.recAcked := by rfl
@[simp] theorem modStr_merSince (s : State) (c : Nat) (st : Stream) (f : StreamState → StreamState) : (modStr s c st f).merSince = s.merSince := by rfl
@[simp] theorem modStr_helloTick (s : State) (c : Nat) (st : Stream) (f : StreamState → StreamState) : (modStr s c st f).helloTick = s.helloTick := by rfl
@[simp] theorem modStr_hello (s : State) (c : Nat) (st : Stream) (f : StreamState → StreamState) : (modStr s c st f).hello = s.hello := by rfl
@[simp] theorem modStr_sess (s : State) (c : Nat) (st : Stream) (f : StreamState → StreamState) : (modStr s c st f).sess = s.sess := by rfl
@[simp] theorem modStr_boot (s : State) (c : Nat) (st : Stream) (f : StreamState → StreamState) : (modStr s c st f).boot = s.boot := by rfl
@[simp] theorem modStr_freeze (s : State) (c : Nat) (st : Stream) (f : StreamState → StreamState) : (modStr s c st f).freeze = s.freeze := by rfl
@[simp] theorem modStr_tap (s : State) (c : Nat) (st : Stream) (f : StreamState → StreamState) : (modStr s c st f).tap = s.tap := by rfl
@[simp] theorem modStr_smb (s : State) (c : Nat) (st : Stream) (f : StreamState → StreamState) : (modStr s c st f).smb = s.smb := by rfl
@[simp] theorem modStr_tray (s : State) (c : Nat) (st : Stream) (f : StreamState → StreamState) : (modStr s c st f).tray = s.tray := by rfl
@[simp] theorem modStr_slotId (s : State) (c : Nat) (st : Stream) (f : StreamState → StreamState) : (modStr s c st f).slotId = s.slotId := by rfl
@[simp] theorem modStr_wbePos (s : State) (c : Nat) (st : Stream) (f : StreamState → StreamState) : (modStr s c st f).wbePos = s.wbePos := by rfl
@[simp] theorem modStr_wbeLeft (s : State) (c : Nat) (st : Stream) (f : StreamState → StreamState) : (modStr s c st f).wbeLeft = s.wbeLeft := by rfl

/-! ### setPart -/

@[simp] theorem setPart_pending (s : State) (p : Nat) (x : Part) : (setPart s p x).pending = s.pending := by rfl
@[simp] theorem setPart_tick (s : State) (p : Nat) (x : Part) : (setPart s p x).tick = s.tick := by rfl
@[simp] theorem setPart_free (s : State) (p : Nat) (x : Part) : (setPart s p x).free = s.free := by rfl
@[simp] theorem setPart_regs (s : State) (p : Nat) (x : Part) : (setPart s p x).regs = s.regs := by rfl
@[simp] theorem setPart_fresh (s : State) (p : Nat) (x : Part) : (setPart s p x).fresh = s.fresh := by rfl
@[simp] theorem setPart_held (s : State) (p : Nat) (x : Part) : (setPart s p x).held = s.held := by rfl
@[simp] theorem setPart_mem (s : State) (p : Nat) (x : Part) : (setPart s p x).mem = s.mem := by rfl
@[simp] theorem setPart_unseen (s : State) (p : Nat) (x : Part) : (setPart s p x).unseen = s.unseen := by rfl
@[simp] theorem setPart_lost (s : State) (p : Nat) (x : Part) : (setPart s p x).lost = s.lost := by rfl
@[simp] theorem setPart_tags (s : State) (p : Nat) (x : Part) : (setPart s p x).tags = s.tags := by rfl
@[simp] theorem setPart_lines (s : State) (p : Nat) (x : Part) : (setPart s p x).lines = s.lines := by rfl
@[simp] theorem setPart_lineBytes (s : State) (p : Nat) (x : Part) : (setPart s p x).lineBytes = s.lineBytes := by rfl
@[simp] theorem setPart_lineSyn (s : State) (p : Nat) (x : Part) : (setPart s p x).lineSyn = s.lineSyn := by rfl
@[simp] theorem setPart_lineUse (s : State) (p : Nat) (x : Part) : (setPart s p x).lineUse = s.lineUse := by rfl
@[simp] theorem setPart_waysOff (s : State) (p : Nat) (x : Part) : (setPart s p x).waysOff = s.waysOff := by rfl
@[simp] theorem setPart_syn (s : State) (p : Nat) (x : Part) : (setPart s p x).syn = s.syn := by rfl
@[simp] theorem setPart_flash (s : State) (p : Nat) (x : Part) : (setPart s p x).flash = s.flash := by rfl
@[simp] theorem setPart_clusters (s : State) (p : Nat) (x : Part) : (setPart s p x).clusters = s.clusters := by rfl
theorem setPart_parts (s : State) (p : Nat) (x : Part) : (setPart s p x).parts = nset s.parts p x := by rfl
@[simp] theorem setPart_cores (s : State) (p : Nat) (x : Part) : (setPart s p x).cores = s.cores := by rfl
@[simp] theorem setPart_ports (s : State) (p : Nat) (x : Part) : (setPart s p x).ports = s.ports := by rfl
@[simp] theorem setPart_switch (s : State) (p : Nat) (x : Part) : (setPart s p x).switch = s.switch := by rfl
@[simp] theorem setPart_turns (s : State) (p : Nat) (x : Part) : (setPart s p x).turns = s.turns := by rfl
@[simp] theorem setPart_arrived (s : State) (p : Nat) (x : Part) : (setPart s p x).arrived = s.arrived := by rfl
@[simp] theorem setPart_nextTid (s : State) (p : Nat) (x : Part) : (setPart s p x).nextTid = s.nextTid := by rfl
@[simp] theorem setPart_sent (s : State) (p : Nat) (x : Part) : (setPart s p x).sent = s.sent := by rfl
@[simp] theorem setPart_resend (s : State) (p : Nat) (x : Part) : (setPart s p x).resend = s.resend := by rfl
@[simp] theorem setPart_nakSeen (s : State) (p : Nat) (x : Part) : (setPart s p x).nakSeen = s.nakSeen := by rfl
@[simp] theorem setPart_routeMiss (s : State) (p : Nat) (x : Part) : (setPart s p x).routeMiss = s.routeMiss := by rfl
@[simp] theorem setPart_bars (s : State) (p : Nat) (x : Part) : (setPart s p x).bars = s.bars := by rfl
@[simp] theorem setPart_tickGood (s : State) (p : Nat) (x : Part) : (setPart s p x).tickGood = s.tickGood := by rfl
@[simp] theorem setPart_tickSlew (s : State) (p : Nat) (x : Part) : (setPart s p x).tickSlew = s.tickSlew := by rfl
@[simp] theorem setPart_tickSent (s : State) (p : Nat) (x : Part) : (setPart s p x).tickSent = s.tickSent := by rfl
@[simp] theorem setPart_power (s : State) (p : Nat) (x : Part) : (setPart s p x).power = s.power := by rfl
@[simp] theorem setPart_integ (s : State) (p : Nat) (x : Part) : (setPart s p x).integ = s.integ := by rfl
@[simp] theorem setPart_fb (s : State) (p : Nat) (x : Part) : (setPart s p x).fb = s.fb := by rfl
@[simp] theorem setPart_fbOffered (s : State) (p : Nat) (x : Part) : (setPart s p x).fbOffered = s.fbOffered := by rfl
@[simp] theorem setPart_fbTick (s : State) (p : Nat) (x : Part) : (setPart s p x).fbTick = s.fbTick := by rfl
@[simp] theorem setPart_fbDone (s : State) (p : Nat) (x : Part) : (setPart s p x).fbDone = s.fbDone := by rfl
@[simp] theorem setPart_records (s : State) (p : Nat) (x : Part) : (setPart s p x).records = s.records := by rfl
@[simp] theorem setPart_recPos (s : State) (p : Nat) (x : Part) : (setPart s p x).recPos = s.recPos := by rfl
@[simp] theorem setPart_recSeq (s : State) (p : Nat) (x : Part) : (setPart s p x).recSeq = s.recSeq := by rfl
@[simp] theorem setPart_recOffered (s : State) (p : Nat) (x : Part) : (setPart s p x).recOffered = s.recOffered := by rfl
@[simp] theorem setPart_recAcked (s : State) (p : Nat) (x : Part) : (setPart s p x).recAcked = s.recAcked := by rfl
@[simp] theorem setPart_merSince (s : State) (p : Nat) (x : Part) : (setPart s p x).merSince = s.merSince := by rfl
@[simp] theorem setPart_helloTick (s : State) (p : Nat) (x : Part) : (setPart s p x).helloTick = s.helloTick := by rfl
@[simp] theorem setPart_hello (s : State) (p : Nat) (x : Part) : (setPart s p x).hello = s.hello := by rfl
@[simp] theorem setPart_sess (s : State) (p : Nat) (x : Part) : (setPart s p x).sess = s.sess := by rfl
@[simp] theorem setPart_boot (s : State) (p : Nat) (x : Part) : (setPart s p x).boot = s.boot := by rfl
@[simp] theorem setPart_freeze (s : State) (p : Nat) (x : Part) : (setPart s p x).freeze = s.freeze := by rfl
@[simp] theorem setPart_tap (s : State) (p : Nat) (x : Part) : (setPart s p x).tap = s.tap := by rfl
@[simp] theorem setPart_smb (s : State) (p : Nat) (x : Part) : (setPart s p x).smb = s.smb := by rfl
@[simp] theorem setPart_tray (s : State) (p : Nat) (x : Part) : (setPart s p x).tray = s.tray := by rfl
@[simp] theorem setPart_slotId (s : State) (p : Nat) (x : Part) : (setPart s p x).slotId = s.slotId := by rfl
@[simp] theorem setPart_wbePos (s : State) (p : Nat) (x : Part) : (setPart s p x).wbePos = s.wbePos := by rfl
@[simp] theorem setPart_wbeLeft (s : State) (p : Nat) (x : Part) : (setPart s p x).wbeLeft = s.wbeLeft := by rfl

/-! ### modPart -/

@[simp] theorem modPart_pending (s : State) (p : Nat) (f : Part → Part) : (modPart s p f).pending = s.pending := by rfl
@[simp] theorem modPart_tick (s : State) (p : Nat) (f : Part → Part) : (modPart s p f).tick = s.tick := by rfl
@[simp] theorem modPart_free (s : State) (p : Nat) (f : Part → Part) : (modPart s p f).free = s.free := by rfl
@[simp] theorem modPart_regs (s : State) (p : Nat) (f : Part → Part) : (modPart s p f).regs = s.regs := by rfl
@[simp] theorem modPart_fresh (s : State) (p : Nat) (f : Part → Part) : (modPart s p f).fresh = s.fresh := by rfl
@[simp] theorem modPart_held (s : State) (p : Nat) (f : Part → Part) : (modPart s p f).held = s.held := by rfl
@[simp] theorem modPart_mem (s : State) (p : Nat) (f : Part → Part) : (modPart s p f).mem = s.mem := by rfl
@[simp] theorem modPart_unseen (s : State) (p : Nat) (f : Part → Part) : (modPart s p f).unseen = s.unseen := by rfl
@[simp] theorem modPart_lost (s : State) (p : Nat) (f : Part → Part) : (modPart s p f).lost = s.lost := by rfl
@[simp] theorem modPart_tags (s : State) (p : Nat) (f : Part → Part) : (modPart s p f).tags = s.tags := by rfl
@[simp] theorem modPart_lines (s : State) (p : Nat) (f : Part → Part) : (modPart s p f).lines = s.lines := by rfl
@[simp] theorem modPart_lineBytes (s : State) (p : Nat) (f : Part → Part) : (modPart s p f).lineBytes = s.lineBytes := by rfl
@[simp] theorem modPart_lineSyn (s : State) (p : Nat) (f : Part → Part) : (modPart s p f).lineSyn = s.lineSyn := by rfl
@[simp] theorem modPart_lineUse (s : State) (p : Nat) (f : Part → Part) : (modPart s p f).lineUse = s.lineUse := by rfl
@[simp] theorem modPart_waysOff (s : State) (p : Nat) (f : Part → Part) : (modPart s p f).waysOff = s.waysOff := by rfl
@[simp] theorem modPart_syn (s : State) (p : Nat) (f : Part → Part) : (modPart s p f).syn = s.syn := by rfl
@[simp] theorem modPart_flash (s : State) (p : Nat) (f : Part → Part) : (modPart s p f).flash = s.flash := by rfl
@[simp] theorem modPart_clusters (s : State) (p : Nat) (f : Part → Part) : (modPart s p f).clusters = s.clusters := by rfl
theorem modPart_parts (s : State) (p : Nat) (f : Part → Part) : (modPart s p f).parts = nset s.parts p (f (part s p)) := by rfl
@[simp] theorem modPart_cores (s : State) (p : Nat) (f : Part → Part) : (modPart s p f).cores = s.cores := by rfl
@[simp] theorem modPart_ports (s : State) (p : Nat) (f : Part → Part) : (modPart s p f).ports = s.ports := by rfl
@[simp] theorem modPart_switch (s : State) (p : Nat) (f : Part → Part) : (modPart s p f).switch = s.switch := by rfl
@[simp] theorem modPart_turns (s : State) (p : Nat) (f : Part → Part) : (modPart s p f).turns = s.turns := by rfl
@[simp] theorem modPart_arrived (s : State) (p : Nat) (f : Part → Part) : (modPart s p f).arrived = s.arrived := by rfl
@[simp] theorem modPart_nextTid (s : State) (p : Nat) (f : Part → Part) : (modPart s p f).nextTid = s.nextTid := by rfl
@[simp] theorem modPart_sent (s : State) (p : Nat) (f : Part → Part) : (modPart s p f).sent = s.sent := by rfl
@[simp] theorem modPart_resend (s : State) (p : Nat) (f : Part → Part) : (modPart s p f).resend = s.resend := by rfl
@[simp] theorem modPart_nakSeen (s : State) (p : Nat) (f : Part → Part) : (modPart s p f).nakSeen = s.nakSeen := by rfl
@[simp] theorem modPart_routeMiss (s : State) (p : Nat) (f : Part → Part) : (modPart s p f).routeMiss = s.routeMiss := by rfl
@[simp] theorem modPart_bars (s : State) (p : Nat) (f : Part → Part) : (modPart s p f).bars = s.bars := by rfl
@[simp] theorem modPart_tickGood (s : State) (p : Nat) (f : Part → Part) : (modPart s p f).tickGood = s.tickGood := by rfl
@[simp] theorem modPart_tickSlew (s : State) (p : Nat) (f : Part → Part) : (modPart s p f).tickSlew = s.tickSlew := by rfl
@[simp] theorem modPart_tickSent (s : State) (p : Nat) (f : Part → Part) : (modPart s p f).tickSent = s.tickSent := by rfl
@[simp] theorem modPart_power (s : State) (p : Nat) (f : Part → Part) : (modPart s p f).power = s.power := by rfl
@[simp] theorem modPart_integ (s : State) (p : Nat) (f : Part → Part) : (modPart s p f).integ = s.integ := by rfl
@[simp] theorem modPart_fb (s : State) (p : Nat) (f : Part → Part) : (modPart s p f).fb = s.fb := by rfl
@[simp] theorem modPart_fbOffered (s : State) (p : Nat) (f : Part → Part) : (modPart s p f).fbOffered = s.fbOffered := by rfl
@[simp] theorem modPart_fbTick (s : State) (p : Nat) (f : Part → Part) : (modPart s p f).fbTick = s.fbTick := by rfl
@[simp] theorem modPart_fbDone (s : State) (p : Nat) (f : Part → Part) : (modPart s p f).fbDone = s.fbDone := by rfl
@[simp] theorem modPart_records (s : State) (p : Nat) (f : Part → Part) : (modPart s p f).records = s.records := by rfl
@[simp] theorem modPart_recPos (s : State) (p : Nat) (f : Part → Part) : (modPart s p f).recPos = s.recPos := by rfl
@[simp] theorem modPart_recSeq (s : State) (p : Nat) (f : Part → Part) : (modPart s p f).recSeq = s.recSeq := by rfl
@[simp] theorem modPart_recOffered (s : State) (p : Nat) (f : Part → Part) : (modPart s p f).recOffered = s.recOffered := by rfl
@[simp] theorem modPart_recAcked (s : State) (p : Nat) (f : Part → Part) : (modPart s p f).recAcked = s.recAcked := by rfl
@[simp] theorem modPart_merSince (s : State) (p : Nat) (f : Part → Part) : (modPart s p f).merSince = s.merSince := by rfl
@[simp] theorem modPart_helloTick (s : State) (p : Nat) (f : Part → Part) : (modPart s p f).helloTick = s.helloTick := by rfl
@[simp] theorem modPart_hello (s : State) (p : Nat) (f : Part → Part) : (modPart s p f).hello = s.hello := by rfl
@[simp] theorem modPart_sess (s : State) (p : Nat) (f : Part → Part) : (modPart s p f).sess = s.sess := by rfl
@[simp] theorem modPart_boot (s : State) (p : Nat) (f : Part → Part) : (modPart s p f).boot = s.boot := by rfl
@[simp] theorem modPart_freeze (s : State) (p : Nat) (f : Part → Part) : (modPart s p f).freeze = s.freeze := by rfl
@[simp] theorem modPart_tap (s : State) (p : Nat) (f : Part → Part) : (modPart s p f).tap = s.tap := by rfl
@[simp] theorem modPart_smb (s : State) (p : Nat) (f : Part → Part) : (modPart s p f).smb = s.smb := by rfl
@[simp] theorem modPart_tray (s : State) (p : Nat) (f : Part → Part) : (modPart s p f).tray = s.tray := by rfl
@[simp] theorem modPart_slotId (s : State) (p : Nat) (f : Part → Part) : (modPart s p f).slotId = s.slotId := by rfl
@[simp] theorem modPart_wbePos (s : State) (p : Nat) (f : Part → Part) : (modPart s p f).wbePos = s.wbePos := by rfl
@[simp] theorem modPart_wbeLeft (s : State) (p : Nat) (f : Part → Part) : (modPart s p f).wbeLeft = s.wbeLeft := by rfl

/-! ### modCore -/

@[simp] theorem modCore_pending (s : State) (n : Nat) (f : Core → Core) : (modCore s n f).pending = s.pending := by rfl
@[simp] theorem modCore_tick (s : State) (n : Nat) (f : Core → Core) : (modCore s n f).tick = s.tick := by rfl
@[simp] theorem modCore_free (s : State) (n : Nat) (f : Core → Core) : (modCore s n f).free = s.free := by rfl
@[simp] theorem modCore_regs (s : State) (n : Nat) (f : Core → Core) : (modCore s n f).regs = s.regs := by rfl
@[simp] theorem modCore_fresh (s : State) (n : Nat) (f : Core → Core) : (modCore s n f).fresh = s.fresh := by rfl
@[simp] theorem modCore_held (s : State) (n : Nat) (f : Core → Core) : (modCore s n f).held = s.held := by rfl
@[simp] theorem modCore_mem (s : State) (n : Nat) (f : Core → Core) : (modCore s n f).mem = s.mem := by rfl
@[simp] theorem modCore_unseen (s : State) (n : Nat) (f : Core → Core) : (modCore s n f).unseen = s.unseen := by rfl
@[simp] theorem modCore_lost (s : State) (n : Nat) (f : Core → Core) : (modCore s n f).lost = s.lost := by rfl
@[simp] theorem modCore_tags (s : State) (n : Nat) (f : Core → Core) : (modCore s n f).tags = s.tags := by rfl
@[simp] theorem modCore_lines (s : State) (n : Nat) (f : Core → Core) : (modCore s n f).lines = s.lines := by rfl
@[simp] theorem modCore_lineBytes (s : State) (n : Nat) (f : Core → Core) : (modCore s n f).lineBytes = s.lineBytes := by rfl
@[simp] theorem modCore_lineSyn (s : State) (n : Nat) (f : Core → Core) : (modCore s n f).lineSyn = s.lineSyn := by rfl
@[simp] theorem modCore_lineUse (s : State) (n : Nat) (f : Core → Core) : (modCore s n f).lineUse = s.lineUse := by rfl
@[simp] theorem modCore_waysOff (s : State) (n : Nat) (f : Core → Core) : (modCore s n f).waysOff = s.waysOff := by rfl
@[simp] theorem modCore_syn (s : State) (n : Nat) (f : Core → Core) : (modCore s n f).syn = s.syn := by rfl
@[simp] theorem modCore_flash (s : State) (n : Nat) (f : Core → Core) : (modCore s n f).flash = s.flash := by rfl
@[simp] theorem modCore_clusters (s : State) (n : Nat) (f : Core → Core) : (modCore s n f).clusters = s.clusters := by rfl
@[simp] theorem modCore_parts (s : State) (n : Nat) (f : Core → Core) : (modCore s n f).parts = s.parts := by rfl
theorem modCore_cores (s : State) (n : Nat) (f : Core → Core) : (modCore s n f).cores = nset s.cores n (f (core s n)) := by rfl
@[simp] theorem modCore_ports (s : State) (n : Nat) (f : Core → Core) : (modCore s n f).ports = s.ports := by rfl
@[simp] theorem modCore_switch (s : State) (n : Nat) (f : Core → Core) : (modCore s n f).switch = s.switch := by rfl
@[simp] theorem modCore_turns (s : State) (n : Nat) (f : Core → Core) : (modCore s n f).turns = s.turns := by rfl
@[simp] theorem modCore_arrived (s : State) (n : Nat) (f : Core → Core) : (modCore s n f).arrived = s.arrived := by rfl
@[simp] theorem modCore_nextTid (s : State) (n : Nat) (f : Core → Core) : (modCore s n f).nextTid = s.nextTid := by rfl
@[simp] theorem modCore_sent (s : State) (n : Nat) (f : Core → Core) : (modCore s n f).sent = s.sent := by rfl
@[simp] theorem modCore_resend (s : State) (n : Nat) (f : Core → Core) : (modCore s n f).resend = s.resend := by rfl
@[simp] theorem modCore_nakSeen (s : State) (n : Nat) (f : Core → Core) : (modCore s n f).nakSeen = s.nakSeen := by rfl
@[simp] theorem modCore_routeMiss (s : State) (n : Nat) (f : Core → Core) : (modCore s n f).routeMiss = s.routeMiss := by rfl
@[simp] theorem modCore_bars (s : State) (n : Nat) (f : Core → Core) : (modCore s n f).bars = s.bars := by rfl
@[simp] theorem modCore_tickGood (s : State) (n : Nat) (f : Core → Core) : (modCore s n f).tickGood = s.tickGood := by rfl
@[simp] theorem modCore_tickSlew (s : State) (n : Nat) (f : Core → Core) : (modCore s n f).tickSlew = s.tickSlew := by rfl
@[simp] theorem modCore_tickSent (s : State) (n : Nat) (f : Core → Core) : (modCore s n f).tickSent = s.tickSent := by rfl
@[simp] theorem modCore_power (s : State) (n : Nat) (f : Core → Core) : (modCore s n f).power = s.power := by rfl
@[simp] theorem modCore_integ (s : State) (n : Nat) (f : Core → Core) : (modCore s n f).integ = s.integ := by rfl
@[simp] theorem modCore_fb (s : State) (n : Nat) (f : Core → Core) : (modCore s n f).fb = s.fb := by rfl
@[simp] theorem modCore_fbOffered (s : State) (n : Nat) (f : Core → Core) : (modCore s n f).fbOffered = s.fbOffered := by rfl
@[simp] theorem modCore_fbTick (s : State) (n : Nat) (f : Core → Core) : (modCore s n f).fbTick = s.fbTick := by rfl
@[simp] theorem modCore_fbDone (s : State) (n : Nat) (f : Core → Core) : (modCore s n f).fbDone = s.fbDone := by rfl
@[simp] theorem modCore_records (s : State) (n : Nat) (f : Core → Core) : (modCore s n f).records = s.records := by rfl
@[simp] theorem modCore_recPos (s : State) (n : Nat) (f : Core → Core) : (modCore s n f).recPos = s.recPos := by rfl
@[simp] theorem modCore_recSeq (s : State) (n : Nat) (f : Core → Core) : (modCore s n f).recSeq = s.recSeq := by rfl
@[simp] theorem modCore_recOffered (s : State) (n : Nat) (f : Core → Core) : (modCore s n f).recOffered = s.recOffered := by rfl
@[simp] theorem modCore_recAcked (s : State) (n : Nat) (f : Core → Core) : (modCore s n f).recAcked = s.recAcked := by rfl
@[simp] theorem modCore_merSince (s : State) (n : Nat) (f : Core → Core) : (modCore s n f).merSince = s.merSince := by rfl
@[simp] theorem modCore_helloTick (s : State) (n : Nat) (f : Core → Core) : (modCore s n f).helloTick = s.helloTick := by rfl
@[simp] theorem modCore_hello (s : State) (n : Nat) (f : Core → Core) : (modCore s n f).hello = s.hello := by rfl
@[simp] theorem modCore_sess (s : State) (n : Nat) (f : Core → Core) : (modCore s n f).sess = s.sess := by rfl
@[simp] theorem modCore_boot (s : State) (n : Nat) (f : Core → Core) : (modCore s n f).boot = s.boot := by rfl
@[simp] theorem modCore_freeze (s : State) (n : Nat) (f : Core → Core) : (modCore s n f).freeze = s.freeze := by rfl
@[simp] theorem modCore_tap (s : State) (n : Nat) (f : Core → Core) : (modCore s n f).tap = s.tap := by rfl
@[simp] theorem modCore_smb (s : State) (n : Nat) (f : Core → Core) : (modCore s n f).smb = s.smb := by rfl
@[simp] theorem modCore_tray (s : State) (n : Nat) (f : Core → Core) : (modCore s n f).tray = s.tray := by rfl
@[simp] theorem modCore_slotId (s : State) (n : Nat) (f : Core → Core) : (modCore s n f).slotId = s.slotId := by rfl
@[simp] theorem modCore_wbePos (s : State) (n : Nat) (f : Core → Core) : (modCore s n f).wbePos = s.wbePos := by rfl
@[simp] theorem modCore_wbeLeft (s : State) (n : Nat) (f : Core → Core) : (modCore s n f).wbeLeft = s.wbeLeft := by rfl

end Sys2Proof.Machine
end

