-- ==== Sys2Proof/Laws/Registers.lean ====
section
/-! SUPPORT. Laws of registers, clusters, streams and partitions: what each accessor reads after each update. -/

namespace Sys2Proof.Machine

/-! ### Registers -/

@[simp] theorem reg_setReg_self (s : State) (r : RegName) (v : Word) (idx inst : Nat) : reg (setReg s r v idx inst) r idx inst = v := by
  simp [reg, setReg]

theorem reg_setReg_of_ne (s : State) (r r' : RegName) (v : Word) (idx inst idx' inst' : Nat)
    (h : regAddr r' idx' inst' ≠ regAddr r idx inst) : reg (setReg s r v idx inst) r' idx' inst' = reg s r' idx' inst' := by
  simp only [reg, setReg]; exact ngetD_nput_of_ne _ _ _ _ h

theorem reg_eq_of_regs {s t : State} (h : t.regs = s.regs) (r : RegName) (idx inst : Nat) : reg t r idx inst = reg s r idx inst := by
  simp [reg, h]

theorem fget_eq_of_regs {s t : State} (h : t.regs = s.regs) (f : Fld) (idx inst : Nat) : fget t f idx inst = fget s f idx inst := by
  simp [fget, reg, h]

theorem fbit_eq_of_regs {s t : State} (h : t.regs = s.regs) (f : Fld) (idx inst : Nat) : fbit t f idx inst = fbit s f idx inst := by
  simp [fbit, fget, reg, h]

/-- A register whose address is not the written one keeps its value. -/
theorem reg_fput_of_ne (s : State) (f : Fld) (v idx inst : Nat) (r : RegName) (idx' inst' : Nat)
    (h : regAddr r idx' inst' ≠ regAddr f.reg idx inst) : reg (fput s f v idx inst) r idx' inst' = reg s r idx' inst' :=
  reg_setReg_of_ne _ _ _ _ _ _ _ _ h

theorem fget_fput_of_ne (s : State) (f g : Fld) (v idx inst idx' inst' : Nat)
    (h : regAddr g.reg idx' inst' ≠ regAddr f.reg idx inst) : fget (fput s f v idx inst) g idx' inst' = fget s g idx' inst' := by
  simp only [fget, reg_fput_of_ne s f v idx inst g.reg idx' inst' h]

theorem fget_setReg_of_ne (s : State) (r : RegName) (g : Fld) (v : Word) (idx inst idx' inst' : Nat)
    (h : regAddr g.reg idx' inst' ≠ regAddr r idx inst) : fget (setReg s r v idx inst) g idx' inst' = fget s g idx' inst' := by
  simp only [fget, reg_setReg_of_ne s r g.reg v idx inst idx' inst' h]

/-- A field that is put reads back modulo its width. -/
theorem fget_fput_self (s : State) (f : Fld) (v idx inst : Nat) (h : f.lo ≤ f.hi) (hw : f.hi < 64) :
    fget (fput s f v idx inst) f idx inst = v % 2 ^ (f.hi + 1 - f.lo) := by
  simp only [fget, fput, reg_setReg_self, bitsOf, putBits, BitVec.toNat_ofNat]
  rw [Nat.mod_eq_of_lt (natPut_lt _ _ _ _ _ (BitVec.isLt _) h hw), natBits_natPut _ _ _ _ h]

theorem fget_fput_above (s : State) (f g : Fld) (v idx inst : Nat) (hr : g.reg = f.reg) (h : f.lo ≤ f.hi) (hw : f.hi < 64)
    (hl : f.hi < g.lo) : fget (fput s f v idx inst) g idx inst = fget s g idx inst := by
  simp only [fget, fput, hr, reg_setReg_self, bitsOf, putBits, BitVec.toNat_ofNat]
  rw [Nat.mod_eq_of_lt (natPut_lt _ _ _ _ _ (BitVec.isLt _) h hw), natBits_natPut_above _ _ _ _ _ _ h hl]

theorem fget_fput_below (s : State) (f g : Fld) (v idx inst : Nat) (hr : g.reg = f.reg) (h : f.lo ≤ f.hi) (hw : f.hi < 64)
    (hg : g.lo ≤ g.hi) (hl : g.hi < f.lo) : fget (fput s f v idx inst) g idx inst = fget s g idx inst := by
  simp only [fget, fput, hr, reg_setReg_self, bitsOf, putBits, BitVec.toNat_ofNat]
  rw [Nat.mod_eq_of_lt (natPut_lt _ _ _ _ _ (BitVec.isLt _) h hw), natBits_natPut_below _ _ _ _ _ _ h hg hl]

/-- Another field of the same register keeps its value; every premise is decided for concrete fields. -/
theorem fget_fput_other (s : State) (f g : Fld) (v idx inst : Nat)
    (h : g.reg = f.reg ∧ f.lo ≤ f.hi ∧ f.hi < 64 ∧ g.lo ≤ g.hi ∧ (f.hi < g.lo ∨ g.hi < f.lo)) :
    fget (fput s f v idx inst) g idx inst = fget s g idx inst := by
  obtain ⟨h1, h2, h3, h4, h5 | h5⟩ := h
  · exact fget_fput_above s f g v idx inst h1 h2 h3 h5
  · exact fget_fput_below s f g v idx inst h1 h2 h3 h4 h5

/-- A field is a function of its register. -/
theorem fget_of_reg {s t : State} (g : Fld) (i j : Nat) (h : reg t g.reg i j = reg s g.reg i j) : fget t g i j = fget s g i j := by
  unfold fget; rw [h]

theorem fget_lt (s : State) (f : Fld) (idx inst : Nat) : fget s f idx inst < 2 ^ (f.hi + 1 - f.lo) :=
  Nat.mod_lt _ (by positivity)

@[simp] theorem reg_setClu (s : State) (c : Nat) (x : Cluster) (r : RegName) (i j : Nat) : reg (setClu s c x) r i j = reg s r i j := by rfl
@[simp] theorem fget_setClu (s : State) (c : Nat) (x : Cluster) (g : Fld) (i j : Nat) : fget (setClu s c x) g i j = fget s g i j := by rfl
@[simp] theorem fbit_setClu (s : State) (c : Nat) (x : Cluster) (g : Fld) (i j : Nat) : fbit (setClu s c x) g i j = fbit s g i j := by rfl
@[simp] theorem reg_modClu (s : State) (c : Nat) (f : Cluster → Cluster) (r : RegName) (i j : Nat) : reg (modClu s c f) r i j = reg s r i j := by rfl
@[simp] theorem fget_modClu (s : State) (c : Nat) (f : Cluster → Cluster) (g : Fld) (i j : Nat) : fget (modClu s c f) g i j = fget s g i j := by rfl
@[simp] theorem fbit_modClu (s : State) (c : Nat) (f : Cluster → Cluster) (g : Fld) (i j : Nat) : fbit (modClu s c f) g i j = fbit s g i j := by rfl
@[simp] theorem reg_modStr (s : State) (c : Nat) (st : Stream) (f : StreamState → StreamState) (r : RegName) (i j : Nat) : reg (modStr s c st f) r i j = reg s r i j := by rfl
@[simp] theorem fget_modStr (s : State) (c : Nat) (st : Stream) (f : StreamState → StreamState) (g : Fld) (i j : Nat) : fget (modStr s c st f) g i j = fget s g i j := by rfl
@[simp] theorem fbit_modStr (s : State) (c : Nat) (st : Stream) (f : StreamState → StreamState) (g : Fld) (i j : Nat) : fbit (modStr s c st f) g i j = fbit s g i j := by rfl
@[simp] theorem reg_setPart (s : State) (p : Nat) (x : Part) (r : RegName) (i j : Nat) : reg (setPart s p x) r i j = reg s r i j := by rfl
@[simp] theorem fget_setPart (s : State) (p : Nat) (x : Part) (g : Fld) (i j : Nat) : fget (setPart s p x) g i j = fget s g i j := by rfl
@[simp] theorem fbit_setPart (s : State) (p : Nat) (x : Part) (g : Fld) (i j : Nat) : fbit (setPart s p x) g i j = fbit s g i j := by rfl
@[simp] theorem reg_modPart (s : State) (p : Nat) (f : Part → Part) (r : RegName) (i j : Nat) : reg (modPart s p f) r i j = reg s r i j := by rfl
@[simp] theorem fget_modPart (s : State) (p : Nat) (f : Part → Part) (g : Fld) (i j : Nat) : fget (modPart s p f) g i j = fget s g i j := by rfl
@[simp] theorem fbit_modPart (s : State) (p : Nat) (f : Part → Part) (g : Fld) (i j : Nat) : fbit (modPart s p f) g i j = fbit s g i j := by rfl
@[simp] theorem reg_modCore (s : State) (n : Nat) (f : Core → Core) (r : RegName) (i j : Nat) : reg (modCore s n f) r i j = reg s r i j := by rfl
@[simp] theorem fget_modCore (s : State) (n : Nat) (f : Core → Core) (g : Fld) (i j : Nat) : fget (modCore s n f) g i j = fget s g i j := by rfl
@[simp] theorem fbit_modCore (s : State) (n : Nat) (f : Core → Core) (g : Fld) (i j : Nat) : fbit (modCore s n f) g i j = fbit s g i j := by rfl

/-- A write of pieces changes bytes, syndromes and tags, nothing else. -/
theorem wrSpans_rest (s : State) (l : List (Nat × Nat)) (bs : List Byte) :
    wrSpans s l bs = { s with mem := (wrSpans s l bs).mem, lineBytes := (wrSpans s l bs).lineBytes, syn := (wrSpans s l bs).syn,
                              lineSyn := (wrSpans s l bs).lineSyn, tags := (wrSpans s l bs).tags } := by
  induction l generalizing s bs with
  | nil => rfl
  | cons r l ih => rw [wrSpans, ih]; rfl

/-- An ordinary write changes bytes, syndromes and tags, nothing else. -/
theorem wrBytes_rest (s : State) (a : Nat) (bs : List Byte) :
    wrBytes s a bs = { s with mem := (wrBytes s a bs).mem, lineBytes := (wrBytes s a bs).lineBytes, syn := (wrBytes s a bs).syn,
                              lineSyn := (wrBytes s a bs).lineSyn, tags := (wrBytes s a bs).tags } := by
  unfold wrBytes; split
  · rfl
  · split
    · rfl
    · exact wrSpans_rest _ _ _

@[simp] theorem wrBytes_regs (s : State) (a : Nat) (bs : List Byte) : (wrBytes s a bs).regs = s.regs := by rw [wrBytes_rest]
@[simp] theorem wrBytes_clusters (s : State) (a : Nat) (bs : List Byte) : (wrBytes s a bs).clusters = s.clusters := by rw [wrBytes_rest]
@[simp] theorem wrBytes_parts (s : State) (a : Nat) (bs : List Byte) : (wrBytes s a bs).parts = s.parts := by rw [wrBytes_rest]

/-! ### Clusters, streams, partitions, cores -/

@[simp] theorem clu_setClu_self (s : State) (c : Nat) (x : Cluster) : clu (setClu s c x) c = x := by simp [clu, setClu]
theorem clu_setClu_of_ne (s : State) {c d : Nat} (x : Cluster) (h : d ≠ c) : clu (setClu s c x) d = clu s d := by
  simp [clu, setClu, ngetD_nset_of_ne _ _ _ h]
@[simp] theorem clu_modClu_self (s : State) (c : Nat) (f : Cluster → Cluster) : clu (modClu s c f) c = f (clu s c) := by simp [modClu]
theorem clu_modClu_of_ne (s : State) {c d : Nat} (f : Cluster → Cluster) (h : d ≠ c) : clu (modClu s c f) d = clu s d :=
  clu_setClu_of_ne s _ h
@[simp] theorem clu_setReg (s : State) (r : RegName) (v : Word) (i j c : Nat) : clu (setReg s r v i j) c = clu s c := by rfl
@[simp] theorem clu_fput (s : State) (f : Fld) (v i j c : Nat) : clu (fput s f v i j) c = clu s c := by rfl
@[simp] theorem clu_wrBytes (s : State) (a : Nat) (bs : List Byte) (c : Nat) : clu (wrBytes s a bs) c = clu s c := by simp [clu]

@[simp] theorem str_setStr_self (k : Cluster) (st : Stream) (x : StreamState) : str (setStr k st x) st = x := by cases st <;> rfl
theorem str_setStr_of_ne (k : Cluster) {st st' : Stream} (x : StreamState) (h : st' ≠ st) : str (setStr k st x) st' = str k st' := by
  cases st <;> cases st' <;> first | rfl | exact absurd rfl h
@[simp] theorem setStr_setStr (k : Cluster) (st : Stream) (x y : StreamState) : setStr (setStr k st x) st y = setStr k st y := by
  cases st <;> rfl
@[simp] theorem setStr_str (k : Cluster) (st : Stream) : setStr k st (str k st) = k := by cases st <;> rfl

@[simp] theorem clu_modStr_self (s : State) (c : Nat) (st : Stream) (f : StreamState → StreamState) :
    clu (modStr s c st f) c = setStr (clu s c) st (f (str (clu s c) st)) := by simp [modStr]
theorem clu_modStr_of_ne (s : State) {c d : Nat} (st : Stream) (f : StreamState → StreamState) (h : d ≠ c) :
    clu (modStr s c st f) d = clu s d := clu_modClu_of_ne s _ h
@[simp] theorem stream_modStr_self (s : State) (c : Nat) (st : Stream) (f : StreamState → StreamState) :
    stream (modStr s c st f) c st = f (stream s c st) := by simp [stream]
@[simp] theorem stream_fput (s : State) (g : Fld) (v i j c : Nat) (st : Stream) : stream (fput s g v i j) c st = stream s c st := by rfl
@[simp] theorem stream_setReg (s : State) (r : RegName) (v : Word) (i j c : Nat) (st : Stream) :
    stream (setReg s r v i j) c st = stream s c st := by rfl
@[simp] theorem stream_wrBytes (s : State) (a : Nat) (bs : List Byte) (c : Nat) (st : Stream) :
    stream (wrBytes s a bs) c st = stream s c st := by simp [stream]

@[simp] theorem part_setPart_self (s : State) (p : Nat) (x : Part) : part (setPart s p x) p = x := by simp [part, setPart]
theorem part_setPart_of_ne (s : State) {p q : Nat} (x : Part) (h : q ≠ p) : part (setPart s p x) q = part s q := by
  simp [part, setPart, ngetD_nset_of_ne _ _ _ h]
@[simp] theorem part_modPart_self (s : State) (p : Nat) (f : Part → Part) : part (modPart s p f) p = f (part s p) := by simp [modPart]
theorem part_modPart_of_ne (s : State) {p q : Nat} (f : Part → Part) (h : q ≠ p) : part (modPart s p f) q = part s q :=
  part_setPart_of_ne s _ h
@[simp] theorem part_setReg (s : State) (r : RegName) (v : Word) (i j p : Nat) : part (setReg s r v i j) p = part s p := by rfl
@[simp] theorem part_fput (s : State) (f : Fld) (v i j p : Nat) : part (fput s f v i j) p = part s p := by rfl
@[simp] theorem part_modClu (s : State) (c : Nat) (f : Cluster → Cluster) (p : Nat) : part (modClu s c f) p = part s p := by rfl
@[simp] theorem part_modStr (s : State) (c : Nat) (st : Stream) (f : StreamState → StreamState) (p : Nat) :
    part (modStr s c st f) p = part s p := by rfl
@[simp] theorem clu_modPart (s : State) (p : Nat) (f : Part → Part) (c : Nat) : clu (modPart s p f) c = clu s c := by rfl
@[simp] theorem core_modCore_self (s : State) (n : Nat) (f : Core → Core) : core (modCore s n f) n = f (core s n) := by
  simp [core, modCore]

/-! ### Registers of a stream -/

/-- What s[m] reads after a write of s[n]: s0 stays 0 (R167). -/
theorem sreg_setSreg (x : StreamState) (n m : Nat) (v : Word) :
    sreg (setSreg x n v) m = if m = n ∧ n ≠ 0 then v else sreg x m := by
  unfold sreg setSreg
  by_cases hn : n = 0
  · simp [hn]
  · by_cases hm : m = 0
    · simp [hn, hm, Ne.symm hn]
    · simp only [hn, hm, if_false, ngetD_nput, ne_eq, not_false_eq_true, and_true]

theorem areg_setAreg (x : StreamState) (n m : Nat) (v : Word) : areg (setAreg x n v) m = if m = n then v else areg x m := by
  simp [areg, setAreg, ngetD_nput]

/-- What p[m] reads after a write of p[n]: p0 stays 1 (R167). -/
theorem preg_setPreg (x : StreamState) (n m : Nat) (v : Bool) :
    preg (setPreg x n v) m = if m = n ∧ n ≠ 0 then v else preg x m := by
  unfold preg setPreg
  by_cases hn : n = 0
  · simp [hn]
  · by_cases hm : m = 0
    · simp [hn, hm, Ne.symm hn]
    · simp only [hn, hm, if_false, ngetD_nput, ne_eq, not_false_eq_true, and_true]

@[simp] theorem areg_setSreg (x : StreamState) (n m : Nat) (v : Word) : areg (setSreg x n v) m = areg x m := by
  unfold setSreg; split <;> rfl
@[simp] theorem preg_setSreg (x : StreamState) (n m : Nat) (v : Word) : preg (setSreg x n v) m = preg x m := by
  unfold setSreg; split <;> rfl
@[simp] theorem sreg_setAreg (x : StreamState) (n m : Nat) (v : Word) : sreg (setAreg x n v) m = sreg x m := by rfl
@[simp] theorem preg_setAreg (x : StreamState) (n m : Nat) (v : Word) : preg (setAreg x n v) m = preg x m := by rfl
@[simp] theorem sreg_setPreg (x : StreamState) (n m : Nat) (v : Bool) : sreg (setPreg x n v) m = sreg x m := by
  unfold setPreg; split <;> rfl
@[simp] theorem areg_setPreg (x : StreamState) (n m : Nat) (v : Bool) : areg (setPreg x n v) m = areg x m := by
  unfold setPreg; split <;> rfl

/-- The program counter of a stream after it was placed: 48 bits (R191). -/
theorem pcOf_setPc_self (s : State) (c : Nat) (st : Stream) (v : Nat) : pcOf (setPc s c st v) c st = v % 2 ^ 48 := by
  cases st <;> exact fget_fput_self _ _ _ _ _ (by decide) (by decide)

end Sys2Proof.Machine
end

