-- ==== Sys2Proof/Laws/Issue.lean ====
section
/-! SUPPORT. Laws of issue: what one instruction at the head of a stream does, case by case, and when a read changes nothing. -/

namespace Sys2Proof.Machine

/-! ### Reads that change nothing -/

theorem storedIn_eq_nil (s : State) (lo hi : Nat) (h : ∀ w, wordAddr lo ≤ w → w < hi → nget s.syn w = none) : storedIn s lo hi = [] := by
  unfold storedIn
  rw [List.filter_eq_nil_iff]
  intro e he
  simp only [Bool.and_eq_true, decide_eq_true_eq, not_and]
  intro h1 h2
  exact (nget_eq_none_iff _ _).1 (h e.1 h1 h2) e he rfl

/-- A range of SRAM with no word in error is read as it stands. -/
theorem checkRange_clean (src : Nat) (s : State) (bad : Option (Nat × Nat)) (lo hi : Nat) (h1 : 0x400000000000 ≤ lo)
    (h2 : lo < 0x1000000000000) (h : ∀ w, wordAddr lo ≤ w → w < hi → nget s.syn w = none) : checkRange src (s, bad) lo hi = (s, bad) := by
  unfold checkRange
  split
  · rfl
  · have e : lo + (hi - lo) = hi := by omega
    simp [spans, h2, checkSpan, h1, e, storedIn_eq_nil s lo hi h]

/-- A range of LPDDR5X with no word and no tag in error is read as it stands while no line of an edge cache is in use or filled. -/
theorem checkRange_clean_lpddr (src : Nat) (s : State) (bad : Option (Nat × Nat)) (lo hi : Nat) (h2 : lo < 0x400000000000)
    (hs : s.syn = []) (hl : s.lineSyn = []) (ht : s.tags = []) (hn : s.lines = [])
    (hc : ∀ p, p < 8 → fbit s F.HUB_WIN.CACHE p = false) : checkRange src (s, bad) lo hi = (s, bad) := by
  unfold checkRange
  split
  · rfl
  · have e : lo + (hi - lo) = hi := by omega
    have hb : badSegments s lo hi = [] := by simp [badSegments, listedIn, storedIn, hs, hl, ht]
    have ha : ((List.range 8).any fun p => fbit s F.HUB_WIN.CACHE p) = false := by
      rw [List.any_eq_false]; intro p hp; simp [hc p (List.mem_range.1 hp)]
    have hlo : ¬ (0x400000000000 ≤ lo) := by omega
    have h3 : lo < 0x1000000000000 := by omega
    simp [spans, h3, checkSpan, hlo, e, hb, touchLines, ha, hn]

/-- Ranges are read as they stand while no word, line or tag is in error and no line of an edge cache is in use or filled. -/
theorem checkRanges_clean (src : Nat) (s : State) (rs : List (Nat × Nat)) (hs : s.syn = []) (hl : s.lineSyn = []) (ht : s.tags = [])
    (hn : s.lines = []) (hc : ∀ p, p < 8 → fbit s F.HUB_WIN.CACHE p = false) : checkRanges src s rs = (s, none) := by
  have ha : ((List.range 8).any fun p => fbit s F.HUB_WIN.CACHE p) = false := by
    rw [List.any_eq_false]; intro p hp; simp [hc p (List.mem_range.1 hp)]
  have span : ∀ r, checkSpan src (s, none) r = (s, none) := by
    intro r
    simp [checkSpan, storedIn, badSegments, listedIn, hs, hl, ht, touchLines, ha, hn]
  have fixed : ∀ l : List (Nat × Nat), l.foldl (checkSpan src) (s, none) = (s, none) := by
    intro l; induction l with
    | nil => rfl
    | cons r l ih => simp [span, ih]
  unfold checkRanges
  induction rs with
  | nil => rfl
  | cons r rs ih => simp only [List.foldl_cons]; rw [show checkRange src (s, none) r.1 r.2 = (s, none) by unfold checkRange; split <;> simp [fixed]]; exact ih

/-! ### Issue -/

/-- A stream that does not issue leaves the state. -/
theorem issue_blocked (opc : Nat) (legal : Bool) (body : State → State) (i : Issue) (s : State) (h : canIssue s i = false) :
    issue opc legal body i s = .next s := by simp [issue, h]

/-- A stream that runs does one instruction. -/
theorem issue_runs (opc : Nat) (legal : Bool) (body : State → State) (i : Issue) (s : State) (h : canIssue s i = true)
    (hr : (strOf s i).running = true) : issue opc legal body i s = .next (issueNow opc legal body i s) := by simp [issue, h, hr]

/-- A stream that has the rest of a cycle does one instruction, and the cycle ends (R185). -/
theorem issue_lastCycle (opc : Nat) (legal : Bool) (body : State → State) (i : Issue) (s : State) (h : canIssue s i = true)
    (hr : (strOf s i).running = false) : issue opc legal body i s = .next (endCycle (issueNow opc legal body i s) i.cl) := by
  simp [issue, h, hr]

/-- The fetch outside the code region is an ADDR_FAULT (R500). -/
theorem issueNow_outside (opc : Nat) (legal : Bool) (body : State → State) (i : Issue) (s : State)
    (hc : inCodeRegion s i.cl (fetchAt s i) = false) : issueNow opc legal body i s = precise s i 0x04 (fetchAt s i) := by
  simp [issueNow, hc]

/-- A fetched word that is good: the predicate decides, then the reserved fields, then the body (R194, R195). -/
theorem issueNow_fetched (opc : Nat) (legal : Bool) (body : State → State) (i : Issue) (s u : State)
    (hc : inCodeRegion s i.cl (fetchAt s i) = true) (hs : checkRange (srcCluster 0 i.cl) (s, none) (pcNow s i) (pcNow s i + 8) = (u, none)) :
    issueNow opc legal body i s =
      if predicateOn u i = false then advance u i else if legal = false then precise u i 0x01 (instrWord opc i) else body u := by
  simp only [issueNow, hc, hs]
  simp only [Bool.not_true, if_false, Bool.false_eq_true, Bool.not_eq_true']

/-- A fetched word that is bad is a FETCH_UE (R264). -/
theorem issueNow_bad (opc : Nat) (legal : Bool) (body : State → State) (i : Issue) (s u : State) (bad : Nat × Nat)
    (hc : inCodeRegion s i.cl (fetchAt s i) = true) (hs : checkRange (srcCluster 0 i.cl) (s, none) (pcNow s i) (pcNow s i + 8) = (u, some bad)) :
    issueNow opc legal body i s = faultFor (precise u i 0x0C (pcNow u i)) i.cl (srcCluster 0 i.cl) (some bad) := by
  simp only [issueNow, hc, hs]
  simp

end Sys2Proof.Machine
end

