-- ==== Sys2Proof/Laws/Trap.lean ====
section
/-! SUPPORT. What taking a trap does (R184, R185): takeTrap and the operations it is made of. -/

namespace Sys2Proof.Machine

/-- What every turn of a counted loop keeps, the loop keeps. -/
theorem foldRange_keeps {α : Type} (P : α → Prop) (n : Nat) (f : α → Nat → α) (a : α) (h : P a)
    (step : ∀ x k, k < n → P x → P (f x k)) : P (foldRange n f a) := by
  unfold foldRange
  have : ∀ l : List Nat, (∀ k ∈ l, k < n) → ∀ x, P x → P (l.foldl f x) := by
    intro l
    induction l with
    | nil => intro _ x hx; exact hx
    | cons k l ih =>
      intro hl x hx
      exact ih (fun k hk => hl k (List.mem_cons_of_mem _ hk)) _ (step x k (hl k (by simp)) hx)
  exact this _ (fun k hk => List.mem_range.1 hk) a h

theorem foldRange_eq {α β : Type} (g : α → β) (n : Nat) (f : α → Nat → α) (a : α) (step : ∀ x k, k < n → g (f x k) = g x) :
    g (foldRange n f a) = g a :=
  foldRange_keeps (fun x => g x = g a) n f a rfl (fun x k hk h => (step x k hk).trans h)

/-- What every element's turn keeps, the loop over a list keeps. -/
theorem foldl_keeps {α β : Type} (P : α → Prop) (f : α → β → α) (l : List β) (a : α) (h : P a)
    (step : ∀ x b, b ∈ l → P x → P (f x b)) : P (l.foldl f a) := by
  induction l generalizing a with
  | nil => exact h
  | cons b l ih => exact ih _ (step a b (by simp) h) (fun x c hc => step x c (List.mem_cons_of_mem _ hc))

/-- What turn k establishes and every turn keeps holds at the end. -/
theorem foldRange_each {α : Type} (P : Nat → α → Prop) (n : Nat) (f : α → Nat → α) (a : α) (est : ∀ x k, k < n → P k (f x k))
    (keep : ∀ x k j, k < n → P j x → P j (f x k)) : ∀ k, k < n → P k (foldRange n f a) := by
  intro k hk
  unfold foldRange
  have : ∀ l : List Nat, (∀ j ∈ l, j < n) → ∀ x, (k ∈ l ∨ P k x) → P k (l.foldl f x) := by
    intro l
    induction l with
    | nil => intro _ x hx; simpa using hx
    | cons j l ih =>
      intro hl x hx
      refine ih (fun i hi => hl i (List.mem_cons_of_mem _ hi)) _ ?_
      have hj : j < n := hl j (by simp)
      rcases hx with hx | hx
      · rcases List.mem_cons.1 hx with rfl | hx
        · exact .inr (est _ _ hj)
        · exact .inl hx
      · exact .inr (keep _ _ _ hj hx)
  exact this _ (fun j hj => List.mem_range.1 hj) a (.inl (List.mem_range.2 hk))

/-! ### Changing registers only -/

/-- t differs from s in registers of the register maps only. -/
def ButRegs (s t : State) : Prop := t = { s with regs := t.regs }

/-- t differs from s in registers and clusters only. -/
def ButRegsClusters (s t : State) : Prop := t = { s with regs := t.regs, clusters := t.clusters }

theorem ButRegs.refl (s : State) : ButRegs s s := by rfl
theorem ButRegs.trans {s t u : State} (h : ButRegs s t) (k : ButRegs t u) : ButRegs s u := by
  unfold ButRegs at *; rw [k, h]
theorem ButRegs.fput {s t : State} (h : ButRegs s t) (f : Fld) (v i j : Nat) : ButRegs s (fput t f v i j) := h.trans rfl
theorem ButRegs.setReg {s t : State} (h : ButRegs s t) (r : RegName) (v : Word) (i j : Nat) : ButRegs s (setReg t r v i j) := h.trans rfl
theorem ButRegs.clu {s t : State} (h : ButRegs s t) (c : Nat) : clu t c = Machine.clu s c := by rw [h]; rfl
theorem ButRegs.mem {s t : State} (h : ButRegs s t) : t.mem = s.mem := by rw [h]
theorem ButRegs.syn {s t : State} (h : ButRegs s t) : t.syn = s.syn := by rw [h]
theorem ButRegs.parts {s t : State} (h : ButRegs s t) : t.parts = s.parts := by rw [h]
theorem ButRegs.clusters {s t : State} (h : ButRegs s t) : t.clusters = s.clusters := by rw [h]
theorem ButRegs.more {s t : State} (h : ButRegs s t) : ButRegsClusters s t := by unfold ButRegsClusters; rw [h]

theorem ButRegsClusters.refl (s : State) : ButRegsClusters s s := by rfl
theorem ButRegsClusters.trans {s t u : State} (h : ButRegsClusters s t) (k : ButRegsClusters t u) : ButRegsClusters s u := by
  unfold ButRegsClusters at *; rw [k, h]
theorem ButRegsClusters.fput {s t : State} (h : ButRegsClusters s t) (f : Fld) (v i j : Nat) : ButRegsClusters s (fput t f v i j) :=
  h.trans rfl
theorem ButRegsClusters.setReg {s t : State} (h : ButRegsClusters s t) (r : RegName) (v : Word) (i j : Nat) :
    ButRegsClusters s (setReg t r v i j) := h.trans rfl
theorem ButRegsClusters.modClu {s t : State} (h : ButRegsClusters s t) (c : Nat) (f : Cluster → Cluster) :
    ButRegsClusters s (modClu t c f) := h.trans rfl
theorem ButRegsClusters.modStr {s t : State} (h : ButRegsClusters s t) (c : Nat) (st : Stream) (f : StreamState → StreamState) :
    ButRegsClusters s (modStr t c st f) := h.trans rfl
theorem ButRegsClusters.mem {s t : State} (h : ButRegsClusters s t) : t.mem = s.mem := by rw [h]
theorem ButRegsClusters.syn {s t : State} (h : ButRegsClusters s t) : t.syn = s.syn := by rw [h]
theorem ButRegsClusters.parts {s t : State} (h : ButRegsClusters s t) : t.parts = s.parts := by rw [h]

/-! ### Posting a notice -/

/-- A posted notice changes registers of the mailbox block only. -/
theorem mbxPost_only (s : State) (n : Nat) (w : Word) (k m : Nat) : ButRegs s (mbxPost s n w k m) := by
  unfold mbxPost
  exact (((((((ButRegs.refl s).setReg _ _ _ _).setReg _ _ _ _).fput _ _ _ _).fput _ _ _ _).fput _ _ _ _).fput _ _ _ _).fput _ _ _ _

/-- A register outside the block of the mailboxes stays. -/
theorem reg_mbxPost_of_ne (s : State) (n : Nat) (w : Word) (k m : Nat) (r : RegName) (i j : Nat)
    (h : ∀ r', (regPlace r').block = .MBX → regAddr r i j ≠ regAddr r' n 0) : reg (mbxPost s n w k m) r i j = reg s r i j := by
  unfold mbxPost
  simp only
  rw [reg_fput_of_ne, reg_fput_of_ne, reg_fput_of_ne, reg_fput_of_ne, reg_fput_of_ne, reg_setReg_of_ne, reg_setReg_of_ne]
  all_goals exact h _ rfl

/-- What a notice of the sequencer leaves: all but registers of the mailbox block and this cluster's notices and their count. -/
theorem seqNotice_only (s : State) (c kind : Nat) : ButRegsClusters s (seqNotice s c kind) := by
  unfold seqNotice; simp only; split
  · exact ((ButRegsClusters.refl s).modClu _ _).modClu _ _
  · exact ((ButRegsClusters.refl s).modClu _ _).trans (mbxPost_only _ _ _ _ _).more

theorem clu_seqNotice_of_ne (s : State) {c d : Nat} (kind : Nat) (h : d ≠ c) : clu (seqNotice s c kind) d = clu s d := by
  unfold seqNotice; simp only; split
  · rw [clu_modClu_of_ne _ _ h, clu_modClu_of_ne _ _ h]
  · rw [(mbxPost_only _ _ _ _ _).clu]; exact clu_modClu_of_ne _ _ h

theorem clu_seqNotice_self (s : State) (c kind : Nat) :
    clu (seqNotice s c kind) c =
      { clu s c with notices := (clu (seqNotice s c kind) c).notices, noticeSeq := (clu (seqNotice s c kind) c).noticeSeq } := by
  unfold seqNotice; simp only; split
  · simp
  · rw [(mbxPost_only _ _ _ _ _).clu]; simp

theorem reg_seqNotice_of_ne (s : State) (c kind : Nat) (r : RegName) (i j : Nat)
    (h : ∀ r', (regPlace r').block = .MBX → regAddr r i j ≠ regAddr r' c 0) : reg (seqNotice s c kind) r i j = reg s r i j := by
  unfold seqNotice; simp only; split
  · rfl
  · rw [reg_mbxPost_of_ne _ _ _ _ _ _ _ _ h]; rfl

/-! ### Stopping the streams, discarding the operations -/

theorem stopStreams_only (s : State) (c : Nat) : ButRegsClusters s (stopStreams s c) := by
  unfold stopStreams
  exact ((((ButRegsClusters.refl s).modStr _ _ _).modStr _ _ _).fput _ _ _ _).fput _ _ _ _

/-- A stopped stream issues nothing and waits for nothing (R185 step 1). -/
theorem stream_stopStreams (s : State) (c : Nat) (st : Stream) :
    stream (stopStreams s c) c st = { stream s c st with running := false, lastCycle := false, block := none, stalled := none, load := none } := by
  unfold stopStreams stream
  simp only [clu_fput, clu_modStr_self]
  cases st <;> rfl

theorem clu_stopStreams_of_ne (s : State) {c d : Nat} (h : d ≠ c) : clu (stopStreams s c) d = clu s d := by
  unfold stopStreams
  simp only [clu_fput]
  rw [clu_modStr_of_ne _ _ _ h, clu_modStr_of_ne _ _ _ h]

theorem clu_stopStreams_self (s : State) (c : Nat) :
    clu (stopStreams s c) c = { clu s c with F := (clu (stopStreams s c) c).F, B := (clu (stopStreams s c) c).B } := by
  unfold stopStreams
  simp only [clu_fput, clu_modStr_self, setStr, str]

/-- t differs from s in registers, clusters, the wake queue and the WRITE packets in flight only. -/
def ButWork (s t : State) : Prop := t = { s with regs := t.regs, clusters := t.clusters, power := t.power, sent := t.sent }

theorem ButWork.refl (s : State) : ButWork s s := by rfl
theorem ButWork.trans {s t u : State} (h : ButWork s t) (k : ButWork t u) : ButWork s u := by unfold ButWork at *; rw [k, h]
theorem ButWork.of_regs {s t : State} (h : ButRegsClusters s t) : ButWork s t := by unfold ButWork; rw [h]
theorem ButWork.fput {s t : State} (h : ButWork s t) (f : Fld) (v i j : Nat) : ButWork s (fput t f v i j) := h.trans rfl
theorem ButWork.setReg {s t : State} (h : ButWork s t) (r : RegName) (v : Word) (i j : Nat) : ButWork s (setReg t r v i j) := h.trans rfl
theorem ButWork.modClu {s t : State} (h : ButWork s t) (c : Nat) (f : Cluster → Cluster) : ButWork s (modClu t c f) := h.trans rfl
theorem ButWork.mem {s t : State} (h : ButWork s t) : t.mem = s.mem := by rw [h]
theorem ButWork.syn {s t : State} (h : ButWork s t) : t.syn = s.syn := by rw [h]
theorem ButWork.parts {s t : State} (h : ButWork s t) : t.parts = s.parts := by rw [h]

/-- Addresses that discarding the operations of cluster c writes: its SEQ_ block but the trap registers, and PWR_TOK_STAT. -/
def workAddr (c : Nat) (a : Nat) : Prop :=
  (∃ k, k < 256 ∧ a = regAddr .SEQ_TOK k c) ∨ a = regAddr .SEQ_STAT 0 c ∨ (∃ e, e < 4 ∧ a = regAddr .SEQ_MX_STAT e c) ∨
  (∃ e, e < 4 ∧ a = regAddr .SEQ_DMA_STAT e c) ∨ a = regAddr .SEQ_ROW_STAT 0 c ∨ a = regAddr .PWR_TOK_STAT 0 0

theorem discardUnit_only (c : Nat) (s : State) (e : Nat) : ButRegs s (discardUnit c s e) := by
  unfold discardUnit; simp only; split
  · exact (((((ButRegs.refl s).fput _ _ _ _).fput _ _ _ _).fput _ _ _ _).fput _ _ _ _).fput _ _ _ _
  · exact ((((ButRegs.refl s).fput _ _ _ _).fput _ _ _ _).fput _ _ _ _).fput _ _ _ _

theorem reg_discardUnit_of_ne (c : Nat) (s : State) (e : Nat) (r : RegName) (i j : Nat) (h1 : regAddr r i j ≠ regAddr .SEQ_MX_STAT e c)
    (h2 : regAddr r i j ≠ regAddr .SEQ_DMA_STAT e c) : reg (discardUnit c s e) r i j = reg s r i j := by
  unfold discardUnit; simp only; split <;> simp only [reg_fput_of_ne, ne_eq, h1, h2, not_false_eq_true]

theorem clearReservations_only (s : State) (c : Nat) : ButRegs s (clearReservations s c) :=
  foldRange_keeps (ButRegs s) _ _ _ (ButRegs.refl s) (fun _ _ _ h => h.fput _ _ _ _)

theorem reg_clearReservations_of_ne (s : State) (c : Nat) (r : RegName) (i j : Nat)
    (h : ∀ k, k < 256 → regAddr r i j ≠ regAddr .SEQ_TOK k c) : reg (clearReservations s c) r i j = reg s r i j :=
  foldRange_eq (fun x => reg x r i j) 256 _ s (fun _ k hk => reg_fput_of_ne _ _ _ _ _ _ _ _ (h k hk))

/-- No token stays reserved (R175). -/
theorem tokPending_clearReservations (s : State) (c k : Nat) (hk : k < 256) : tokPending (clearReservations s c) c k = 0 := by
  refine foldRange_each (fun k x => tokPending x c k = 0) 256 (fun s k => setTokPending s c k 0) s ?_ ?_ k hk
  · intro x k _
    exact fget_fput_self x F.SEQ_TOK.PENDING 0 k c (by decide) (by decide)
  · intro x k j _ h
    by_cases hj : j = k
    · subst hj; exact fget_fput_self x F.SEQ_TOK.PENDING 0 j c (by decide) (by decide)
    · refine (fget_fput_of_ne x F.SEQ_TOK.PENDING F.SEQ_TOK.PENDING 0 k c j c ?_).trans h
      simp only [regAddr, regPlace, blockBase, blockStride]; omega

theorem withdrawStarts_only (s : State) (c : Nat) : ButWork s (withdrawStarts s c) := by
  unfold withdrawStarts; simp only
  refine ButWork.trans ?_ ((ButWork.refl _).fput _ _ _ _)
  rfl
theorem dropSent_only (s : State) (c : Nat) : ButWork s (dropSent s c) := by rfl
@[simp] theorem reg_dropSent (s : State) (c : Nat) (r : RegName) (i j : Nat) : reg (dropSent s c) r i j = reg s r i j := by rfl
@[simp] theorem clu_dropSent (s : State) (c d : Nat) : clu (dropSent s c) d = clu s d := by rfl
theorem clu_eq_of_clusters {s t : State} (h : t.clusters = s.clusters) (c : Nat) : clu t c = clu s c := by unfold clu; rw [h]
@[simp] theorem clu_withdrawStarts (s : State) (c d : Nat) : clu (withdrawStarts s c) d = clu s d := by
  apply clu_eq_of_clusters; unfold withdrawStarts; exact fput_clusters _ _ _ _ _
theorem reg_withdrawStarts_of_ne (s : State) (c : Nat) (r : RegName) (i j : Nat) (h : regAddr r i j ≠ regAddr .PWR_TOK_STAT 0 0) :
    reg (withdrawStarts s c) r i j = reg s r i j := by
  unfold withdrawStarts; simp only
  rw [reg_fput_of_ne _ _ _ _ _ _ _ _ h]; rfl

/-- The registers of discardOps before the wake queue and the packets. -/
theorem discardRegs_only (s : State) (c : Nat) :
    ButRegs s (fput (foldRange 4 (discardUnit c) (fput (fput (clearReservations s c) F.SEQ_STAT.INFL_F 0 0 c) F.SEQ_STAT.INFL_B 0 0 c))
      F.SEQ_ROW_STAT.BUSY 0 0 c) := by
  have h2 := ((clearReservations_only s c).fput F.SEQ_STAT.INFL_F 0 0 c).fput F.SEQ_STAT.INFL_B 0 0 c
  exact (foldRange_keeps (ButRegs s) 4 (discardUnit c) _ h2 (fun x k _ h => h.trans (discardUnit_only c x k))).fput _ _ _ _

theorem discardOps_only (s : State) (c : Nat) : ButWork s (discardOps s c) := by
  unfold discardOps
  exact (((ButWork.of_regs (discardRegs_only s c).more).trans (withdrawStarts_only _ c)).trans (dropSent_only _ c)).modClu _ _

/-- Registers that are none of the work registers keep their values. -/
theorem reg_discardOps_of_ne (s : State) (c : Nat) (r : RegName) (i j : Nat) (h : ¬ workAddr c (regAddr r i j)) :
    reg (discardOps s c) r i j = reg s r i j := by
  unfold workAddr at h
  push Not at h
  obtain ⟨h1, h2, h3, h4, h5, h6⟩ := h
  unfold discardOps
  simp only [reg_modClu, reg_dropSent]
  rw [reg_withdrawStarts_of_ne _ _ _ _ _ h6, reg_fput_of_ne _ _ _ _ _ _ _ _ h5]
  rw [foldRange_eq (fun x => reg x r i j) 4 (discardUnit c) _
    (fun x k hk => reg_discardUnit_of_ne c x k r i j (h3 k hk) (h4 k hk))]
  rw [reg_fput_of_ne _ _ _ _ _ _ _ _ h2, reg_fput_of_ne _ _ _ _ _ _ _ _ h2]
  exact reg_clearReservations_of_ne s c r i j h1

theorem clu_discardOps_of_ne (s : State) {c d : Nat} (h : d ≠ c) : clu (discardOps s c) d = clu s d := by
  unfold discardOps
  simp only
  rw [clu_modClu_of_ne _ _ h]
  simp only [clu_dropSent, clu_withdrawStarts]
  exact (discardRegs_only s c).clu d

/-- The operations in flight and the broadcast tiles of the cluster are gone; the rest of it stays (R175, R185). -/
theorem clu_discardOps_self (s : State) (c : Nat) : clu (discardOps s c) c = { clu s c with inflight := [], tiles := [], ramp := [] } := by
  unfold discardOps
  simp only [clu_modClu_self, clu_dropSent, clu_withdrawStarts, (discardRegs_only s c).clu c]

/-- No token of the cluster stays reserved (R175). -/
theorem tokPending_discardOps (s : State) (c k : Nat) (hk : k < 256) : tokPending (discardOps s c) c k = 0 := by
  have e : reg (discardOps s c) .SEQ_TOK k c = reg (clearReservations s c) .SEQ_TOK k c := by
    unfold discardOps
    simp only [reg_modClu, reg_dropSent]
    rw [reg_withdrawStarts_of_ne, reg_fput_of_ne,
      foldRange_eq (fun x => reg x .SEQ_TOK k c) 4 (discardUnit c) _ (fun x e he => reg_discardUnit_of_ne c x e _ _ _ ?_ ?_),
      reg_fput_of_ne, reg_fput_of_ne]
    all_goals simp only [regAddr, regPlace, blockBase, blockStride]; omega
  have := tokPending_clearReservations s c k hk
  unfold tokPending fget at *
  rw [e]; exact this

/-! ### The trap -/

/-- The registers of a trap record (R184, R185 step 2). -/
theorem recordTrap_only (s : State) (c : Nat) (st : Stream) (pc cause info : Nat) (d : Bool) : ButRegs s (recordTrap s c st pc cause info d) := by
  unfold recordTrap
  exact ((((((ButRegs.refl s).fput _ _ _ _).fput _ _ _ _).fput _ _ _ _).fput _ _ _ _).fput _ _ _ _).setReg _ _ _ _

theorem reg_recordTrap_of_ne (s : State) (c : Nat) (st : Stream) (pc cause info : Nat) (d : Bool) (r : RegName) (i j : Nat)
    (h1 : regAddr r i j ≠ regAddr .SEQ_TRAP_CAUSE 0 c) (h2 : regAddr r i j ≠ regAddr .SEQ_TRAP_PC 0 c)
    (h3 : regAddr r i j ≠ regAddr .SEQ_TRAP_INFO 0 c) : reg (recordTrap s c st pc cause info d) r i j = reg s r i j := by
  unfold recordTrap
  rw [reg_setReg_of_ne _ _ _ _ _ _ _ _ h3, reg_fput_of_ne _ _ _ _ _ _ _ _ h2, reg_fput_of_ne _ _ _ _ _ _ _ _ h1,
    reg_fput_of_ne _ _ _ _ _ _ _ _ h1, reg_fput_of_ne _ _ _ _ _ _ _ _ h1, reg_fput_of_ne _ _ _ _ _ _ _ _ h1]

theorem trapStreams_only (s : State) (c : Nat) (st : Stream) : ButRegsClusters s (trapStreams s c st) := by
  unfold trapStreams; exact (stopStreams_only s c).modStr _ _ _

theorem clu_trapStreams_of_ne (s : State) {c x : Nat} (st : Stream) (h : x ≠ c) : clu (trapStreams s c st) x = clu s x := by
  unfold trapStreams; simp only; rw [clu_modStr_of_ne _ _ _ h, clu_stopStreams_of_ne _ h]

theorem reg_trapStreams_of_ne (s : State) (c : Nat) (st : Stream) (r : RegName) (i j : Nat) (h : regAddr r i j ≠ regAddr .SEQ_STAT 0 c) :
    reg (trapStreams s c st) r i j = reg s r i j := by
  unfold trapStreams stopStreams; simp only [reg_modStr]
  rw [reg_fput_of_ne _ _ _ _ _ _ _ _ h, reg_fput_of_ne _ _ _ _ _ _ _ _ h]; simp only [reg_modStr]

/-- The trapping stream stops; the other one keeps what it waited for and the rest of its cycle (R185, R193). -/
theorem stream_trapStreams (s : State) (c : Nat) (st : Stream) :
    stream (trapStreams s c st) c st =
      { stream s c st with running := false, lastCycle := false, block := none, stalled := none, load := none } ∧
    stream (trapStreams s c st) c (otherStream st) =
      (let x := stream s c (otherStream st)
       { x with running := false, stalled := none, load := none, lastCycle := (x.running && !x.ended) }) := by
  unfold trapStreams
  constructor
  · cases st <;> (simp only [otherStream]; rw [← stream_stopStreams]; unfold stream; rw [clu_modStr_self]; rfl)
  · simp only [stream_modStr_self, stream_stopStreams]

/-- The first trap of a run. -/
theorem takeTrap_first (s : State) (c : Nat) (st : Stream) (pc cause info : Nat) (d : Bool) (h : fbit s F.SEQ_TRAP_CAUSE.VALID 0 c = false) :
    takeTrap s c st pc cause info d =
      seqNotice (fput (discardOps (trapStreams (recordTrap s c st pc cause info d) c st) c) F.SEQ_STAT.STATE 2 0 c) c 2 := by
  unfold takeTrap; rw [if_neg (by simp [h])]

/-- A later trap changes registers only. -/
theorem laterTrap_only (s : State) (c : Nat) (st : Stream) (pc cause info : Nat) (d : Bool) : ButRegs s (laterTrap s c st pc cause info d) := by
  have h : ButRegs s (fsat s F.SEQ_TRAP_CAUSE.MORE 1 0 c) := by
    unfold fsat; rw [if_pos (by decide)]; exact (ButRegs.refl s).fput _ _ _ _
  unfold laterTrap; simp only; split
  · exact h.trans (recordTrap_only _ _ _ _ _ _ _)
  · exact h

/-- A trap changes registers, the cluster, the wake queue and the packets in flight, nothing else. -/
theorem takeTrap_only (s : State) (c : Nat) (st : Stream) (pc cause info : Nat) (d : Bool) : ButWork s (takeTrap s c st pc cause info d) := by
  unfold takeTrap
  split
  · exact ButWork.of_regs (laterTrap_only _ _ _ _ _ _ _).more
  · simp only
    have h1 := ButWork.of_regs ((recordTrap_only s c st pc cause info d).more.trans (trapStreams_only _ c st))
    exact ((h1.trans (discardOps_only _ c)).fput _ _ _ _).trans (ButWork.of_regs (seqNotice_only _ c 2))

theorem clu_takeTrap_of_ne (s : State) {c x : Nat} (st : Stream) (pc cause info : Nat) (d : Bool) (h : x ≠ c) :
    clu (takeTrap s c st pc cause info d) x = clu s x := by
  unfold takeTrap
  split
  · exact (laterTrap_only _ _ _ _ _ _ _).clu x
  · simp only
    rw [clu_seqNotice_of_ne _ _ h, clu_fput, clu_discardOps_of_ne _ h, clu_trapStreams_of_ne _ _ h]
    exact (recordTrap_only _ _ _ _ _ _ _).clu x

/-- An address of the SEQ_ blocks or above is none of the mailbox block. -/
theorem ne_mailbox {a : Nat} (n : Nat) (hn : n < 64) (h : 0x7F0001000000 ≤ a) :
    ∀ r', (regPlace r').block = .MBX → a ≠ regAddr r' n 0 := by
  intro r' hr
  cases r' <;> first | (simp [regPlace] at hr; done) | (simp only [regAddr, regPlace, blockBase, blockStride]; omega)

/-- The three trap registers hold the record after the trap. -/
theorem reg_takeTrap (s : State) (c : Nat) (hc : c < 32) (st : Stream) (pc cause info : Nat) (d : Bool)
    (h : fbit s F.SEQ_TRAP_CAUSE.VALID 0 c = false) (r : RegName) (hr : r = .SEQ_TRAP_CAUSE ∨ r = .SEQ_TRAP_PC ∨ r = .SEQ_TRAP_INFO) :
    reg (takeTrap s c st pc cause info d) r 0 c = reg (recordTrap s c st pc cause info d) r 0 c := by
  rw [takeTrap_first _ _ _ _ _ _ _ h]
  generalize recordTrap s c st pc cause info d = u
  have ha : regAddr r 0 c ≠ regAddr .SEQ_STAT 0 c := by
    rcases hr with rfl | rfl | rfl <;> simp only [regAddr, regPlace, blockBase, blockStride] <;> omega
  rw [reg_seqNotice_of_ne, reg_fput_of_ne (h := ha), reg_discardOps_of_ne]
  · exact reg_trapStreams_of_ne _ _ _ _ _ _ ha
  · unfold workAddr; push Not
    rcases hr with rfl | rfl | rfl <;> refine ⟨?_, ?_, ?_, ?_, ?_, ?_⟩ <;> intros <;>
      simp only [regAddr, regPlace, blockBase, blockStride] <;> omega
  · apply ne_mailbox _ (by omega)
    rcases hr with rfl | rfl | rfl <;> simp only [regAddr, regPlace, blockBase, blockStride] <;> omega

/-- The cluster after its first trap: nothing in flight, the streams as trapStreams leaves them. -/
theorem clu_takeTrap_self (s : State) (c : Nat) (st : Stream) (pc cause info : Nat) (d : Bool)
    (h : fbit s F.SEQ_TRAP_CAUSE.VALID 0 c = false) :
    (clu (takeTrap s c st pc cause info d) c).inflight = [] ∧ (clu (takeTrap s c st pc cause info d) c).tiles = [] ∧
    ∀ st', stream (takeTrap s c st pc cause info d) c st' = stream (trapStreams s c st) c st' := by
  rw [takeTrap_first _ _ _ _ _ _ _ h]
  have hu : ∀ st', stream (trapStreams (recordTrap s c st pc cause info d) c st) c st' = stream (trapStreams s c st) c st' := fun st' => by
    have := (recordTrap_only s c st pc cause info d).clu c
    unfold trapStreams stopStreams stream
    simp only [clu_modStr_self, clu_fput, this]
  generalize recordTrap s c st pc cause info d = u at hu ⊢
  have e := clu_seqNotice_self (fput (discardOps (trapStreams u c st) c) F.SEQ_STAT.STATE 2 0 c) c 2
  rw [clu_fput, clu_discardOps_self] at e
  refine ⟨by rw [e], by rw [e], fun st' => ?_⟩
  have f : ∀ (k : Cluster) a b, str { k with inflight := [], tiles := [], ramp := [], notices := a, noticeSeq := b } st' = str k st' := by
    intro k a b; cases st' <;> rfl
  rw [← hu st']
  unfold stream
  rw [e]; exact f _ _ _

/-- No token of the cluster is reserved after its first trap. -/
theorem tokPending_takeTrap (s : State) (c : Nat) (hc : c < 32) (st : Stream) (pc cause info : Nat) (d : Bool)
    (h : fbit s F.SEQ_TRAP_CAUSE.VALID 0 c = false) (k : Nat) (hk : k < 256) : tokPending (takeTrap s c st pc cause info d) c k = 0 := by
  rw [takeTrap_first _ _ _ _ _ _ _ h]
  generalize trapStreams _ _ _ = u
  refine (fget_of_reg (s := discardOps u c) F.SEQ_TOK.PENDING k c ?_).trans (tokPending_discardOps u c k hk)
  rw [reg_seqNotice_of_ne, reg_fput_of_ne]
  · simp only [regAddr, regPlace, blockBase, blockStride]; omega
  · exact ne_mailbox _ (by omega) (by simp only [regAddr, regPlace, blockBase, blockStride]; omega)

/-- SEQ_STAT shows TRAPPED after the first trap (R185). -/
theorem state_takeTrap (s : State) (c : Nat) (hc : c < 32) (st : Stream) (pc cause info : Nat) (d : Bool)
    (h : fbit s F.SEQ_TRAP_CAUSE.VALID 0 c = false) : fget (takeTrap s c st pc cause info d) F.SEQ_STAT.STATE 0 c = 2 := by
  rw [takeTrap_first _ _ _ _ _ _ _ h]
  generalize discardOps _ _ = u
  refine (fget_of_reg (s := fput u F.SEQ_STAT.STATE 2 0 c) F.SEQ_STAT.STATE 0 c ?_).trans
    (fget_fput_self u F.SEQ_STAT.STATE 2 0 c (by decide) (by decide))
  rw [reg_seqNotice_of_ne]
  exact ne_mailbox _ (by omega) (by simp only [regAddr, regPlace, blockBase, blockStride]; omega)

end Sys2Proof.Machine
end

