-- ==== Sys2Proof/Tests/Slice0.lean ====
section
/-! SUPPORT. Tests: one refused term for each check of WellFormed, and for every statement with hypotheses a concrete state and operands that
meet them, clause by clause. -/

namespace Sys2Proof.Tests

open Sys2Proof Sys2Proof.Machine Sys2Proof.Statements

/-! ### Small states -/

/-- Fields put into a state: field, value, index, instance. -/
def puts (l : List (Fld × Nat × Nat × Nat)) (s : State) : State := l.foldl (fun s x => fput s x.1 x.2.1 x.2.2.1 x.2.2.2) s

/-- An instruction of stream F of cluster 0 with bits 51:0. -/
def iss (f : Nat) : Issue := ⟨0, .F, false, 0, BitVec.ofNat 52 f⟩

/-- Operand fields RD, RA, RB and the bits below. -/
def ops (rd ra rb low : Nat) : Issue := iss (rd * 2 ^ 46 + ra * 2 ^ 40 + rb * 2 ^ 34 + low)

/-- Code of 4 KiB at the start of the near store of cluster 0; barrier 1 with cluster 0 and 1. -/
def image : Image := ⟨[], 1, false, 1, 2, 0x410000000000, 0x1000, 0x410000000000, 0x410000002000, [0, 1]⟩

/-- A stream that runs, with a1 = an address of near-store data. -/
def strRun : StreamState := { StreamState.reset with running := true, areg := [(1, 0x410000010000), (2, 0x410000000100)] }

/-- Clusters 0 and 1 run the image in partition 0, which holds them; firmware runs; start-up is over. -/
def running : State :=
  puts [(F.HUB_PART.CLUSTERS, 3, 0, 0), (F.SEQ_STAT.STATE, 1, 0, 0), (F.SEQ_STAT.STATE, 1, 0, 1), (F.SEQ_PC_F.PC, 0x410000000000, 0, 0),
    (F.HUB_BOOT_STAT.PHASE, 10, 0, 0), (F.HUB_BOOT_STAT.READY, 1, 0, 0)]
    { State.reset with
      clusters := [(0, { Cluster.reset with F := strRun }), (1, { Cluster.reset with F := strRun })],
      parts := [(0, { Part.reset with image := some image, running := true })],
      boot := { Boot.reset with fwRuns := true },
      mem := [(0x410000002004, 3)] }

/-- Stream F of cluster 0 changed. -/
def withF (f : StreamState → StreamState) (s : State) : State := modStr s 0 .F f

theorem clean_of_nil (s : State) (lo hi : Nat) (h : s.syn = []) : Clean s lo hi := by intro w _ _; rw [h]; rfl

/-- A range of SRAM without errors is read as it stands. -/
theorem reads_sram (src : Nat) (s : State) (lo hi : Nat) (n : s.syn = []) (h : 0x400000000000 ≤ lo ∧ lo < 0x1000000000000) : Reads src s s lo hi :=
  checkRange_clean src s none lo hi h.1 h.2 (by intro w _ _; rw [n]; rfl)

/-- A range of LPDDR5X without errors, and with no edge cache in use, is read as it stands. -/
theorem reads_lpddr (src : Nat) (s : State) (lo hi : Nat) (n : s.syn = [] ∧ s.lineSyn = [] ∧ s.tags = [] ∧ s.lines = [])
    (h : lo < 0x400000000000 ∧ ∀ p, p < 8 → fbit s F.HUB_WIN.CACHE p = false) : Reads src s s lo hi :=
  checkRange_clean_lpddr src s none lo hi h.1 n.1 n.2.1 n.2.2.1 n.2.2.2 h.2

theorem readsAll_of (src : Nat) (s : State) (rs : List (Nat × Nat)) (h : (s.syn = [] ∧ s.lineSyn = [] ∧ s.tags = [] ∧ s.lines = []) ∧
    ∀ p, p < 8 → fbit s F.HUB_WIN.CACHE p = false) : ReadsAll src s s rs := checkRanges_clean src s rs h.1.1 h.1.2.1 h.1.2.2.1 h.1.2.2.2 h.2

theorem executes_of (s : State) (i : Issue) (h : canIssue s i = true ∧ (strOf s i).running = true ∧ inCodeRegion s i.cl (fetchAt s i) = true ∧
    (0x400000000000 ≤ pcNow s i ∧ pcNow s i < 0x1000000000000) ∧ predicateOn s i = true) (n : s.syn = []) : Executes s s i :=
  ⟨⟨h.1, h.2.1, h.2.2.1, reads_sram _ _ _ _ n h.2.2.2.1⟩, h.2.2.2.2⟩

/-! ### WellFormed -/

theorem test_wf_nop : (Instr.nop (iss 0) 0x10).wf = false := by decide
theorem test_wf_fences : (Instr.fenceS (iss (2 ^ 38))).wf = false ∧ (Instr.fenceC (iss 0)).wf = false ∧ (Instr.fenceG (iss 0)).wf = false := by decide
theorem test_wf_width : (Instr.registerWrite .smbus 0 5 0).wf = false ∧ (Instr.smbWriteRegister 2 0 true).wf = false := by decide
theorem test_wf_flit : (Instr.flitReceive 0 ⟨0, List.replicate 28 (codeWord 0), 0, 0, 0⟩).wf = false := by decide
theorem test_wf_sample : (Instr.energySample ⟨[], [], ⟨0, 0, [], 0⟩⟩).wf = false := by decide
theorem test_wf_frames : (Instr.helloReceive ⟨[], [], 0⟩).wf = false ∧ (Instr.cmdFrameReceive ⟨zeros 15, [], 0⟩).wf = false ∧
    (Instr.ctrlFrameReceive ⟨zeros 17, [], 0⟩).wf = false := by decide
theorem test_wf_dram : (Instr.dram [256]).wf = false := by decide

/-! ### Streams -/

/-- s31, s31, s31, low fields zero. -/
theorem wit_ScalarInstructionsCompute_registers : Executes running running (ops 31 31 31 0) ∧ fRD (ops 31 31 31 0) ≤ 31 ∧ fRA (ops 31 31 31 0) ≤ 31 ∧
    fRB (ops 31 31 31 0) ≤ 31 ∧ fieldOf (ops 31 31 31 0) 33 0 = 0 := ⟨executes_of _ _ (by decide) rfl, by decide⟩

/-- A shift by 63, and li of all ones. -/
theorem wit_ScalarInstructionsCompute_immediates : Executes running running (ops 31 31 0 63) ∧ fRD (ops 31 31 0 63) ≤ 31 ∧ fRA (ops 31 31 0 63) ≤ 31 ∧
    fieldOf (ops 31 31 0 63) 39 32 = 0 ∧ (fIMM (ops 31 31 0 63)).toNat < 64 ∧ fieldOf (ops 31 0 0 0xFFFFFFFF) 45 32 = 0 := ⟨executes_of _ _ (by decide) rfl, by decide⟩

/-- cmp with code 5 of s31, cmpi with code 5, pop with code 3 of p7. -/
theorem wit_ScalarInstructionsCompute_predicates : Executes running running (ops 7 31 31 (5 * 2 ^ 30)) ∧ fRD (ops 7 31 31 (5 * 2 ^ 30)) ≤ 7 ∧
    fRB (ops 7 31 31 (5 * 2 ^ 30)) ≤ 31 ∧ fCCR (ops 7 31 31 (5 * 2 ^ 30)) ≤ 5 ∧ fieldOf (ops 7 31 31 (5 * 2 ^ 30)) 29 0 = 0 ∧
    (fCCI (ops 7 31 20 0) ≤ 5 ∧ fRA (ops 7 31 20 0) ≤ 31 ∧ fieldOf (ops 7 31 20 0) 35 32 = 0) ∧
    (fRA (ops 7 7 7 (3 * 2 ^ 30)) ≤ 7 ∧ fRB (ops 7 7 7 (3 * 2 ^ 30)) ≤ 7 ∧ fCCR (ops 7 7 7 (3 * 2 ^ 30)) ≤ 3) := ⟨executes_of _ _ (by decide) rfl, by decide⟩

/-- a15 from s31, s31 from a15, a15 + s31, a15 + an immediate. -/
theorem wit_ScalarInstructionsCompute_addresses : Executes running running (ops 15 31 0 0) ∧ fRD (ops 15 31 0 0) ≤ 15 ∧ fRA (ops 15 31 0 0) ≤ 31 ∧ fieldOf (ops 15 31 0 0) 39 0 = 0 ∧
    (fRD (ops 31 15 0 0) ≤ 31 ∧ fRA (ops 31 15 0 0) ≤ 15) ∧ (fRA (ops 15 15 31 0) ≤ 15 ∧ fRB (ops 15 15 31 0) ≤ 31 ∧ fieldOf (ops 15 15 31 0) 33 0 = 0) ∧
    (fieldOf (ops 15 15 0 0xFFFFFFFF) 39 32 = 0) := ⟨executes_of _ _ (by decide) rfl, by decide⟩

/-- A shift by 64, cmp and cmpi with code 6, pop with code 4. -/
theorem wit_ScalarInstructionsCompute_reserved : Executes running running (ops 0 0 0 64) ∧ (fIMM (ops 0 0 0 64)).toNat = 64 ∧ fCCR (ops 0 0 0 (6 * 2 ^ 30)) = 6 ∧
    fCCI (ops 0 0 24 0) = 6 ∧ fCCR (ops 0 0 0 (4 * 2 ^ 30)) = 4 ∧ fget running F.SEQ_TRAP_CAUSE.VALID 0 0 = 0 := ⟨executes_of _ _ (by decide) rfl, by decide⟩

/-- p0 negated is off. -/
def notP0 : Issue := { iss 0 with pn := true }
theorem wit_PredicateOffOnlyAdvances : issueOf (.add notP0) = some notP0 ∧ Fetches running running notP0 ∧
    predicateOn running notP0 = false := ⟨rfl, ⟨by decide, by decide, by decide, reads_sram _ _ _ _ rfl (by decide)⟩, by decide⟩

/-- trap with all ones; opcode 0x04; the program counter one word past the code. -/
theorem wit_PreciseTrapsAreRecorded : Executes running running (iss (2 ^ 48 - 1)) ∧ fieldOf (iss (2 ^ 48 - 1)) 51 48 = 0 ∧ opcodeListed 0x04 = false ∧
    fget running F.SEQ_TRAP_CAUSE.VALID 0 0 = 0 ∧ canIssue (setPc running 0 .F 0x410000001000) (iss 0) = true ∧
    (strOf (setPc running 0 .F 0x410000001000) (iss 0)).running = true ∧
    inCodeRegion (setPc running 0 .F 0x410000001000) 0 (fetchAt (setPc running 0 .F 0x410000001000) (iss 0)) = false :=
  ⟨executes_of _ _ (by decide) rfl, by decide⟩

/-- The first word of the code is poisoned. -/
def badCode : State := { running with syn := [(0x410000000000, 0x7F)] }
theorem wit_PreciseTrapsAreRecorded_fetch : canIssue badCode (iss 0) = true ∧ (strOf badCode (iss 0)).running = true ∧
    fget badCode F.SEQ_TRAP_CAUSE.VALID 0 0 = 0 ∧ inCodeRegion badCode 0 (fetchAt badCode (iss 0)) = true ∧
    ∃ u, checkRange (srcCluster 0 0) (badCode, none) (pcNow badCode (iss 0)) (pcNow badCode (iss 0) + 8) = (u, some (0x410000000000, 2)) :=
  ⟨by decide, by decide, by decide, by decide,
    (checkRange (srcCluster 0 0) (badCode, none) (pcNow badCode (iss 0)) (pcNow badCode (iss 0) + 8)).1, Prod.ext rfl (by decide +kernel)⟩

/-- A cluster that has trapped; stream F in the rest of the cycle in which B trapped. -/
def lastOne : State := withF (fun x => { x with running := false, lastCycle := true }) (fput running F.SEQ_TRAP_CAUSE.VALID 1 0 0)
theorem wit_LaterTrapsOnlyCount : fget (fput running F.SEQ_TRAP_CAUSE.VALID 1 0 0) F.SEQ_TRAP_CAUSE.VALID 0 0 = 1 ∧
    fget lastOne F.SEQ_TRAP_CAUSE.VALID 0 0 = 1 ∧ (stream lastOne 0 .F).lastCycle = true ∧ canIssue lastOne (iss 0) = true ∧
    (strOf lastOne (iss 0)).running = false := by decide

/-- Loads at a1 of near-store data, and of SEQ_STAT; an address that is not a multiple of 8, and one of 2^48; a load whose data returns. -/
def loading : State := withF (fun x => { x with load := some ⟨31, 0x410000010000, 8, false⟩ }) running
theorem wit_LoadsDeliverMemory : Executes running running (ops 31 1 0 0) ∧ fRA (ops 31 1 0 0) ≤ 15 ∧ fieldOf (ops 31 1 0 0) 39 32 = 0 ∧
    ((areg (strOf running (ops 31 1 0 0)) 1).toNat = 0x410000010000 ∧ memAccessOk running 0 0x410000010000 8 false = true ∧
      memAccessOk running 0 0x410000010000 64 false = true ∧ memAccessOk running 0 0x41000001000C 4 false = true ∧
      ownReg 0 0x410000010000 8 = none ∧ hiddenFrom running 0 = [] ∧
      (ownReg 0 (regAddr .SEQ_PC_F 0 0) 8).isSome = true ∧ regAddr .SEQ_PC_F 0 0 % 8 = 0 ∧ (ownReg 0 (regAddr .SEQ_STAT 0 0) 4).isSome = true ∧
      regAddr .SEQ_STAT 0 0 % 4 = 0 ∧ fget running F.SEQ_TRAP_CAUSE.VALID 0 0 = 0 ∧
      (areg (strOf running (ops 31 1 0 2)) 1 + BitVec.ofInt 64 (fOFF (ops 31 1 0 2)).toInt).toNat % 4 = 2 ∧
      2 ^ 48 ≤ (areg (strOf running (ops 31 0 0 (2 ^ 32 - 1))) 0 + BitVec.ofInt 64 (fOFF (ops 31 0 0 (2 ^ 32 - 1))).toInt).toNat) ∧
    (isFrozen loading = false ∧ isStopped loading = false ∧ (stream loading 0 .F).load = some ⟨31, 0x410000010000, 8, false⟩ ∧
      hiddenFrom loading 0 = []) ∧
    Reads (srcCluster 0 0) loading loading 0x410000010000 0x410000010008 ∧ Clean loading 0x410000010000 0x410000010008 :=
  ⟨executes_of _ _ (by decide) rfl, by decide, by decide, by decide, by decide, reads_sram _ _ _ _ rfl (by decide), clean_of_nil _ _ _ rfl⟩

/-- Stores to data, and st.w to the stream's LAYER register by a3, to the other stream's by a4, to the loss report of the partition by a5. -/
def storing : State := withF (fun x => { x with areg := [(1, 0x410000010000), (3, BitVec.ofNat 64 (regAddr (layerReg .F) 0 0)),
  (4, BitVec.ofNat 64 (regAddr (layerReg .B) 0 0)), (5, BitVec.ofNat 64 (regAddr .HUB_LOSS_REPORT 0 0))] }) running
theorem wit_StoresWriteTheirBytes : Executes storing storing (ops 31 1 0 0) ∧ memAccessOk storing 0 0x410000010000 8 true = true ∧
    memAccessOk storing 0 0x410000010000 64 true = true ∧ memAccessOk storing 0 0x410000010004 4 true = true ∧
    (areg (strOf storing (ops 31 3 0 0)) 3).toNat = regAddr (layerReg .F) 0 0 ∧ memAccessOk storing 0 (regAddr (layerReg .F) 0 0) 4 true = false ∧
    ((areg (strOf storing (ops 31 4 0 0)) 4).toNat = regAddr (layerReg .B) 0 0 ∧ memAccessOk storing 0 (regAddr (layerReg .B) 0 0) 4 true = false ∧
      (areg (strOf storing (ops 31 5 0 0)) 5).toNat = regAddr .HUB_LOSS_REPORT 0 0 ∧ memAccessOk storing 0 (regAddr .HUB_LOSS_REPORT 0 0) 4 true = false ∧
      partOf storing 0 = some 0) ∧
    (fget storing F.SEQ_TRAP_CAUSE.VALID 0 0 = 0 ∧ memAccessOk storing 0 0 8 true = false ∧ memAccessOk storing 0 0 64 true = false ∧
      memAccessOk storing 0 0 4 true = false ∧ storeReg storing 0 .F 0 0 = none) :=
  ⟨executes_of _ _ (by decide) rfl, by decide⟩

/-- FIELD 16 of td63 from s31. -/
theorem wit_DescriptorFieldSet : Executes running running (ops 63 31 32 0) ∧ fRA (ops 63 31 32 0) ≤ 31 ∧ fFIELD (ops 63 31 32 0) = 16 ∧
    fieldOf (ops 63 31 32 0) 34 0 = 0 := ⟨executes_of _ _ (by decide) rfl, by decide⟩

/-- A branch to the last word of the code, one to the word before it (outside), and bi to a2. -/
theorem wit_BranchesGoToTheirTarget : Executes running running (iss 511) ∧ fieldOf (iss 511) 51 32 = 0 ∧
    (BitVec.ofInt 64 ((pcNow running (iss 511) : Int) + 8 * (fOFF (iss 511)).toInt)).toNat = 0x410000000FF8 ∧
    inCodeRegion running 0 0x410000000FF8 = true ∧ inCodeRegion running 0 0x40FFFFFFFFF8 = false ∧
    (BitVec.ofInt 64 ((pcNow running (iss 0xFFFFFFFF) : Int) + 8 * (fOFF (iss 0xFFFFFFFF)).toInt)).toNat = 0x40FFFFFFFFF8 ∧
    inCodeRegion running 0 (areg (strOf running (ops 0 2 0 0)) 2).toNat = true ∧ fieldOf (ops 0 2 0 0) 51 46 = 0 ∧
    inCodeRegion running 0 (areg (strOf running (ops 0 1 0 0)) 1).toNat = false ∧ fieldOf (ops 31 0 0 0) 45 32 = 0 := ⟨executes_of _ _ (by decide) rfl, by decide⟩

theorem wit_NopAndEndAdvance : Executes running running (iss 0) ∧ fieldOf (iss 0) 51 0 = 0 := ⟨executes_of _ _ (by decide) rfl, by decide⟩

/-- An operation of stream F in flight. -/
def opF (op : TOp) (f : Nat) : OpRec := ⟨0, .F, 0x410000000000, 0, op, BitVec.ofNat 52 f, [], [], [], false, true, false, false⟩
def inFlight : State := modClu running 0 (fun k => { k with inflight := [opF .ldt 0] })
def fencing : State := withF (fun x => { x with block := some (.fence .g) }) running

/-- Nothing in flight; one operation in flight; a blocked fence.g with nothing left to wait for. -/
theorem wit_FencesWaitForOperations : Executes running running (iss (2 ^ 38)) ∧ fKIND (iss (2 ^ 38)) = 1 ∧ fieldOf (iss (2 ^ 39)) 37 0 = 0 ∧ fKIND (iss (2 ^ 39)) = 2 ∧
    (clu running 0).inflight = [] ∧ Executes inFlight inFlight (iss 0) ∧ (∃ o ∈ (clu inFlight 0).inflight, o.st = .F) ∧
    (isFrozen fencing = false ∧ isStopped fencing = false ∧ (stream fencing 0 .F).running = true ∧ (stream fencing 0 .F).block = some (.fence .g) ∧ (clu fencing 0).inflight = []) :=
  ⟨executes_of _ _ (by decide) rfl, by decide, by decide, by decide, by decide, executes_of _ _ (by decide) rfl, by decide, by decide⟩

/-- Token 255: sig to the limit, beyond it, wait with and without the count, and a blocked wait that is met. -/
def tokened : State := puts [(F.SEQ_TOK.COUNT, 0xFFFE, 255, 0)] running
def waiting : State := withF (fun x => { x with block := some (.wait 255 0xFFFE) }) tokened
theorem wit_TokensAreSignalledAndTaken : Executes tokened tokened (iss (255 * 2 ^ 40 + 1)) ∧ fieldOf (iss (255 * 2 ^ 40 + 1)) 51 48 = 0 ∧
    fieldOf (iss (255 * 2 ^ 40 + 1)) 39 16 = 0 ∧ fV (iss (255 * 2 ^ 40 + 1)) = 1 ∧ tokCount tokened 0 255 = 0xFFFE ∧ tokPending tokened 0 255 = 0 ∧
    fV (iss (255 * 2 ^ 40 + 2)) = 2 ∧ fV (iss (255 * 2 ^ 40 + 0xFFFF)) = 0xFFFF ∧ (clu tokened 0).bells = [] ∧
    ((stream waiting 0 .F).running = true ∧ (stream waiting 0 .F).block = some (.wait 255 0xFFFE) ∧ isFrozen waiting = false ∧ isStopped waiting = false) :=
  ⟨executes_of _ _ (by decide) rfl, by decide⟩

/-- Barrier 1 of clusters 0 and 1: a fresh arrival while cluster 1 is awaited; a wait after the generation's end and before it; a second arrival. -/
def arrivedOnce : State := modBar (modClu running 0 (fun k => { k with barLast := [(1, 0)] })) 1 (fun x => { x with locals := [0] })
theorem wit_BarrierArrivals : Executes running running (iss (2 ^ 32)) ∧ fBAR (iss (2 ^ 32)) = 1 ∧ fieldOf (iss (2 ^ 32)) 51 38 = 0 ∧ fieldOf (iss (2 ^ 32)) 31 0 = 0 ∧
    barFresh running 0 1 = true ∧ (clu running 0).inflight = [] ∧
    (∃ p d, barPart running 1 = some p ∧ d ∈ barMembers running p 1 ∧ d ≠ 0 ∧ d ∉ (bar running 1).locals) ∧
    (barNamed arrivedOnce 0 1 = true ∧ nget (clu arrivedOnce 0).barLast 1 = some (barGen arrivedOnce 1) ∧ barFresh arrivedOnce 0 1 = false) ∧
    (barNamed (setBarGen arrivedOnce 1 1) 0 1 = true ∧ nget (clu (setBarGen arrivedOnce 1 1) 0).barLast 1 = some 0 ∧ barGen (setBarGen arrivedOnce 1 1) 1 = 1) :=
  ⟨executes_of _ _ (by decide) rfl, by decide, by decide, by decide, by decide, by decide, ⟨0, 1, by decide⟩, by decide⟩

/-- A free and a full private mailbox, a free, a full and another open one, and a blocked put. -/
def putting : State := withF (fun x => { x with block := some (.put 7) }) running
theorem wit_MailboxPuts : Executes running running (ops 31 32 0 0) ∧ fSELF (ops 31 32 0 0) = 1 ∧ fMB (ops 31 32 0 0) = 0 ∧ fieldOf (ops 31 32 0 0) 38 0 = 0 ∧
    privateFree running 0 = true ∧ privateFree (fput running F.MBX_STAT.FULL 1 0) 0 = false ∧ partOf running 0 = some 0 ∧
    fSELF (iss (56 * 2 ^ 39)) = 0 ∧ fMB (iss (56 * 2 ^ 39)) = 56 ∧ mbxFull running 56 = false ∧ mbxClosed running 56 = false ∧
    mbxFull (fput running F.MBX_STAT.FULL 1 56) 56 = true ∧ fMB (iss (57 * 2 ^ 39)) = 57 ∧ fSELF (iss (2 ^ 45 + 2 ^ 39)) = 1 ∧ fMB (iss (2 ^ 45 + 2 ^ 39)) ≠ 0 ∧
    ((stream putting 0 .F).running = true ∧ (stream putting 0 .F).block = some (.put 7) ∧ privateFree putting 0 = true ∧ isFrozen putting = false ∧ isStopped putting = false) :=
  ⟨executes_of _ _ (by decide) rfl, by decide⟩

/-- A wait at its limit, the same in the rest of the cycle in which the other stream trapped, and a stream that has executed end. -/
def late : State := { withF (fun x => { x with block := some (.wait 3 1), since := 0, limit := 100 }) running with tick := 100 }
def lastLate : State := withF (fun x => { x with running := false, lastCycle := true }) (fput late F.SEQ_TRAP_CAUSE.VALID 1 0 0)
def ended : State := withF (fun x => { x with ended := true }) running
theorem wit_TimeoutsAndStreamEnds : (stream late 0 .F).block = some (.wait 3 1) ∧ blockInfo 0 (.wait 3 1) = some 3 ∧ (stream late 0 .F).limit ≠ 0 ∧
    (stream late 0 .F).since + (stream late 0 .F).limit ≤ late.tick ∧ blockMet late 0 (.wait 3 1) = false ∧ isFrozen late = false ∧
    (isStopped late = false ∧ (stream late 0 .F).running = true ∧ fget late F.SEQ_TRAP_CAUSE.VALID 0 0 = 0) ∧
    (isFrozen lastLate = false ∧ isStopped lastLate = false ∧ (stream lastLate 0 .F).running = false ∧ (stream lastLate 0 .F).lastCycle = true ∧
      (stream lastLate 0 .F).block = some (.wait 3 1) ∧ (stream lastLate 0 .F).limit ≠ 0 ∧ (stream lastLate 0 .F).since + (stream lastLate 0 .F).limit ≤ lastLate.tick ∧
      blockMet lastLate 0 (.wait 3 1) = false ∧ fget lastLate F.SEQ_TRAP_CAUSE.VALID 0 0 = 1) ∧
    ((stream ended 0 .F).running = true ∧ (stream ended 0 .F).ended = true ∧ (clu ended 0).inflight = [] ∧ isStopped ended = false) := by decide

/-! ### Units, buckets, runs -/

/-- A descriptor of n FP32 elements at an address, SCALE 1.0. -/
def fp32Desc (base n : Nat) : BitVec 512 :=
  BitVec.ofNat 512 (2 ^ 60 + 2 ^ 48 + base + n * 2 ^ 64 + 2 ^ 96 + 2 ^ 128 + 2 ^ 160 + 0x3F800000 * 2 ^ 448)

/-- td1 and td2: 8 elements of the near store; bucket 5 of 256 elements in a table at 16 MiB, this station alone in its ring; td3 its
gradient. -/
def tensors : State :=
  let s := modClu running 0 (fun k => { k with td := [(1, fp32Desc 0x410000010000 8), (2, fp32Desc 0x410000020000 8), (3, fp32Desc 0x410000030000 256)] })
  { puts [(F.HUB_WIN.SIZE, 64, 0, 0)] (modPart s 0 (fun x => { x with redTable := 0x1000000 })) with
    mem := [(0x1000140, 1), (0x1000141, 0x80), (0x1000145, 1), (0x1000151, 0x20), (0x410000002004, 3)] }

/-- ldt of td2 to td1 by channel 3, token 200. -/
def iLdt : Issue := iss (3 * 2 ^ 50 + 2 ^ 44 + 2 * 2 ^ 38 + 200)
theorem wit_TensorOperationsIssue : Executes tensors tensors iLdt ∧ lLegal iLdt false = true ∧ inflightRoom tensors 0 .F = true ∧
    planTrap iLdt tensors (planOf .ldt iLdt tensors) = none := ⟨executes_of _ _ (by decide) rfl, by decide +kernel⟩

/-- A descriptor of all zeros; 224 operations in flight; the stalled ldt with room again. -/
def iBad : Issue := iss (9 * 2 ^ 44 + 2 * 2 ^ 38)
def fullF : State := puts [(F.SEQ_STAT.INFL_F, 224, 0, 0)] tensors
def stalled : State := withF (fun x => { x with stalled := some (.ldt, iLdt) }) tensors
theorem wit_TensorOperationsTrapOrStall : Executes tensors tensors iBad ∧ inflightRoom tensors 0 .F = true ∧ lLegal iBad false = true ∧
    planTrap iBad tensors (planOf .ldt iBad tensors) = some (0x02, 9 + 256) ∧ fget tensors F.SEQ_TRAP_CAUSE.VALID 0 0 = 0 ∧
    Executes fullF fullF iLdt ∧ inflightRoom fullF 0 .F = false ∧ (isFrozen stalled = false ∧ (strOf stalled iLdt).stalled = some (.ldt, iLdt)) ∧
    isStopped stalled = false ∧ inflightRoom stalled 0 .F = true ∧ planTrap iLdt tensors (planOf .ldt iLdt tensors) = none :=
  ⟨executes_of _ _ (by decide) rfl, by decide, by decide, by decide +kernel, by decide, executes_of _ _ (by decide) rfl, by decide, by decide, by decide, by decide, by decide +kernel⟩

/-- rsend of td3 under tag 5, and rrecv to it. -/
def iSend : Issue := iss (3 * 2 ^ 46 + 5 * 2 ^ 34 + 7)
theorem wit_BucketOperationsIssue : Executes tensors tensors iSend ∧ fieldOf iSend 33 8 = 0 ∧ partOf tensors 0 = some 0 ∧ cTAG iSend = 5 ∧
    (∃ e, bucketEntry tensors 0 5 = some e ∧ e.n = 256) ∧ (tensAt tensors 0 (cTD iSend)).tag = 0 ∧ (tensAt tensors 0 (cTD iSend)).hasMap = false ∧
    planTrap iSend tensors (planOf .rsendB8 iSend tensors) = none ∧ planTrap iSend tensors (planOf .rsendBf16 iSend tensors) = none ∧
    planTrap iSend tensors (planOf .rrecv iSend tensors) = none ∧ nget (part tensors 0).buckets 5 = none :=
  ⟨executes_of _ _ (by decide) rfl, by decide, by decide, by decide, ⟨(bucketEntry tensors 0 5).getD ⟨0, false, false, 0, 0, 0, 0, 0, 0⟩, by decide +kernel⟩,
    by decide +kernel, by decide +kernel, by decide +kernel, by decide +kernel, by decide +kernel, by decide +kernel⟩

/-- An operation without descriptors that has begun on a unit. -/
def begunOn (op : TOp) (f : Nat) : State := modClu running 0 (fun k => { k with inflight := [{ opF op f with begun := true }] })
theorem noStash_of_nil (c : Nat) (r : OpRec) (h : r.descs = []) (a : statTags r = [] ∧ recordTag r = 0) : NoStash c r :=
  ⟨fun n x e => by simp [opTens, h] at e, a⟩

/-- The last engine, its drain, the quantiser, the vector unit and the row engine. -/
theorem wit_UnitsRaiseTheirTokens : isFrozen running = false ∧ isStopped running = false ∧
    (∀ x ∈ [(TOp.mma .e4m3 .e4m3 false false, 3 * 2 ^ 50, 6), (.drainRaw, 3 * 2 ^ 50, 7), (.qzBlk, 0, 8), (.vEw, 0, 9), (.rowfwdNorm, 0, 10)],
      oldestBegun (begunOn x.1 x.2.1) 0 x.2.2 = some { opF x.1 x.2.1 with begun := true } ∧
      slotTurn (begunOn x.1 x.2.1) 0 { opF x.1 x.2.1 with begun := true } = true) ∧ NoStash 0 { opF .rowfwdNorm 0 with begun := true } :=
  ⟨by decide, by decide, by decide, noStash_of_nil _ _ rfl (by decide)⟩

/-- A begun copy of td2 to td1 on channel 3. -/
def copying : OpRec := { opF .ldt (3 * 2 ^ 50 + 200) with descs := [fp32Desc 0x410000010000 8, fp32Desc 0x410000020000 8], words := [0], begun := true }
def copier : State := modClu tensors 0 (fun k => { k with inflight := [copying] })
theorem wit_ChannelsRaiseTheirTokens : isFrozen copier = false ∧ fget copier F.SEQ_DMA_STAT.STATE 3 0 ≠ 2 ∧ oldestBegun copier 0 19 = some copying ∧
    isRemote copying = false ∧ opTens 0 copying 0 = some (tensOf 0 (fp32Desc 0x410000010000 8)) ∧
    opTens 0 copying 1 = some (tensOf 0 (fp32Desc 0x410000020000 8)) ∧
    busError copier (copyRanges copying (tensOf 0 (fp32Desc 0x410000020000 8)) (tensOf 0 (fp32Desc 0x410000010000 8))) = none ∧
    (hiddenFrom copier 0 = [] ∧ isStopped copier = false ∧ copyRanges copying (tensOf 0 (fp32Desc 0x410000020000 8)) (tensOf 0 (fp32Desc 0x410000010000 8)) =
      [(0x410000020000, 0x410000020020)]) ∧
    ReadsAll (sourceOf 0 copying) (seenBy copier 0) copier [(0x410000020000, 0x410000020020)] ∧ NoStash 0 copying := by
  refine ⟨by decide, by decide, by decide +kernel, by decide, by decide +kernel, by decide +kernel, by decide +kernel, by decide +kernel,
    (if_pos (show hiddenFrom copier 0 = [] by decide) : seenBy copier 0 = copier) ▸ readsAll_of _ _ _ (by decide +kernel), fun n x e => ?_, by decide⟩
  match n, e with
  | 0, e => exact (Option.some.inj e) ▸ (by decide +kernel)
  | 1, e => exact (Option.some.inj e) ▸ (by decide +kernel)
  | n + 2, e => simp [opTens, copying] at e

/-- A vector operation that may begin, and a pass that starts engine 3. -/
def readyOp (op : TOp) (f : Nat) : OpRec := { opF op f with begun := false }
def readyTo (op : TOp) (f : Nat) : State := modClu running 0 (fun k => { k with inflight := [readyOp op f] })
theorem wit_OperationsBegin :
    (isFrozen (readyTo .vEw 0) = false ∧ isStopped (readyTo .vEw 0) = false ∧ (readyOp .vEw 0).asked = false ∧ (clu (readyTo .vEw 0) 0).inflight.find? (fun o => o.id = 0) = some (readyOp .vEw 0) ∧
      mayBegin (readyTo .vEw 0) 0 (readyOp .vEw 0) = true ∧ yields (readyTo .vEw 0) 0 (readyOp .vEw 0) = false ∧
      isEngineStart (readyTo .vEw 0) 0 (readyOp .vEw 0) = false ∧ isRemote (readyOp .vEw 0) = false ∧ mapFault (readyTo .vEw 0) 0 (readyOp .vEw 0) = none) ∧
    NoStash 0 (readyOp .vEw 0) ∧
    (let r := readyOp (.mma .e4m3 .e4m3 false false) (3 * 2 ^ 50); let s := readyTo (.mma .e4m3 .e4m3 false false) (3 * 2 ^ 50)
     mayBegin s 0 r = true ∧ yields s 0 r = false ∧ r.asked = false ∧ isEngineStart s 0 r = true) :=
  ⟨by decide, noStash_of_nil _ _ rfl (by decide), by decide⟩

/-- Slot 0 of two, and no table. -/
theorem wit_InterleaveSlotsFollow : isFrozen running = false ∧ isStopped running = false ∧ fget running F.SEQ_STAT.STATE 0 0 = 1 ∧
    (clu running 0).ilv = [] ∧ (clu (modClu running 0 (fun k => { k with ilv := [0, 1] })) 0).ilv.length ≤ 4096 := by decide

/-- An entry of one tile for cluster 0, engine 3. -/
def casting : State := { running with mem := [(0x1000046, 1), (0x1000048, 1), (0x100004A, 1), (0x100004C, 3), (0x1000050, 1)], wbePos := [(0, (0x1000000, 0, 0, 0))] }
theorem wit_BroadcastReachesItsMask : isFrozen casting = false ∧ isStopped casting = false ∧ (part casting 0).running = true ∧
    nget casting.wbePos 0 = some (0x1000000, 0, 0, 0) ∧ (wbeEntry casting 0x1000000).mask = 1 ∧ (wbeEntry casting 0x1000000).eng = 3 ∧
    ∀ c ∈ List.range 32, (ngetD [] (clu casting c).tiles 3).length < 2 := by decide

/-- A window of 64 MiB and a protection table whose one entry covers the recipe and scale tables at 0. -/
def protectedState : State := { puts [(F.HUB_WIN.SIZE, 64, 0, 0), (F.CRN_PT.ADDR, 0x10000, 0, 0), (F.CRN_PT.ENTRIES, 1, 0, 0)] running with
  mem := [(0x400011, 0x80), (0x40001A, 1), (0x410000002004, 3)] }

/-- A run due. -/
def due : State := modPart (puts [(F.CRN_STAT.STATE, 1, 0, 0)] protectedState) 0 (fun x => { x with wanted := true, running := false })
/-- The first entry point of its image poisoned. -/
def dueBad : State := { due with syn := [(0x410000000000, 0x7F)] }
theorem wit_RunsStart : ((part due 0).image = some image ∧ coreActs due 1 = true ∧ isStopped due = false ∧ (part due 0).wanted = true ∧
    (part due 0).running = false ∧ fget due F.CRN_STAT.STATE 0 = 1 ∧ holdsClear due 0 = true ∧ runReject due 0 = none ∧ (part due 0).badEmit = false) ∧
    ReadsAll (srcCore 1) due due (startReads due 0 image) ∧ ReadsAll (srcCore 2) due due (tableReads due 0) ∧
    ((part dueBad 0).image = some image ∧ coreActs dueBad 1 = true ∧ isStopped dueBad = false ∧ (part dueBad 0).wanted = true ∧ (part dueBad 0).running = false ∧
      fget dueBad F.CRN_STAT.STATE 0 = 1 ∧ holdsClear dueBad 0 = true) ∧ (checkRanges (srcCore 1) dueBad (startReads dueBad 0 image)).2 = some (0x410000000000, 2) :=
  ⟨by decide +kernel, readsAll_of _ _ _ (by decide +kernel), readsAll_of _ _ _ (by decide +kernel), by decide +kernel, by decide +kernel⟩

/-- Both clusters done; cluster 0 trapped; a faulted step. -/
def done : State := puts [(F.SEQ_STAT.STATE, 3, 0, 0), (F.SEQ_STAT.STATE, 3, 0, 1)] running
def trapped : State := takeTrap running 0 .F 0x410000000000 0x0D 5 false
def faulted : State := modPart running 0 (fun x => { x with fault := some (0, 0, 0) })
theorem wit_RunsEndOrStop : (coreActs done 1 = true ∧ (part done 0).running = true ∧ (part done 0).abandoned = false ∧ (part done 0).fault = none ∧
      runDone done 0 = true) ∧ ReadsAll (srcCore 1) done done (policyTables done 0) ∧
    (partOf trapped 0 = some 0 ∧ coreActs trapped 1 = true ∧ noticeIs trapped 0 2 = true ∧ (part trapped 0).fault = none ∧ (part trapped 0).abandoned = false ∧ (part trapped 0).atVerdict = false ∧
      fget trapped F.SEQ_TRAP_CAUSE.CAUSE 0 0 ≠ 0x0C) ∧
    (coreActs faulted 1 = true ∧ (part faulted 0).fault.isSome = true ∧ (part faulted 0).abandoned = false) :=
  ⟨by decide, readsAll_of _ _ _ (by decide +kernel), by decide +kernel, by decide⟩

/-- Payloads of one layer entry of the verdict: none, TRAPPED, HOLDREQ, SPIKE; bits of layer 0x7FF are bits 63:60 of word 127. -/
def verdictOf (bits : Nat) : State := modPart running 0 (fun x => { x with verdictReady := true, combined := [(127, bits * 2 ^ 60)] })
theorem wit_VerdictOutcomes : coreActs (verdictOf 0) 1 = true ∧ (part (verdictOf 0) 0).verdictReady = true ∧
    (∀ l ∈ List.range 2048, layerBits (part (verdictOf 0) 0).combined l = 0) ∧ natBit (layerBits (part (verdictOf 8) 0).combined 0x7FF) 3 = true ∧
    natBit (layerBits (part (verdictOf 2) 0).combined 0x7FF) 1 = true ∧ natBit (layerBits (part (verdictOf 2) 0).combined 0x7FF) 3 = false ∧
    layerBits (part (verdictOf 1) 0).combined 0x7FF = 1 ∧ (∀ l ∈ List.range 2047, layerBits (part (verdictOf 1) 0).combined l = 0) ∧
    sbit (verdictOf 1) F.HUB_TRB_CFG.SPIKE_POL 0 = false ∧ fbit (verdictOf 1) F.HUB_TRB_STAT.SPIKE_RUN 0 = false ∧
    fbit (verdictOf 1) F.HUB_TRB_STAT.APPLY_PENDING 0 = false := by decide +kernel
theorem wit_VerdictOutcomes_reads : ∀ b ∈ [0, 1, 2, 8], let v := modPart (verdictOf b) 0 (fun x => { x with verdictReady := false, atVerdict := false })
    ReadsAll (srcCore 1) v v (policyTables v 0) := by
  intro b h
  exact readsAll_of _ _ _ (by revert b; decide +kernel)

/-- A hold of cause 1, one of cause 3, and none. -/
def held (cause : Nat) : State := modPart (puts [(F.HUB_TRB_STAT.HOLDING, 1, 0, 0)] running) 0 (fun x => { x with holdCause := cause })
/-- Core 1 in reset. -/
def hc1Down : State := puts [(F.HUB_CORE_STAT.STATE, 1, 1, 0)] running
theorem wit_AnswersEndTheHold : isFrozen (held 1) = false ∧ coreRuns (held 1) 1 = true ∧ coreRuns (held 3) 1 = true ∧ coreRuns hc1Down 1 = false ∧ holding (held 1) 0 = true ∧ (part (held 1) 0).holdCause = 1 ∧
    (holding (held 3) 0 = true ∧ (part (held 3) 0).holdCause = 3 ∧ fbit (held 3) F.HUB_TRB_STAT.APPLY_PENDING 0 = false ∧ dstrAddr (held 3) 0 = 0) ∧
    holding running 0 = false ∧ ∀ k ∈ [1, 3], ReadsAll (srcCore 1) (held k) (held k) (policyTables (held k) 0) :=
  ⟨by decide, by decide, by decide, by decide, by decide, by decide, by decide, by decide, fun k h => readsAll_of _ _ _ (by revert k; decide)⟩

theorem wit_PolicyWritesComeFromMeridian : isFrozen running = false ∧ Source.smbus ≠ .meridian := by decide

/-! ### The hub, updates, gathers -/

/-- Core 2 with its watchdog at zero; core 2 in reset, with an image whose digest is the one recorded, and with three recent resets. -/
def wdt : State := modCore running 2 (fun x => { x with left := 0 })
def resetting : State := let s := puts [(F.HUB_CORE_STAT.STATE, 1, 2, 0)] running
  { s with boot := { s.boot with fwDigest := sha3 [] } }
def worn : State := puts [(F.HUB_CORE_STAT.RECENT, 3, 2, 0)] resetting
theorem wit_CoresAreWatchedAndReset : isFrozen wdt = false ∧ coreRuns wdt 2 = true ∧ wdt.boot.fwRuns = true ∧ (Machine.core wdt 2).left = 0 ∧
    fbit wdt F.HUB_BOOT_STAT.READY = true ∧ classOf 0x7F = .poison ∧ classOf 0x03 = .ue ∧
    fget resetting F.HUB_CORE_STAT.STATE 2 = 1 ∧ imageIntact resetting = true ∧ fget resetting F.HUB_CORE_STAT.RECENT 2 < 3 ∧
    (isFrozen worn = false ∧ fget worn F.HUB_CORE_STAT.STATE 2 = 1 ∧ 3 ≤ fget worn F.HUB_CORE_STAT.RECENT 2) ∧
    isFrozen State.reset = false ∧ NothingWaits State.reset ∧ isFrozen resetting = false :=
  ⟨by decide, by decide, by decide, by decide, by decide, by decide, by decide, by decide, beq_self_eq_true (sha3 []), by decide, by decide, by decide,
    ⟨fun _ => rfl, fun _ => ⟨rfl, rfl, rfl⟩⟩, by decide⟩

/-- Cluster 31 for partition 7; partition 0 has an image, and cluster 0 belongs to it; a window of 1 MiB; no register at 0. -/
theorem wit_WritesReachTheirRegisters : isFrozen running = false ∧ partRejects running 7 (2 ^ 31) = false ∧ (part running 0).image.isSome = true ∧
    (natBit 1 0 = true ∧ natBit (fget running F.HUB_PART.CLUSTERS 0) 0 = true) ∧ winRejects running 7 0 0 = false ∧
    memTop running < (0 + 0xFFFFFFF) * MiB ∧ accessOf 0 4 = none ∧
    (let s := puts [(F.ECC_STEST_CLU.WITHHELD, 2 ^ 31, 0, 0)] running; natBit (2 ^ 31) 31 = true ∧ natBit (fget s F.ECC_STEST_CLU.WITHHELD) 31 = true) := by decide

/-- A bucket in a phase, its gradient td3 of cluster 0. -/
def inBucket (ph : BucketPhase) : Bucket :=
  ⟨0, false, false, 0, ph, 0, fp32Desc 0x410000030000 512, 0, 0, [], [], [], false, [], [], [], [], 0, false, 0, none, false, [], none⟩

/-- Bytes put into memory. -/
def puts8 (l : List (Nat × List Byte)) (s : State) : State := { s with mem := l.foldl (fun m x => memPuts s.lost m x.1 x.2) s.mem }
theorem updRead_of (s : State) (p : Nat) (rs : List (Nat × Nat)) (h : (s.syn = [] ∧ s.lineSyn = [] ∧ s.tags = [] ∧ s.lines = []) ∧
    ∀ p, p < 8 → fbit s F.HUB_WIN.CACHE p = false) : updRead s p rs = s := by
  simp only [updRead, checkRanges_clean _ s rs h.1.1 h.1.2.1 h.1.2.2.1 h.1.2.2.2 h.2]

/-- Bucket 5 of this station alone, with a descriptor at 0x2000000 of MODE 0 and OPT 2, masters at 0x40000 and 0x50000, parameters at 0x60000,
BF16 copies at 0x70000 to 0x73000. -/
def updating : State :=
  let s := modPart tensors 0 (fun x => { x with buckets := [(5, inBucket .closed)] })
  let d (a : Nat) : List Byte := leBytes 64 (fp32Desc a 256).toNat
  puts8 [(4, [0x20]), (0x2000002, [2]), (0x200000A, [4]), (0x2000012, [5]), (0x2000039, [0x10, 0, 2]), (0x2000041, [0x20, 0, 2]), (0x200004A, [6]),
    (0x2001000, d 0x70000 ++ d 0x71000), (0x2002000, d 0x72000 ++ d 0x73000)] s
def entry5 : BucketEntry := ⟨1, false, false, 256, 1, 0x2000, 0, 0, 0⟩
theorem wit_UpdatesMoveTheMasters : (isFrozen updating = false ∧ isStopped updating = false ∧ bucketEntry updating 0 5 = some entry5 ∧
      updMode updating 0x2000000 = 0 ∧ updOpt updating 0x2000000 = 2 ∧ updUsed (updOpt updating 0x2000000) = [8] ∧
      updBuf updating 0x2000000 8 0 = 0x40000 ∧ updBuf updating 0x2000000 8 1 = 0x50000 ∧ updInvalid updating 0 0x2000000 256 = false ∧
      updInvalid updating 0 0x2000080 256 = true) ∧
    (part (modPart updating 0 (fun x => { x with updates := [(5, 0x2000000)], emits := [(5, 0x2000000)] })) 0).updates = [(5, 0x2000000)] ∧
    ∀ rs, updRead updating 0 rs = updating :=
  ⟨by decide +kernel, by decide +kernel, fun rs => updRead_of _ _ rs (by decide +kernel)⟩

/-- Bucket 6 of 512 elements on stations 9 and 0, this station at position 1, gathered; update descriptors at 0x4000 and 0x5000, copies at
0x60000 and 0x70000. Bucket 7 of the same on stations 0 and 9. -/
def ringed : State :=
  let d (n : Nat) : List Byte := leBytes 64 (fp32Desc n 8).toNat
  puts8 [(0x3000, [9]), (0x3012, [9]), (0x3101, [0x40]), (0x3109, [0x50]), (0x4039, [0x60]), (0x4041, [0x60]),
      (0x5039, [0x70]), (0x5041, [0x70]), (0x6000, d 0x60000), (0x7000, d 0x70000), (0x1000181, [0x80, 2, 0, 0, 2]), (0x1000188, [1]),
      (0x1000191, [0x30]), (0x1000199, [0x31]), (0x10001C1, [0x80, 2, 0, 0, 2]), (0x10001C8, [1]), (0x10001D0, [0x10, 0x30]),
      (0x10001D9, [0x31])] { tensors with tick := 0x40000000 }

/-- The packet of one station to this one, with a second header word and payload words. -/
def pktOf (src type tid w1 : Nat) (ws : List Nat) : Packet :=
  ⟨codeWord (packetHead 0 src type 0 ws.length tid), codeWord (BitVec.ofNat 64 w1), ws.map (fun w => codeWord (BitVec.ofNat 64 w)), false⟩
def arrived (q : Packet) (s : State) : State := { s with arrived := [(q, 0)] }
theorem arrived_is (s : State) (q : Packet) (type : Nat) (h : pktType q = type ∧ pktBad q = false) : Arrived (arrived q s) q [] type := ⟨⟨0, rfl⟩, h⟩

/-- The entry of bucket 6 and 7. -/
def entry6 : BucketEntry := ⟨0, false, true, 512, 2, 0x3000, 0x3100, 0, 1⟩
def entry7 : BucketEntry := ⟨0, false, true, 512, 2, 0x3010, 0x3100, 0, 0⟩

/-- Both gathers of bucket 6 open; with all words of shard 0. -/
def gathering : State :=
  modPart ringed 0 (fun x => { x with gathers := [(gatherKey 6 0, ⟨false, false, 0, 0, [], false, false, false⟩), (gatherKey 6 1, ⟨true, false, 0, 0, [], false, false, false⟩)] })
def gathered : State :=
  modPart ringed 0 (fun x => { x with gathers := [(gatherKey 6 0, ⟨false, false, 0, 0,
    (List.range (cdiv (piecesLen (gatherPieces ringed 0 0x4000 0)) 8)).map (fun k => (k, 0)), false, false, false⟩)] })
/-- Bytes of shard 0 of bucket 6, from station 9, and a trailer that does not agree. -/
def pGather : Packet := pktOf 9 4 0 (6 * 2 ^ 52 + 2 * 2 ^ 50) [1, 2]
def pGatherHop : Packet := pktOf 9 5 0 (6 * 2 ^ 52 + 7 * 2 ^ 48) [1, 0]
theorem wit_GathersCompleteOrFail : (isFrozen gathering = false ∧ isStopped gathering = false ∧ bucketEntry gathering 0 6 = some entry6 ∧
      nget (part gathering 0).gathers (gatherKey 6 1) = some ⟨true, false, 0, 0, [], false, false, false⟩ ∧ (part gathering 0).emits = []) ∧
    copiesInside gathering 0 (shardDesc gathering entry6 1) 0 = true ∧
    ReadsAll (srcRed 6) gathering gathering ((gatherPieces gathering 0 (shardDesc gathering entry6 1) 0).map (fun x => (x.1, x.1 + x.2))) ∧
    nget (part gathering 0).gathers (gatherKey 6 0) = some ⟨false, false, 0, 0, [], false, false, false⟩ ∧
    (0 + sget gathering F.LNK_RED_TMO.TICKS ≤ gathering.tick ∧ gatherRing (arrived pGather gathering) (pktW1 pGather 63 52) (pktSrc pGather) = some (0, entry6) ∧
      pktW1 pGather 51 50 = 2 ∧ pktW1 pGather 46 31 < 2 ∧ (gatherOpen (arrived pGather gathering) 0 6 0).isSome = true) ∧
    Arrived (arrived pGather gathering) pGather [] 4 ∧
    (gatherRing (arrived pGatherHop gathered) (pktW1 pGatherHop 63 52) (pktSrc pGatherHop) = some (0, entry6) ∧ pktW1 pGatherHop 51 48 = 7 ∧
      gatherMatch (arrived pGatherHop gathered) 0 6 entry6 (pktWord pGatherHop 0) = some (0, false)) ∧
    Arrived (arrived pGatherHop gathered) pGatherHop [] 5 :=
  ⟨by decide +kernel, by decide +kernel, readsAll_of _ _ _ (by decide +kernel), by decide +kernel, by decide +kernel, arrived_is _ _ _ (by decide +kernel), by decide +kernel,
    arrived_is _ _ _ (by decide +kernel)⟩

/-! ### Links -/

/-- Port 23 in a state, lane states good, with a first lane mask locked; the station is assigned. -/
def portIn (st : Nat) : State :=
  { puts [(F.LNK_PSTAT.STATE, st, 5, 3), (F.LNK_STATION.ASSIGNED, 1, 0, 0), (F.LNK_STATION.ASSIGNED, 1, 0, 3), (F.LNK_PSTAT.LANES, 15, 5, 3)] running with
    tick := 0x1000000, ports := [(23, { Port.reset with locked := 15, trained := true })] }
/-- The peer: port 2 of station 9, all lanes, width 2, versions 1 and 2. -/
def peer9 : PeerInit := ⟨9, 2, 15, 2, 1, 2, 20⟩
theorem wit_PortsComeUp : isFrozen (portIn pDOWN) = false ∧ 9 ≤ fget (portIn pDOWN) F.HUB_BOOT_STAT.PHASE ∧ pState (portIn pDOWN) 23 = pDOWN ∧
    (port (portIn pDOWN) 23).attempts < 8 ∧ (port (portIn pDOWN) 23).since + 125000 ≤ (portIn pDOWN).tick ∧
    (let s := modPort (portIn pDOWN) 23 (fun x => { x with attempts := 8 }); pState s 23 = pDOWN ∧ 8 ≤ (port s 23).attempts) ∧
    (pState (portIn pDETECT) 23 = pDETECT ∧ laneOk (portIn pDETECT) 23 3 = true) ∧
    (pState (portIn pTRAIN) 23 = pTRAIN ∧ (port (portIn pTRAIN) 23).since + 6250000 ≤ (portIn pTRAIN).tick) ∧
    (pState (portIn pRETRAIN) 23 = pRETRAIN ∧ (port (portIn pRETRAIN) 23).trained = true) ∧
    (pState (portIn pINIT) 23 = pINIT ∧ fbit (portIn pINIT) F.LNK_STATION.ASSIGNED 0 (23 / 6) = true ∧
      widthOf (usable (portIn pINIT) 23 (port (portIn pINIT) 23).locked.toNat &&& peer9.good.toNat)
        (min (psget (portIn pINIT) F.LNK_PCFG.MAXW 23) peer9.maxw.toNat) = some (2, 15) ∧
      versionOf (psget (portIn pINIT) F.LNK_PCFG.VERMAX 23) peer9 = some 2 ∧ (port (portIn pINIT) 23).since + 125000 ≤ (portIn pINIT).tick) := by decide

theorem wit_PortsRetrainAndStop : isFrozen (portIn pACTIVE) = false ∧ pState (portIn pACTIVE) 23 = pACTIVE ∧
    natBit (pget (portIn pACTIVE) F.LNK_PSTAT.LANES 23) 3 = true ∧ (pState (portIn pRETRAIN) 23 = pRETRAIN ∧
      (port (portIn pRETRAIN) 23).since + 6375000 ≤ (portIn pRETRAIN).tick) ∧ pState (portIn pFAILED) 23 = pFAILED ∧
    pState (portIn pFAILED) 23 ≠ pDISABLED ∧ pState (portIn pDISABLED) 23 = pDISABLED ∧ Source.smbus ≠ .meridian := by decide

/-- A packet for this station and one for station 9, which port 23 reaches, in the switch. -/
def flitOf (q : Packet) (seq : Nat) (crcBad : Bool) : Flit :=
  let h : BitVec 72 := BitVec.ofNat 72 (2 ^ 68 + seq * 2 ^ 56)
  ⟨h, q.h0 :: q.h1 :: q.payload, if crcBad then flitCrc h (q.h0 :: q.h1 :: q.payload) + 1 else flitCrc h (q.h0 :: q.h1 :: q.payload), 0, 0⟩
def waitsIn (dst : Nat) (route : Option Nat) (whole : Bool) : Queued := ⟨{ pGather with h0 := codeWord (packetHead dst 9 4 0 2 0) }, 22, 0, route, 0, whole, none⟩
def switching (x : Queued) : State := { portIn pACTIVE with switch := [x] }
theorem wit_PacketsCrossTheSwitch :
    ((flitOf pGather 0 false).fecLanes = 0 ∧ (flitOf pGather 0 false).crc = flitCrc (flitOf pGather 0 false).hdr (flitOf pGather 0 false).words ∧
      hdrBits (flitOf pGather 0 false).hdr 71 68 = 1 ∧ hdrBits (flitOf pGather 0 false).hdr 67 56 = ((port (portIn pACTIVE) 23).lastIn + 1) % 4096 ∧
      hdrBits (flitOf pGather 0 false).hdr 20 20 = 0 ∧ (port (portIn pACTIVE) 23).partialPkt = [] ∧ (portIn pACTIVE).switch = []) ∧
    OnePacket (flitOf pGather 0 false) pGather ∧
    (pktType pGather ≠ 8 ∧ (flitOf pGather 0 true).crc ≠ flitCrc (flitOf pGather 0 true).hdr (flitOf pGather 0 true).words) ∧
    (∀ x ∈ [waitsIn 0 (some 24) true, waitsIn 9 (some 23) true, waitsIn 9 (some 23) false, waitsIn 9 none true], isFrozen (switching x) = false ∧
      (switching x).switch = [x] ∧ offered (.port 22) 0 x = true ∧ x.out = none ∧ headOkay x.pkt = true ∧ (classOfType (pktType x.pkt)).isSome = true ∧
      canSend (switching x) 23 (hopVc (switching x) x 23) x.pkt = true ∧ servedNext (switching x) 23 x = true) := by
  refine ⟨by decide +kernel, ⟨rfl, rfl, by decide +kernel⟩, by decide +kernel, by decide +kernel⟩

/-- A WRITE of cluster 0 to station 9 that is not acknowledged. -/
def acking : State := { modClu protectedState 0 (fun k => { k with inflight := [opF .dma (3 * 2 ^ 50)] }) with
  tick := 0x40000000, sent := [(7, ⟨9, 0, 0, 0, 0, 0x100, 0x200, 8, false⟩)] }
def pWrite (a : Nat) : Packet := pktOf 9 1 5 (a + 0xFF * 2 ^ 48) [1, 2]
theorem wit_WritesAreAcknowledged : isFrozen acking = false ∧ isStopped acking = false ∧
    remoteAccepts acking (pktW1 (pWrite 0x100000) 47 0) (writeSpan (pWrite 0x100000)) = true ∧
    remoteAccepts acking (pktW1 (pWrite 0x300000000) 47 0) (writeSpan (pWrite 0x300000000)) = false ∧
    (∀ a ∈ [0x100000, 0x300000000], pktType (pWrite a) = 1 ∧ pktBad (pWrite a) = false) ∧
    (∀ type ∈ [2, 3, 9], pktType (pktOf 9 type 0 7 []) = type ∧ pktBad (pktOf 9 type 0 7 []) = false ∧ pktSrc (pktOf 9 type 0 7 []) = 9 ∧
      pktW1 (pktOf 9 type 0 7 []) 16 0 = 7 ∧ pktW1 (pktOf 9 type 0 7 []) 20 17 = 0) ∧
    nget acking.sent 7 = some ⟨9, 0, 0, 0, 0, 0x100, 0x200, 8, false⟩ ∧ 0 + sget acking F.LNK_E2E_TMO.TICKS 0 (homeDie acking 9) ≤ acking.tick ∧ acking.arrived = [] ∧
    (clu acking 0).inflight.find? (fun o => o.id = 0) = some (opF .dma (3 * 2 ^ 50)) ∧ fget acking F.SEQ_DMA_STAT.STATE 3 0 ≠ 2 := by
  decide +kernel

/-- Barrier 62 of generation 3 with this station arrived and told, and the two generations of the verdict barrier of partition 7. -/
def joined (b : BarState) : State :=
  { puts [(F.LNK_BARCFG.ENABLE, 1, 62, 0), (F.LNK_BARCFG.CHILDREN, 1, 62, 0), (F.LNK_BARST.GEN, 3, 62, 0), (F.LNK_VBARST.GEN, 1, 6, 0), (F.TCK_NOW.TICKS, 1000, 0, 0)] running with
    bars := [(62, b), (64 + 6, b), (64 + 7, b)] }
def pBarUp : Packet := pktOf 9 6 0 (62 + 3 * 2 ^ 6) []
def pBarDown : Packet := pktOf 9 7 0 (62 + 3 * 2 ^ 6) [5000]
theorem wit_BarriersComeUpAndDown : isFrozen (joined .reset) = false ∧ barOf (joined .reset) pBarUp = some 62 ∧ pktW1 pBarUp 21 6 = barGen (joined .reset) 62 ∧
    pktType pBarUp = 6 ∧ pktBad pBarUp = false ∧ (bar (joined .reset) 62).ups.contains (pktSrc pBarUp) = false ∧
    (bar (joined { BarState.reset with ups := [9] }) 62).ups.contains (pktSrc pBarUp) = true ∧
    (let s := joined { BarState.reset with ups := [9], sentUp := true }
     barOf s pBarDown = some 62 ∧ pktW1 pBarDown 21 6 = barGen s 62 ∧ pktType pBarDown = 7 ∧ pktBad pBarDown = false ∧ barSent s 62 = true ∧
     barRoot s 62 = false ∧ (bar s 62).release = none ∧ pBarDown.payload.length ≤ 1 ∧
     tickNow s ≤ pktWord pBarDown 0 + sget s F.PWR_BAR_OFFSET.TICKS) ∧
    (let s := joined { BarState.reset with release := some 0 }
     ∀ b ∈ [BarrierId.prog 62, .verdict 6, .verdict 7], (bar s (barKey b)).release = some 0 ∧ releaseTick s (barKey b) 0 ≤ tickNow s ∧ downDone s (barKey b) = true) ∧
    (let s := joined { BarState.reset with release := some 0 }
     barGen s (64 + 6) ≠ 0 ∧ barGen s (64 + 7) = 0 ∧ coreRuns s 2 = true ∧ coreRuns (puts [(F.HUB_CORE_STAT.STATE, 1, 2, 0)] s) 2 = false) ∧
    (let s := modStr (modClu (joined { BarState.reset with release := some 0 }) 0 (fun k => { k with barLast := [(62, 3)] })) 0 .F
       (fun x => { x with block := some (.barWait 62 3) })
     (stream s 0 .F).block = some (.barWait 62 3) ∧ nget (clu s 0).barLast 62 = some (barGen s 62)) := by
  decide +kernel

/-- A follower of port 23, with a number of good stamps; the master with port 23 as a child. -/
def following (good : Nat) : State :=
  { puts [(F.TCK_CTL.ROLE, 2, 0, 0), (F.TCK_CTL.PARENT, 23, 0, 0), (F.TCK_NOW.TICKS, 1000, 0, 0)] (portIn pACTIVE) with tickGood := good }
def leading : State := puts [(F.TCK_CTL.ROLE, 1, 0, 0), (F.TCK_CTL.CHILD, 2 ^ 23, 0, 0)] (portIn pACTIVE)
def pTsync (stamp : Nat) : Packet := pktOf 9 8 0 stamp []
theorem wit_TicksAndStationNumbers : (isFrozen running = false ∧ ∀ n ∈ List.range 24, pState running n ≠ pACTIVE ∧ pState running n ≠ pRETRAIN) ∧
    pState (portIn pACTIVE) 23 = pACTIVE ∧
    (sget leading F.TCK_CTL.ROLE = 1 ∧ leading.tickSent + sget leading F.TCK_PERIOD.TICKS ≤ leading.tick ∧ natBit (sget leading F.TCK_CTL.CHILD) 23 = true ∧
      natBit (sget leading F.TCK_CTL.CHILD) 22 = false ∧ (port leading 23).txWords = [] ∧ canSend leading 23 4 (mkPacket leading (pget leading F.LNK_PEER.STATION 23) 8 0 (BitVec.ofNat 64 (tickNow leading)) []) = true) ∧
    (pktType (pTsync 1000) = 8 ∧ sget (following 3) F.TCK_CTL.ROLE = 2 ∧ sget (following 3) F.TCK_CTL.PARENT = 23 ∧ pState (following 3) 23 = pACTIVE ∧
      fget (following 3) F.TCK_STAT.LOCKED = 0) ∧
    ((tsyncErr (following 3) 1000 (fget (following 3) F.TCK_LAT.LAT 23) 0).natAbs < 16 ∧
      16 ≤ (tsyncErr (following 3) 2000 (fget (following 3) F.TCK_LAT.LAT 23) 0).natAbs) := by decide +kernel

/-! ### Reduction -/

/-- Bucket 8 of 768 elements on stations 9, 0 and 8. -/
def ring3 : State :=
  let l : List (Nat × List Byte) := [(0x3020, [9]), (0x3024, [8]), (0x1000201, [0x80, 0, 0, 0, 3]), (0x1000208, [2]), (0x1000210, [0x20, 0x30])]
  puts8 l ringed
def entry8 : BucketEntry := ⟨0, false, false, 768, 3, 0x3020, 0, 0, 1⟩
/-- Buckets 5 to 8 as one. -/
def reducing (x : Bucket) : State := modPart ring3 0 (fun y => { y with buckets := [(5, x), (6, x), (7, x), (8, x)] })
theorem bucketPacket_of (s : State) (q : Packet) (type p : Nat) (e : BucketEntry) (x : Bucket)
    (h : (isFrozen (arrived q s) = false ∧ isStopped (arrived q s) = false) ∧ (pktType q = type ∧ pktBad q = false) ∧
      bucketOf (arrived q s) q = some (p, e, x) ∧ pktRun q = x.run) : BucketPacket (arrived q s) q [] type p e x :=
  ⟨h.1, arrived_is s q type h.2.1, h.2.2.1, h.2.2.2⟩

/-- Words of bucket 6, and a trailer. -/
def pRed : Packet := pktOf 9 4 0 (6 * 2 ^ 52) [1]
def pRtrl (tag sub : Nat) (ws : List Nat) : Packet := pktOf 9 5 0 (tag * 2 ^ 52 + sub * 2 ^ 48) ws
/-- All blocks kept and sent, and the trailer there. -/
def allIn : Bucket := { inBucket .scatter with sums := [(0, []), (1, [])], outgoing := [(0, []), (1, [])], hop := some 0 }
/-- The words of the wire block of shard 1 are there. -/
def received : Bucket := { inBucket .scatter with incoming := (List.range 32).map (fun k => (wordKey 1 k, codeWord 0)) }
theorem wit_ScatterReducesBlocks : BucketPacket (arrived pRed (reducing (inBucket .scatter))) pRed [] 4 0 entry6 (inBucket .scatter) ∧ pktW1 pRed 51 50 < 2 ∧
    BucketPacket (arrived (pRtrl 6 0 [5, 6]) (reducing (inBucket .scatter))) (pRtrl 6 0 [5, 6]) [] 5 0 entry6 (inBucket .scatter) ∧
    (pktW1 (pRtrl 6 0 [5, 6]) 51 48 = 0 ∧ (∀ x ∈ [inBucket .scatter, received, allIn], bucketEntry (reducing x) 0 6 = some entry6 ∧
      bucketEntry (reducing x) 0 7 = some entry7 ∧ bucketEntry (reducing x) 0 5 = some entry5) ∧
      shardOf entry6 0 = 0 ∧ shardOf entry6 1 = 1 ∧ entry6.pos = (shardOf entry6 0 + 1) % 2 ∧ blockReady (reducing received) entry6 received 1 = true ∧
      entry6.ring + 2 * 2 ≤ troubleBase 0 ∧ ∀ e ∈ [entry5, entry6, entry7], allKept e allIn = true ∧ allSent e allIn = true) ∧
    (∀ x ∈ [inBucket .scatter, received], ∀ b, ReadsAll (srcRed 6) (reducing x) (reducing x) (contribWords (reducing x) (tensOf x.sendCl x.send) b)) :=
  ⟨bucketPacket_of _ _ _ _ _ _ (by decide +kernel), by decide, bucketPacket_of _ _ _ _ _ _ (by decide +kernel), by decide +kernel, by
    exact fun x hx b => readsAll_of _ _ _ (by revert x; decide +kernel)⟩

/-- Laps of bucket 6 (the last of two), 8 (the second of three) and 7 (the first): tag, sub-kind, payload word, entry, the bucket. -/
def lapCases : List (Nat × Nat × Nat × BucketEntry × Bucket) :=
  let x := inBucket .lap
  [(6, 1, 1, entry6, x), (8, 1, 1, entry8, x), (6, 2, 1, entry6, x), (8, 2, 1, entry8, x), (7, 4, 1, entry7, x), (8, 4, 1, entry8, x),
   (6, 5, 1, entry6, inBucket .pre), (8, 5, 1, entry8, inBucket .pre), (7, 6, 1, entry7, inBucket .pre), (8, 6, 1, entry8, inBucket .pre),
   (7, 3, 4, entry7, x), (8, 3, 4, entry8, { x with digUsed := true }), (7, 3, 1, entry7, x), (7, 3, 1, entry7, { x with scaleRuns := 2 }),
   (7, 3, 0, entry7, x), (7, 3, 0, entry7, { x with downMax := [(0, 0), (1, 0)] })]
theorem wit_LapsDecideTheBucket :
    (∀ y ∈ lapCases, BucketPacket (arrived (pRtrl y.1 y.2.1 [y.2.2.1]) (reducing y.2.2.2.2)) (pRtrl y.1 y.2.1 [y.2.2.1]) [] 5 0 y.2.2.2.1 y.2.2.2.2 ∧
      pktW1 (pRtrl y.1 y.2.1 [y.2.2.1]) 51 48 = y.2.1) ∧
    (let s := reducing (inBucket .pre)
     OneTable s 9 2 (pRtrl 6 2 [1]) ∧ OneTable s 8 3 (pRtrl 8 2 [1]) ∧ contribMax s (tensOf 0 (inBucket .pre).send) 0 < 256 ∧ tableBytes (pRtrl 8 5 [1]) 3 ≠ [] ∧
     ∀ rs, ReadsAll (srcRed 8) s s rs) ∧
    (bucketLive (inBucket .lap) = true ∧ 0 + sget (reducing (inBucket .lap)) F.LNK_RED_TMO.TICKS ≤ (reducing (inBucket .lap)).tick) := by
  have h : ∀ y ∈ lapCases, ((isFrozen (arrived (pRtrl y.1 y.2.1 [y.2.2.1]) (reducing y.2.2.2.2)) = false ∧
      isStopped (arrived (pRtrl y.1 y.2.1 [y.2.2.1]) (reducing y.2.2.2.2)) = false) ∧
      (pktType (pRtrl y.1 y.2.1 [y.2.2.1]) = 5 ∧ pktBad (pRtrl y.1 y.2.1 [y.2.2.1]) = false) ∧
      bucketOf (arrived (pRtrl y.1 y.2.1 [y.2.2.1]) (reducing y.2.2.2.2)) (pRtrl y.1 y.2.1 [y.2.2.1]) = some (0, y.2.2.2.1, y.2.2.2.2) ∧
      pktRun (pRtrl y.1 y.2.1 [y.2.2.1]) = y.2.2.2.2.run) ∧ pktW1 (pRtrl y.1 y.2.1 [y.2.2.1]) 51 48 = y.2.1 := by decide +kernel
  exact ⟨fun y hy => ⟨bucketPacket_of _ _ _ _ _ _ (h y hy).1, (h y hy).2⟩,
    ⟨⟨by decide +kernel, by decide +kernel⟩, ⟨by decide +kernel, by decide +kernel⟩, by decide +kernel, by decide +kernel, fun rs => readsAll_of _ _ rs (by decide +kernel)⟩, by decide +kernel⟩

/-! ### Cairn -/

/-- Partition 0 in a state of Cairn, with fields put and time passed. -/
def cairn (st : Nat) (l : List (Fld × Nat × Nat × Nat)) : State := { puts ((F.CRN_STAT.STATE, st, 0, 0) :: l) protectedState with tick := 2 ^ 40 }
def committing (l : List (Fld × Nat × Nat × Nat)) : State := modPart (cairn 1 l) 0 (fun x => { x with committing := true, step := 1 })
def mirroring : State := modPart (cairn 1 []) 0 (fun x => { x with mirror := some ⟨9, 0⟩ })
def staging : State := puts [(F.CRN_CKSTAT.STAGE, 1, 0, 0), (F.CRN_CKSIZE.MIB, 2, 0, 0), (F.CRN_CKAREA.ADDR, 0x20, 0, 0)] running
/-- All copied, but not sealed. -/
def copied : State := puts [(F.CRN_CKSTAT.STAGE, 2, 0, 0)] staging
theorem wit_CommitsMirrorsAndCheckpoints :
    (let s := committing [(F.LNK_VBARST.GEN, 1, 0, 0)]
     coreActs s 2 = true ∧ isStopped s = false ∧ commitReady s 0 = true ∧ (bar s 64).locals = [] ∧ (bar s 64).left = false) ∧
    (let s := modPart (committing []) 0 (fun x => { x with arrived := true })
     (part s 0).committing = true ∧ (part s 0).arrived = true ∧ (part s 0).timeoutSent = false ∧
     (part s 0).commitSince + sget s F.CRN_COMMIT_TMO.TICKS 0 ≤ s.tick) ∧
    (∀ rs, ReadsAll (srcCore 2) (committing [(F.LNK_VBARST.GEN, 1, 0, 0)]) (committing [(F.LNK_VBARST.GEN, 1, 0, 0)]) rs) ∧
    (coreActs mirroring 2 = true ∧ (part mirroring 0).mirror = some ⟨9, 0⟩ ∧ 0 + sget mirroring F.CRN_COMMIT_TMO.TICKS 0 ≤ mirroring.tick ∧
      fget mirroring F.CRN_MIRSTAT.SEND 0 ≠ 3) ∧
    (let s := cairn 1 [(F.CRN_MIRSTAT.SEND, 3, 0, 0)]; coreActs s 2 = true ∧ fget s F.CRN_MIRSTAT.SEND 0 = 3 ∧ natBit (2 ^ 16 + 9) 16 = true ∧ nget s.held (regAddr .CRN_BUDDY 0 0) = none) ∧
    (coreActs staging 2 = true ∧ isStopped staging = false ∧ fget staging F.CRN_CKSTAT.STAGE 0 = 1 ∧ 2 * MiB ≤ areaSize staging 0 ∧
      areaBase staging 0 + areaSize staging 0 ≤ 0x400000000000 ∧
      fget (finishCopy staging 0) F.CRN_CKSTAT.STAGE 0 = 2) ∧
    (finishCopy copied 0 = copied ∧ fget copied F.CRN_CKSTAT.STAGE 0 = 2 ∧ areaBase copied 0 + areaSize copied 0 ≤ 0x400000000000 ∧
      imageBytes copied 0 0 (storeChunks copied 0 0) + MiB ≤ areaSize copied 0) ∧
    ∀ src rs, ReadsAll src copied copied rs :=
  ⟨by decide +kernel, by decide +kernel, fun rs => readsAll_of _ _ rs (by decide +kernel), by decide +kernel, by decide +kernel, by decide +kernel, by decide +kernel,
    fun _ rs => readsAll_of _ _ rs (by decide +kernel)⟩

theorem wit_CairnCommands : (∀ st ∈ [0, 1, 2, 3, 4], coreActs (cairn st []) 2 = true ∧ fget (cairn st []) F.CRN_STAT.STATE 0 = st) ∧
    (let s := cairn 2 [(F.CRN_ARRIVED.STEP, 1, 0, 0)]; fget s F.CRN_ARRIVED.STEP 0 = fget s F.CRN_EPOCH.EPOCH 0 + 1) ∧
    (let s := cairn 4 [(F.CRN_ARG.ARG, 0x200000, 0, 0)]
     within (reg s .CRN_ARG).toNat (readRecord s (reg s .CRN_ARG).toNat).length (winLo s 0) (winHi s 0) = true ∧
     outSlot s 0 (fget s F.CRN_EPOCH.EPOCH 0) + (readRecord s (reg s .CRN_ARG).toNat).length ≤ 2 ^ 48 ∧
     fget s F.CRN_EPOCH.EPOCH 0 < (reg s .CRN_ARG).toNat) ∧
    (let s := puts [(F.HUB_CORE_STAT.STATE, 1, 2, 0)] (cairn 1 []); isFrozen s = false ∧ coreRuns s 2 = false) ∧
    (let s := cairn 3 [(F.CRN_REST.RESULT, 3, 0, 0)]; 3 ≤ fget s F.CRN_REST.RESULT 0 ∧ (reg s .CRN_ARG).toNat ≤ fget s F.CRN_EPOCH.EPOCH 0) ∧
    (let s := cairn 3 [(F.CRN_REST.RESULT, 1, 0, 0)]; fget s F.CRN_REST.RESULT 0 = 1) ∧
    (let s := cairn 1 [(F.CRN_CKSTAT.STAGE, 3, 0, 0)]; fget s F.CRN_CKSTAT.STAGE 0 = 3 ∧ (reg s .CRN_ARG).toNat = fget s F.CRN_CKEPOCH.EPOCH 0) := by decide +kernel

/-! ### Power -/

def noSample : Sampled := ⟨800, 1000, [], 800000⟩
theorem wit_EnergyIsCountedAndGoverned : (isFrozen running = false ∧ running.tick % 125 = 0 ∧ running.tick % 1250 = 0 ∧ running.power.sampled ≠ running.tick + 1 ∧
      running.power.period ≠ running.tick + 1 ∧ (List.replicate 50 noSample).length = 50 ∧ (List.replicate 8 noSample).length = 8) ∧
    (vfKnown { running with boot := { running.boot with digests := [(5, [])] } } = true ∧ running.power.ceiling = none ∧ isStopped running = false ∧ 460 ≤ (⟨0, 460⟩ : Sensor).tj.toNat) ∧
    (let s := modPower running (fun x => { x with pending := some (7, 7) })
     s.power.pending = some (7, 7) ∧ changePermitted s = true ∧ aligned s = true ∧ voltOf s 7 ≤ voltNow s) ∧
    (let s := { modClu running 31 (fun k => { k with droopHold := some 0 }) with tick := 1000 }
     isFrozen s = false ∧ (clu s 31).droopHold = some 0 ∧ 0 + sget s F.PWR_DROOP_CFG.HOLD ≤ s.tick) := by decide

/-- A request at the head of the wake queue, with the tick's token refilled. -/
def queued (w : WakeReq) (s : State) : State := modPower s (fun x => { x with queue := [w], refilled := s.tick + 1 })
/-- Cooling is back after a stop; cooling is lost. -/
def cooled : State := puts [(F.PWR_STOP_STAT.STOPPED, 1, 0, 0), (F.PWR_STOP_STAT.COOL_OK, 1, 0, 0), (F.PWR_STOP_STAT.CAUSE, 1, 0, 0), (F.PWR_STOP_STAT.OK_TICKS, 125000000, 0, 0)] running
theorem wit_TokensDomainsAndStops :
    (let s := puts [(F.PWR_TOK_STAT.TOKENS, 63, 0, 0)] running
     isFrozen s = false ∧ s.power.refilled ≠ s.tick + 1 ∧ fget s F.PWR_TOK_STAT.TOKENS < 64) ∧
    (let s := queued ⟨0, 31, 0⟩ running; s.power.queue = [⟨0, 31, 0⟩] ∧ canGrant s ⟨0, 31, 0⟩ = true) ∧
    (let r := readyOp (.mma .e4m3 .e4m3 false false) (3 * 2 ^ 50); let s := queued ⟨0, 67, 0⟩ (readyTo (.mma .e4m3 .e4m3 false false) (3 * 2 ^ 50))
     s.power.queue = [⟨0, 67, 0⟩] ∧ canGrant s ⟨0, 67, 0⟩ = true ∧ (clu s 0).inflight.find? (fun o => o.id = 0 && !o.begun) = some r ∧ isRemote r = false ∧
     mapFault s 0 r = none) ∧
    NoStash 0 (readyOp (.mma .e4m3 .e4m3 false false) (3 * 2 ^ 50)) ∧
    (let s := { modPower running (fun x => { x with waking := [(0, 0), (47, 0)] }) with tick := 500 }
     nget s.power.waking 0 = some 0 ∧ nget s.power.waking 47 = some 0 ∧ 0 + 500 ≤ s.tick) ∧
    (mayRetain running 31 = true ∧ mayRetain running 0 = false ∧ domState running 0 ≠ 1 ∧
      let s := setDom running 31 1; domState s 31 = 1 ∧ s.power.queue.any (fun w => w.code == 31) = false) ∧
    (isStopped cooled = true ∧ fbit cooled F.PWR_STOP_STAT.COOL_OK = true ∧ 125000000 ≤ fget cooled F.PWR_STOP_STAT.OK_TICKS ∧
      fget cooled F.PWR_STOP_STAT.CAUSE < 2 ∧ isStopped running = false) ∧
    (let s := modPower running (fun x => { x with coolLow := 125 }); isStopped s = false ∧ 125 ≤ s.power.coolLow) :=
  ⟨by decide, by decide, by decide, noStash_of_nil _ _ rfl (by decide), by decide, by decide, by decide, by decide⟩

/-! ### Integrity -/

/-- LPDDR5X of 1 GiB; a scrubber pass over 64 bytes at 0 set up, and one running. -/
def scrubbing (busy : Nat) : State := puts [(F.HUB_MEM_TOP.BYTES, 2 ^ 30, 0, 0), (F.ECC_SCR_LEN.BYTES, 64, 0, 0), (F.ECC_SCR_REC.ADDR, 64, 0, 0), (F.ECC_SCR_STAT.BUSY, busy, 0, 0)] running
def entryOf (code : Nat) : FbEntry := ⟨5, 0x10, code, 1, 2, 3⟩
theorem wit_IntegrityIsKept :
    (let s := scrubbing 0
     isFrozen s = false ∧ fget s F.ECC_SCR_STAT.BUSY = 0 ∧ fget s F.ECC_SCR_LEN.BYTES = 64 ∧ fget s F.ECC_SCR_ADDR.ADDR = 0 ∧ inOneRow s 0 64 = true ∧
     fget s F.ECC_SCR_REC.ADDR = 64 ∧ 64 + 192 ≤ memTop s) ∧ fget (scrubbing 1) F.ECC_SCR_STAT.BUSY = 1 ∧
    (let s := { scrubbing 1 with integ := { Integrity.reset with scrub := some ⟨0, 0, 1, 0, 64, 64⟩ } }
     isStopped s = false ∧ coreRuns s 3 = true ∧ s.integ.scrub = some ⟨0, 0, 1, 0, 64, 64⟩) ∧
    (let s := { running with tick := 2 ^ 40, integ := { Integrity.reset with places := [⟨1, 5, 1, 0, 0, false, [], false⟩], pending := [(1, 5, 0)] } }
     isFrozen s = false ∧ s.integ.places[0]? = some ⟨1, 5, 1, 0, 0, false, [], false⟩ ∧ 0 + 2 ^ 40 ≤ s.tick ∧ coreRuns s 3 = true ∧ ∃ d ∈ s.integ.pending, d.1 ≠ 3) ∧
    (let s := { running with boot := { running.boot with held := 2 } }; s.boot.held = 2 ∧ isStopped s = false) ∧
    (let s := { running with fb := [entryOf 0x0500] }; fget s F.FBK_STAT.FROZEN = 0 ∧ ∀ e ∈ s.fb, e.code < 0x8000) ∧ (0x8000 ≤ (entryOf 0x8001).code ∧ 1 ≤ min (4 - 0) [entryOf 0x8001, entryOf 0x0500].length) ∧
    ((∀ x ∈ identities running, x.2.1 = x.2.2) ∧ let s := { running with fbOffered := 1 }; ∃ x ∈ identities s, x.2.1 ≠ x.2.2) := by decide +kernel

/-! ### Meridian -/

/-- The Meridian port in a state, its domain on, version 2 agreed, session 15 open with a credit. -/
def merIn (st : Nat) : State :=
  { puts [(F.MBX_MER_STAT.STATE, st, 0, 0), (F.MBX_MER_STAT.VERSION, 2, 0, 0), (F.MBX_SESS_STAT.OPEN, 1, 15, 0), (F.MBX_SESS_STAT.TXCRED, 1, 15, 0)] protectedState with
    tick := 0x10000000, power := { running.power with on := [48] } }
def helloOf (vmin vmax : Nat) : Frame := mkFrame (frameHdr 0 1 0 false true 32 0 0 0 0 0 0) (leBytes 1 vmin ++ leBytes 1 vmax ++ [8] ++ zeros 29)
theorem wit_MeridianPortComesUp : (isFrozen (merIn mDOWN) = false ∧ 2 ≤ phase (merIn mDOWN) ∧ (merIn mDOWN).power.on.contains 48 = true ∧
      ∀ st ∈ [mDOWN, mLOCK, mHELLO, mUP], merState (merIn st) = st ∧ (merIn st).merSince + 6250000 ≤ (merIn st).tick ∧ (merIn st).helloTick = none) ∧
    (∀ f ∈ [helloOf 1 2, helloOf 0 0], heard f = f ∧ frameCrcOk f = true ∧ frType f = 1 ∧ f.payload.length = 32) ∧
    frameCrcOk (heard { helloOf 1 2 with crc := 0 }) = false ∧
    (bNat (helloOf 1 2).payload 0 1 ≤ min (bNat (helloOf 1 2).payload 1 1) (ownVermax (merIn mHELLO)) ∧
      1 ≤ min (bNat (helloOf 1 2).payload 1 1) (ownVermax (merIn mHELLO)) ∧ min (bNat (helloOf 0 0).payload 1 1) (ownVermax (merIn mHELLO)) < 1) := by decide +kernel

/-- A CMD frame of session 15 with a TELEM command, and a CTRL frame. -/
def cmdFrame (seq : Nat) : Frame := mkFrame (frameHdr 2 2 15 false true 16 seq 0 0 6 0 7) (zeros 16)
/-- A WRITE to HUB_CORE_RELEASE. -/
def releaseFrame : Frame := mkFrame (frameHdr 2 2 15 false true 24 0 0 0 4 0 7)
  (leBytes 8 (regAddr .HUB_CORE_RELEASE 0 0) ++ leBytes 4 4 ++ zeros 4 ++ leBytes 8 1)
def ctrlFrame (nak : Bool) : Frame := mkFrame (frameHdr 2 5 15 nak false 0 0 0 3 0 0 0) []
theorem wit_MeridianFramesFlow : isFrozen (merIn mUP) = false ∧
    (∀ f ∈ [cmdFrame 0, cmdFrame 5, ctrlFrame false, ctrlFrame true, releaseFrame], heard f = f ∧ frameCrcOk f = true ∧ frameFits (merIn mUP) f = true ∧ frSession f = 15) ∧
    (frType (cmdFrame 0) = 2 ∧ frLast (cmdFrame 0) = true ∧ (sess (merIn mUP) 15).asm = none ∧ frSeq (cmdFrame 0) = (ackOf (sess (merIn mUP) 15) + 1) % 65536 ∧
      frSeq (cmdFrame 5) ≠ (ackOf (sess (merIn mUP) 15) + 1) % 65536 ∧ isRelease ⟨6, 7, zeros 16⟩ = false ∧ autoAnswer (merIn mUP) ⟨6, 7, zeros 16⟩ = none) ∧
    (isRelease ⟨frOp releaseFrame, frTag releaseFrame, releaseFrame.payload⟩ = true ∧ frType releaseFrame = 2 ∧ frLast releaseFrame = true ∧
      frSeq releaseFrame = (ackOf (sess (merIn mUP) 15) + 1) % 65536 ∧ (merIn mUP).boot.fwRuns = true) ∧
    ((cmdFrame 0).hdr.length = 16 ∧ frLen (cmdFrame 0) = (cmdFrame 0).payload.length ∧ (cmdFrame 0).payload.length % 8 = 0 ∧ startWord ∉ [0, 1]) ∧
    (frType (ctrlFrame true) = 5 ∧ frNak (ctrlFrame true) = true ∧ frNak (ctrlFrame false) = false) ∧
    (let s := modSess (merIn mUP) 15 (fun x => { x with sent := [(0, ctrlFrame false)], outgoing := [cmdFrame 0] })
     merState s = mUP ∧ (sess s 15).sent ≠ [] ∧ (sess s 15).sentTick + sget s F.MBX_MER_CFG.ACK_TMO ≤ s.tick ∧ (sess s 15).outgoing = [cmdFrame 0] ∧
     portLives s = true ∧ fget s F.MBX_SESS_STAT.TXCRED 15 ≠ 0 ∧ (sess s 15).sent.length < 64 ∧ (cmdFrame 0).hdr.length = 16) := by decide +kernel

/-- A command at the front of session 15. -/
def fronting (c : MerCmd) (s : State) : State := modSess s 15 (fun x => { x with cmds := [c] })
theorem atFront_of (s : State) (c : MerCmd) (h : isFrozen (fronting c s) = false ∧ coreRuns (fronting c s) 0 = true ∧ (sess (fronting c s) 15).cmds = [c] ∧
    (sess (fronting c s) 15).dead = false ∧ mayStart (fronting c s) 15 = true) : AtFront (fronting c s) 15 c.op c := ⟨h.1, h.2.1, h.2.2.1, rfl, h.2.2.2.1, h.2.2.2.2⟩
/-- A LOAD of 128 bytes at 1 MiB for partition 7, which has cluster 31, all clusters on and no image; an UNLOAD of partition 0. -/
def loadable : State := { puts [(F.HUB_PART.CLUSTERS, 2 ^ 31, 7, 0), (F.HUB_WIN.SIZE, 64, 7, 0)] (merIn mUP) with power := { running.power with on := [48] } }
def cLoad : MerCmd := ⟨1, 5, leBytes 8 7 ++ leBytes 8 128 ++ leBytes 8 0x100000 ++ zeros 128⟩
/-- The same with the header of an image of one layer and one cluster. -/
def header1 : List Byte := leBytes 4 0x494A524B ++ leBytes 2 2 ++ leBytes 2 128 ++ zeros 4 ++ leBytes 2 1 ++ leBytes 2 1 ++ leBytes 4 1 ++ zeros 12 ++
  leBytes 8 0x200000 ++ leBytes 8 0x210000 ++ leBytes 8 0x220000 ++ zeros 8 ++ leBytes 8 0x220000 ++ zeros 8 ++ leBytes 8 0x230000 ++ leBytes 8 0x1000 ++
  leBytes 8 0x240000 ++ leBytes 8 0x250000 ++ zeros 16
def cLoadGood : MerCmd := ⟨1, 5, leBytes 8 7 ++ leBytes 8 128 ++ leBytes 8 0x100000 ++ header1⟩
def cUnload : MerCmd := ⟨1, 5, zeros 16⟩
def cOf (op a n : Nat) (l : List Byte) : MerCmd := ⟨op, 5, leBytes 8 a ++ leBytes 4 n ++ zeros 4 ++ l⟩
theorem wit_MeridianCommandsAnswer :
    (∀ x ∈ [(cLoad, loadable), (cLoadGood, loadable), (cUnload, merIn mUP), (cOf 2 0 0 [], merIn mUP), (cOf 3 0x1000 64 [], loadable), (cOf 4 0x1000 8 (zeros 8), loadable), (cOf 6 255 0 [], merIn mUP),
        (cOf 7 0 0 (zeros 64), merIn mUP), (cOf 8 0x465A 0 [], merIn mUP)], AtFront (fronting x.1 x.2) 15 x.1.op x.1) ∧
    (let s := fronting cLoad loadable
     loadLen cLoad = 128 ∧ loadPart cLoad = 7 ∧ (sess s 15).started = false ∧ coreRuns s 1 = true ∧ cLoad.data.length = (pad8 (zeros (24 + 128))).length ∧
     within (loadAddr cLoad) 128 (winLo s 7) (winHi s 7) = true ∧ isReady s = true ∧ fget s F.HUB_PART.CLUSTERS 7 ≠ 0 ∧ (part s 7).image = none ∧ (∀ k, k < 32 → domState s k = 0) ∧
     winHi s 7 ≤ 0x400000000000 ∧ imgFail (expelFrom s 7) 7 (fixLen 128 ((cLoad.data.drop 24).take 128)) ≠ none ∧
     imgFail (expelFrom s 7) 7 (fixLen 128 ((cLoadGood.data.drop 24).take (loadLen cLoadGood))) = none ∧
     cLoadGood.data.length = (pad8 (zeros (24 + 128))).length ∧ loadPart cLoadGood = 7 ∧ loadAddr cLoadGood = loadAddr cLoad) ∧
    (loadLen cUnload = 0 ∧ isReady (merIn mUP) = true ∧ fget (merIn mUP) F.HUB_PART.CLUSTERS 0 ≠ 0 ∧ fget (merIn mUP) F.CRN_STAT.STATE 0 = 0 ∧
      (part (merIn mUP) 0).image.isSome = true ∧ (part (modPart (merIn mUP) 0 (fun x => { x with epochSet := true })) 0).epochSet = true ∧
      (part (modPart (merIn mUP) 0 (fun x => { x with step := 1 })) 0).step ≠ 0) ∧
    (let s := puts [(F.HUB_MEM_TOP.BYTES, 2 ^ 30, 0, 0)] loadable
     s.boot.fwRuns = true ∧ inRegs 0x1000 = false ∧ mappedBytes s 0x1000 64 = 64 ∧ (cOf 4 0x1000 8 (zeros 8)).data.length = (pad8 (zeros (16 + 8))).length) ∧
    ((cOf 7 0 0 (zeros 64)).data.length = 80 ∧ bNat (cOf 8 0x465A 0 []).data 0 2 = 0x465A) := by
  refine ⟨?_, by decide +kernel, by decide +kernel, by decide +kernel, by decide +kernel⟩
  intro x hx
  exact atFront_of _ _ (by revert x; decide +kernel)

/-- A frozen P40 whose session 15 asks for 64 bytes of segment 0. -/
def frozen : State := { running with freeze := { running.freeze with frozen := true, record := zeros 256 } }
theorem wit_MeridianCommandsAnswer_readout : let s := fronting (cOf 9 0x200 0 []) frozen
    isFrozen s = true ∧ portLives s = true ∧ mayStart s 15 = true ∧ (readoutBytes s 0x200 0 64).isSome = true := by decide +kernel

/-- A mailbox with a notice of the hub, and a closed one. -/
def boxed (n full closed : Nat) : State := puts [(F.MBX_STAT.FULL, full, n, 0), (F.MBX_STAT.CLOSED, closed, n, 0)] (merIn mUP)
def cMbx (sub n k : Nat) : MerCmd := ⟨5, 5, leBytes 1 sub ++ leBytes 1 n ++ leBytes 2 k ++ zeros 12⟩
theorem wit_MailboxesAndDoorbells :
    (∀ x ∈ [(cMbx 1 47 0, boxed 47 0 0), (cMbx 1 47 0, boxed 47 1 0), (cMbx 1 63 0, boxed 63 0 1), (cMbx 2 55 0, boxed 55 1 0), (cMbx 3 63 0, boxed 63 0 0), (cMbx 4 0 63, boxed 0 0 0)],
      AtFront (fronting x.1 x.2) 15 5 x.1) ∧
    (mbxFull (boxed 47 0 0) 47 = false ∧ mbxClosed (boxed 47 0 0) 47 = false ∧ mbxFull (boxed 47 1 0) 47 = true ∧ mbxClosed (boxed 63 0 1) 63 = true ∧
      mbxFull (boxed 55 1 0) 55 = true ∧ 0 + sget (boxed 47 1 0) F.MBX_MER_MBXTMO.TICKS ≤ (boxed 47 1 0).tick ∧
      inRun (boxed 0 0 0) 0 = true ∧ nget (clu (boxed 0 0 0) 0).bells 63 = none ∧ tokFull (boxed 0 0 0) 0 (192 + 63) 1 = false) ∧
    (coreRuns (boxed 47 1 0) 0 = true ∧ receiverOf 47 = 0 ∧ mbxFull (boxed 63 1 0) 63 = true ∧ receiverOf 63 = 1 ∧ receiverOf 31 = 1 ∧ mbxFull (boxed 31 1 0) 31 = true ∧
      (clu (boxed 31 1 0) 31).notices = []) ∧
    (let s := { boxed 55 0 0 with records := [(7, [64])] }; coreActs s 0 = true ∧ nget s.records 7 = some [64] ∧ mbxFull s (48 + 7) = false) ∧
    (coreRuns running 3 = true ∧ inRun running 0 = true ∧ (clu running 0).bells = [] ∧ ∀ n ∈ List.range 64, tokFull running 0 (192 + n) 1 = false) := by
  refine ⟨?_, by decide +kernel, by decide +kernel, by decide +kernel, by decide +kernel⟩
  intro x hx
  have h : x.1.op = 5 := by revert x; decide
  exact h ▸ atFront_of _ _ (by revert x; decide +kernel)

/-! ### Resets and start-up -/

/-- READY, and 48 V gone. -/
def powerless (since : Option Nat) : State := { running with tick := 20000000, boot := { running.boot with inputOn := false, goodSince := since } }
theorem wit_InputAndResets : (running.boot.inputOn = true ∧ running.freeze.lost = false ∧ isFrozen running = false ∧ fget running F.HUB_BOOT_STAT.READY = 1 ∧
      running.boot.lowSamples = 0 ∧ running.boot.highSamples = 0 ∧ isFrozen frozen = true ∧ frozen.boot.inputOn = true ∧ frozen.freeze.lost = false) ∧
    ((0x52530002 : BitVec 32).toNat / 65536 = 0x5253 ∧ (0x52530002 : BitVec 32).toNat % 4 = 2 ∧ (0x52530001 : BitVec 32).toNat / 65536 = 0x5253 ∧
      (0x52530001 : BitVec 32).toNat % 4 = 1 ∧ (0x52520001 : BitVec 32).toNat / 65536 ≠ 0x5253) ∧
    (let s := puts [(F.HUB_BOOT_STAT.READY, 0, 0, 0)] running; isFrozen s = false ∧ s.boot.inputOn = true ∧ fget s F.HUB_BOOT_STAT.READY = 0) ∧
    (let s := { running with boot := { running.boot with lowSamples := 1, highSamples := 1 } }; s.boot.lowSamples ≠ 0 ∧ s.boot.highSamples ≠ 0) ∧
    ((powerless none).boot.inputOn = false ∧ (powerless none).boot.goodSince = none ∧ (powerless (some 7)).boot.goodSince = some 7 ∧ 7 + 12500000 ≤ (powerless (some 7)).tick) := by
  decide

/-- Start-up in a phase, a cold one or a warm one, with domains on. -/
def starting (k : Nat) (warm : Bool) (on : List Nat) : State :=
  { puts [(F.HUB_BOOT_STAT.PHASE, k, 0, 0), (F.HUB_MEM_STAT.ACTIVE, 256, 0, 0)] State.reset with
    tick := 8000000000, power := { Power.reset with on := on }, boot := { Boot.reset with warm := warm, fwRuns := 3 ≤ k, fwDigest := sha3 [] } }
theorem wit_StartUpPhases : (∀ k ∈ List.range 11, inPhase (starting k false []) k = true ∧ inPhase (starting k true []) k = true) ∧
    ((∀ n ∈ List.range 48, domainBusy (starting 5 false []) n = false) ∧ (starting 5 false []).power.on.contains 47 = false ∧
      (∀ n ∈ List.range 48, domainBusy (starting 5 false [47]) n = false) ∧ (starting 5 false [47]).power.on.contains 47 = true) ∧
    ((starting 0 false []).boot.since ≤ (starting 0 false []).tick ∧ fget (starting 8 false []) F.HUB_MEM_STAT.ACTIVE ≠ 0 ∧ fget (starting 10 false []) F.HUB_BOOT_STAT.TRIAL = 0) ∧
    (∀ k ∈ List.range 10, ∀ w ∈ [true, false], (starting k w []).boot.since + bootLimit k w ≤ (starting k w []).tick) ∧
    (selGood (starting 2 false []) = false ∧ bestSlot (cfgValid (starting 3 false [])) (cfgSeq (starting 3 false [])) = none) ∧
    ((0x101F : BitVec 16).toNat / 0x1000 = 1 ∧ (465 : BitVec 64).toNat < 466 ∧ (starting 7 true []).integ.recorded = []) ∧
    imageIntact (starting 2 true []) = true :=
  ⟨by decide +kernel, by decide +kernel, by decide +kernel, by decide +kernel, by decide +kernel, by decide +kernel, beq_self_eq_true (sha3 [])⟩

/-- The boot buffer holds firmware while FW_LOAD waits. -/
def heldForImage : State := { puts [(F.HUB_BOOT_STAT.PHASE, 2, 0, 0)] State.reset with boot := { Boot.reset with held := 1 } }
theorem wit_FirmwareCommands : (isFrozen running = false ∧ coreRuns running 0 = true ∧ running.boot.fwRuns = true ∧
      (let s := puts [(F.HUB_MEM_TOP.BYTES, 2 ^ 30, 0, 0), (F.HUB_FW_LEN.BYTES, 20000, 0, 0)] running; within (fwSource s) (fget s F.HUB_FW_LEN.BYTES) 0 (memTop s) = true) ∧
      phase running ≠ 2) ∧ (isFrozen heldForImage = false ∧ coreRuns heldForImage 0 = true ∧ phase heldForImage = 2 ∧ heldForImage.boot.held = 1) := by decide +kernel

theorem wit_FrozenAccess : (isFrozen running = false ∧ running.boot.inputOn = true ∧ phase running ≠ 0 ∧ isFrozen frozen = true ∧ frozen.boot.inputOn = true ∧ tapLives frozen = true ∧ smbLives frozen = true) ∧
    (let s := { frozen with tap := { frozen.tap with addr := BitVec.ofNat 64 ((0x200 + 31) * 2 ^ 48 + 72 * 0x7FFFF + 8 * 7) } }
     s.tap.addr.toNat = (0x200 + 31) * 2 ^ 48 + 72 * 0x7FFFF + 8 * 7) ∧
    (∀ r ∈ [RegName.FBK_RDIDX, .HUB_RESET, .HUB_PART], regAt (regAddr r 0 0) = some (r, 0, 0)) ∧
    (smbReads .FBK_RDIDX 0 = true ∧ smbReads .HUB_PART 0 = false ∧ mayWrite .HUB_PART .smbus = false) ∧
    (0x52530002 / 65536 = 0x5253 ∧ 0x52530002 % 4 = 2 ∧ isFrozen running = false ∧ smbLives running = true) := by decide +kernel

theorem wit_FrozenStaysFrozen : isFrozen frozen = true ∧ exec .tapReset frozen = .next { frozen with tap := ⟨.idcode, [], 0, 0⟩ } := ⟨by decide, rfl⟩
theorem wit_MemoryStaysCanonical : let s : State := { running with pending := [.tapReset] }
    s.memOk ∧ step s = .next { running with tap := ⟨.idcode, [], 0, 0⟩ } := ⟨show memWf running.lost running.mem = true by decide, rfl⟩
theorem wit_ResetAndTicks : running.pending = [] ∧ isFrozen running = false ∧ frozen.pending = [] ∧ isFrozen frozen = true ∧ frozen.boot.inputOn = true ∧
    running.boot.due = 0 ∧ running.tickSlew.natAbs < 32 ∧ running.boot.fwRuns = true ∧ coreRuns running 3 = true ∧ (Machine.core running 3).left ≠ 0 ∧
    (Machine.core (modCore running 3 (fun x => { x with met := some (8, 1) })) 3).met.isSome = true := by decide
theorem quietTick_of {s : State} (hm : ∀ n, n < 4 → (Machine.core s n).met = none)
    (hc : ∀ c, c < 32 → (stream s c .F).lastCycle = false ∧ (stream s c .B).lastCycle = false ∧ (clu s c).ramp = [])
    (hp : ∀ p, p < 8 → fget s F.CRN_CKSTAT.STAGE p ≠ 1 ∧ restoring s p = false) : QuietTick s :=
  ⟨hm, fun c k => ⟨fun st => by cases st; exacts [(hc c k).1, (hc c k).2.1], (hc c k).2.2⟩, hp⟩
theorem wit_ResetAndTicks_quiet : QuietTick running := quietTick_of (by decide) (by decide) (by decide)
/-- A warm reset, or a cold one, is due. -/
def resetDue (k : Nat) : State := { running with boot := { running.boot with due := k } }
theorem wit_InputAndResets_due : (∀ k ∈ [1, 2], (resetDue k).pending = [] ∧ isFrozen (resetDue k) = false ∧ (resetDue k).boot.due = k) ∧
    QuietTick (resetDue 1) := ⟨by decide, quietTick_of (by decide) (by decide) (by decide)⟩

/-! ### Reads, words, visibility -/

/-- A word of the near store with one syndrome. -/
def flawed (x : Byte) : State := { running with syn := [(0x410000010000, x)] }
theorem wit_ReadsFollowTheWordCode : (∀ x ∈ [0x01, 0x07, 0x7F, 0x03], storedIn (flawed x) 0x410000010000 (0x410000010000 + 8) = [(0x410000010000, x)]) ∧
    (classOf 0x01 = .checkBit ∧ (∃ i, classOf 0x07 = .dataBit i) ∧ classOf 0x7F = .poison ∧ classOf 0x03 = .ue) ∧
    (running.syn = [] ∧ running.tags = [] ∧ running.lines = [] ∧ running.lineSyn = [] ∧ ∀ p, p < 8 → fget running F.HUB_WIN.CACHE p = 0) :=
  ⟨by decide, ⟨by decide, ⟨_, rfl⟩, by decide, by decide⟩, by decide⟩

theorem wit_WordsSpellInstructions : issueOf (.add (ops 31 31 31 0)) = some (ops 31 31 31 0) ∧ (Instr.add (ops 31 31 31 0)).wf = true := by decide

/-- A byte that cluster 0 writes. -/
def oneByte (s : State) : State := wrNat s 0x410000010000 1 7
theorem wit_WritesBecomeVisible : (hiddenFrom running 0 = [] ∧ running.memOk ∧ (oneByte running).memOk ∧ (oneByte running).lost = running.lost) ∧
    (synAt running 0x410000010000 = 0 ∧ rdPlace (oneByte running) 0x410000010000 ≠ rdPlace running 0x410000010000) ∧
    (let s := throughView 0 oneByte running
     (∀ e ∈ s.unseen, e.2.writer = 0 ∧ e.2.fence ≤ (clu s 0).fences) ∧ (0x410000010000, Unseen.mk 0 0 0) ∈ s.unseen ∧ ngetD 0 (clu s 1).seen 0 ≤ 0) :=
  ⟨⟨by decide, show memWf running.lost running.mem = true by decide, show memWf (oneByte running).lost (oneByte running).mem = true by decide, by decide⟩,
    by decide, by decide⟩

end Sys2Proof.Tests
end

section
/-! SUPPORT. What an instruction does once its stream has fetched it: its body, or ILLEGAL (R194, R195); and what a write of the program
counter leaves. -/

namespace Sys2Proof.Machine

open Sys2Proof Sys2Proof.Statements

/-! ### Execution -/

/-- An instruction that executes does its body when no field is reserved, and is ILLEGAL otherwise (R195). -/
theorem issue_executes {s u : State} {i : Issue} (h : Executes s u i) (opc : Nat) (legal : Bool) (body : State → State) :
    issue opc legal body i s = .next (if legal = false then precise u i 0x01 (instrWord opc i) else body u) := by
  obtain ⟨⟨hcan, hrun, hcode, hread⟩, hon⟩ := h
  rw [issue_runs _ _ _ _ _ hcan hrun, issueNow_fetched _ _ _ _ _ _ hcode hread, if_neg (by simp [hon])]

theorem issue_legal {s u : State} {i : Issue} (h : Executes s u i) (opc : Nat) {legal : Bool} (body : State → State)
    (hl : legal = true) : issue opc legal body i s = .next (body u) := by simp [issue_executes h, hl]

theorem issue_illegal {s u : State} {i : Issue} (h : Executes s u i) (opc : Nat) {legal : Bool} (body : State → State)
    (hl : legal = false) : issue opc legal body i s = .next (precise u i 0x01 (instrWord opc i)) := by simp [issue_executes h, hl]

@[simp] theorem isS_eq_true_iff (n : Nat) : isS n = true ↔ n ≤ 31 := by simp [isS]
@[simp] theorem isA_eq_true_iff (n : Nat) : isA n = true ↔ n ≤ 15 := by simp [isA]
@[simp] theorem isP_eq_true_iff (n : Nat) : isP n = true ↔ n ≤ 7 := by simp [isP]
@[simp] theorem zeroBits_eq_true_iff (i : Issue) (hi lo : Nat) : zeroBits i hi lo = true ↔ fieldOf i hi lo = 0 := by simp [zeroBits]

/-! ### Registers of a stream, in the terms of the statements -/

theorem sreg_setSreg_read (x : StreamState) (n m : Nat) (v : Word) :
    sreg (setSreg x n v) m = if m = n ∧ m ≠ 0 then v else sreg x m := by
  rw [sreg_setSreg]; exact if_congr (and_congr_right (by rintro rfl; rfl)) rfl rfl

theorem preg_setPreg_read (x : StreamState) (n m : Nat) (v : Bool) :
    preg (setPreg x n v) m = if m = n ∧ m ≠ 0 then v else preg x m := by
  rw [preg_setPreg]; exact if_congr (and_congr_right (by rintro rfl; rfl)) rfl rfl

/-! ### Frames of elementary updates -/

theorem SameRegs.of_regs {l : List Nat} {s t : State} (h : t.regs = s.regs) : SameRegs l s t :=
  fun r i j _ => reg_eq_of_regs h r i j

/-- A write of a field touches the register at its address alone. -/
theorem SameRegs.fput {l : List Nat} {s t : State} (h : SameRegs l s t) (f : Fld) (v i j : Nat) (hf : regAddr f.reg i j ∈ l) :
    SameRegs l s (fput t f v i j) := by
  intro r i' j' hr
  rw [reg_fput_of_ne _ _ _ _ _ _ _ _ (fun e => hr (e ▸ hf))]
  exact h r i' j' hr

theorem SameRegs.setPc {l : List Nat} {s t : State} (h : SameRegs l s t) (c : Nat) (st : Stream) (v : Nat) (hp : pcAddr c st ∈ l) :
    SameRegs l s (setPc t c st v) := SameRegs.fput h _ _ _ _ hp

/-- What lies outside registers, clusters, the wake queue and the packets in flight decides what the stores read. -/
theorem ButWork.sameStores {s t : State} (h : ButWork s t) : SameStores s t := by
  intro a ha
  have hw : wordAddr a < 0x1000000000000 := by unfold wordAddr; omega
  rw [h]
  simp only [rdByte, rdPlace, lineSynAt, synAt, place_of_lt _ ha, place_of_lt _ hw, and_self]

theorem ButRegs.setPc {s t : State} (h : ButRegs s t) (c : Nat) (st : Stream) (v : Nat) : ButRegs s (setPc t c st v) := h.fput _ _ _ _
theorem ButRegsClusters.setPc {s t : State} (h : ButRegsClusters s t) (c : Nat) (st : Stream) (v : Nat) :
    ButRegsClusters s (setPc t c st v) := h.fput _ _ _ _

@[simp] theorem clu_setPc (s : State) (c : Nat) (st : Stream) (v d : Nat) : clu (setPc s c st v) d = clu s d := by rfl
@[simp] theorem stream_setPc (s : State) (c : Nat) (st : Stream) (v d : Nat) (st' : Stream) :
    stream (setPc s c st v) d st' = stream s d st' := by rfl
@[simp] theorem pcOf_modStr (s : State) (c : Nat) (st : Stream) (f : StreamState → StreamState) (d : Nat) (st' : Stream) :
    pcOf (modStr s c st f) d st' = pcOf s d st' := by rfl

theorem pcOf_lt (s : State) (c : Nat) (st : Stream) : pcOf s c st < 2 ^ 48 := by
  cases st <;> exact fget_lt s _ 0 c

theorem otherStream_ne (st : Stream) : otherStream st ≠ st := by cases st <;> decide

theorem modStr_sameOtherStream (s : State) (c : Nat) (st : Stream) (f : StreamState → StreamState) :
    SameOtherStream s (modStr s c st f) c st := by
  unfold SameOtherStream stream
  rw [clu_modStr_self, str_setStr_of_ne _ _ (otherStream_ne st)]

/-- A read of a register outside the mailbox block meets no posted notice. -/
theorem reg_mbxPost_seq (s : State) {n : Nat} (hn : n < 64) (w : Word) (k m : Nat) (r : RegName) (i j : Nat)
    (h : 0x7F0001000000 ≤ regAddr r i j) : reg (mbxPost s n w k m) r i j = reg s r i j :=
  reg_mbxPost_of_ne s n w k m r i j (ne_mailbox n hn h)

theorem pcAddr_ge (c : Nat) (st : Stream) : 0x7F0001000000 ≤ pcAddr c st := by
  cases st <;> simp only [pcAddr, pcFld, regAddr, regPlace, blockBase, blockStride] <;> omega

end Sys2Proof.Machine
end

section
/-! SUPPORT. The mailboxes after a post (R422), and a first trap as a whole (R184, R185). -/

namespace Sys2Proof.Machine

open Sys2Proof Sys2Proof.Statements

/-! ### A posted notice (R422) -/

theorem mbxPost_full (s : State) (n : Nat) (w : Word) (k m : Nat) : mbxFull (mbxPost s n w k m) n = true := by
  have full : fget (mbxPost s n w k m) F.MBX_STAT.FULL n = 1 := by
    unfold mbxPost
    simp only
    rw [fget_fput_other _ _ _ _ _ _ (by decide), fget_fput_other _ _ _ _ _ _ (by decide),
      fget_fput_other _ _ _ _ _ _ (by decide), fget_fput_other _ _ _ _ _ _ (by decide), fget_fput_self _ _ _ _ _ (by decide) (by decide)]
    rfl
  simp [mbxFull, fbit, full]

theorem reg_data_mbxPost (s : State) (n : Nat) (w : Word) (k m : Nat) : reg (mbxPost s n w k m) .MBX_DATA n = w := by
  have hstat : regAddr .MBX_DATA n 0 ≠ regAddr .MBX_STAT n 0 := by simp only [regAddr, regPlace, blockBase]; omega
  have hpeek : regAddr .MBX_DATA n 0 ≠ regAddr .MBX_PEEK n 0 := by simp only [regAddr, regPlace, blockBase]; omega
  unfold mbxPost
  simp only
  rw [reg_fput_of_ne, reg_fput_of_ne, reg_fput_of_ne, reg_fput_of_ne, reg_fput_of_ne, reg_setReg_of_ne, reg_setReg_self]
  all_goals assumption

/-- A mailbox is full or closed by its status register alone. -/
theorem mbxFull_of_reg {s t : State} {n : Nat} (h : reg t .MBX_STAT n = reg s .MBX_STAT n) : mbxFull t n = mbxFull s n := by
  unfold mbxFull fbit; rw [fget_of_reg F.MBX_STAT.FULL n 0 h]
theorem mbxClosed_of_reg {s t : State} {n : Nat} (h : reg t .MBX_STAT n = reg s .MBX_STAT n) : mbxClosed t n = mbxClosed s n := by
  unfold mbxClosed fbit; rw [fget_of_reg F.MBX_STAT.CLOSED n 0 h]

/-- A notice of the sequencer goes at once to a free mailbox of the cluster before which no other notice waits. -/
theorem seqNotice_free (s : State) (c kind : Nat) (hf : mbxFull s c = false) (hc : mbxClosed s c = false) (hn : (clu s c).notices = []) :
    seqNotice s c kind =
      mbxPost (modClu s c (fun k => { k with noticeSeq := k.noticeSeq + 1 })) c (noticeWord kind (clu s c).noticeSeq) 0 c := by
  have f : mbxFull (modClu s c (fun k => { k with noticeSeq := k.noticeSeq + 1 })) c = false := hf
  have g : mbxClosed (modClu s c (fun k => { k with noticeSeq := k.noticeSeq + 1 })) c = false := hc
  simp [seqNotice, f, g, hn]

/-! ### The mailbox of a cluster that traps -/

theorem notices_setStr (k : Cluster) (st : Stream) (x : StreamState) :
    (setStr k st x).notices = k.notices ∧ (setStr k st x).noticeSeq = k.noticeSeq := by cases st <;> exact ⟨rfl, rfl⟩

theorem notices_trapStreams (s : State) (c : Nat) (st : Stream) :
    (clu (trapStreams s c st) c).notices = (clu s c).notices ∧ (clu (trapStreams s c st) c).noticeSeq = (clu s c).noticeSeq := by
  unfold trapStreams
  simp only [clu_modStr_self]
  rw [(notices_setStr _ _ _).1, (notices_setStr _ _ _).2, clu_stopStreams_self]
  exact ⟨rfl, rfl⟩

/-- The state in which the first trap of a run places its notice. -/
def trapped (s : State) (c : Nat) (st : Stream) (pc cause info : Nat) (d : Bool) : State :=
  fput (discardOps (trapStreams (recordTrap s c st pc cause info d) c st) c) F.SEQ_STAT.STATE 2 0 c

theorem takeTrap_eq_seqNotice_trapped (s : State) (c : Nat) (st : Stream) (pc cause info : Nat) (d : Bool)
    (h : fbit s F.SEQ_TRAP_CAUSE.VALID 0 c = false) :
    takeTrap s c st pc cause info d = seqNotice (trapped s c st pc cause info d) c 2 := takeTrap_first s c st pc cause info d h

theorem notices_trapped (s : State) (c : Nat) (st : Stream) (pc cause info : Nat) (d : Bool) :
    (clu (trapped s c st pc cause info d) c).notices = (clu s c).notices ∧
    (clu (trapped s c st pc cause info d) c).noticeSeq = (clu s c).noticeSeq := by
  have record := (recordTrap_only s c st pc cause info d).clu c
  unfold trapped
  rw [clu_fput, clu_discardOps_self, ← record]
  exact notices_trapStreams _ c st

/-- A trap touches the status of no mailbox before it places its notice. -/
theorem reg_stat_trapped (s : State) {c : Nat} (hc : c < 32) (st : Stream) (pc cause info : Nat) (d : Bool) :
    reg (trapped s c st pc cause info d) .MBX_STAT c = reg s .MBX_STAT c := by
  unfold trapped
  have hwork : ¬ workAddr c (regAddr .MBX_STAT c 0) := by
    unfold workAddr; push Not
    refine ⟨?_, ?_, ?_, ?_, ?_, ?_⟩ <;> intros <;> simp only [regAddr, regPlace, blockBase, blockStride] <;> omega
  rw [reg_fput_of_ne, reg_discardOps_of_ne _ _ _ _ _ hwork, reg_trapStreams_of_ne, reg_recordTrap_of_ne]
  all_goals simp only [regAddr, regPlace, blockBase, blockStride]; omega

/-- A free mailbox of the cluster holds the TRAP notice (R184). -/
theorem takeTrap_notice (s : State) {c : Nat} (hc : c < 32) (st : Stream) (pc cause info : Nat) (d : Bool)
    (hv : fbit s F.SEQ_TRAP_CAUSE.VALID 0 c = false) (hfull : mbxFull s c = false) (hclosed : mbxClosed s c = false)
    (hn : (clu s c).notices = []) :
    mbxFull (takeTrap s c st pc cause info d) c = true ∧
    reg (takeTrap s c st pc cause info d) .MBX_DATA c = noticeWord 2 (clu s c).noticeSeq := by
  have stat := reg_stat_trapped s hc st pc cause info d
  obtain ⟨notices, count⟩ := notices_trapped s c st pc cause info d
  rw [takeTrap_eq_seqNotice_trapped _ _ _ _ _ _ _ hv,
    seqNotice_free _ _ _ ((mbxFull_of_reg stat).trans hfull) ((mbxClosed_of_reg stat).trans hclosed) (notices.trans hn), count]
  exact ⟨mbxPost_full _ _ _ _ _, reg_data_mbxPost _ _ _ _ _⟩

/-! ### The trap registers -/

theorem reg_info_recordTrap (s : State) (c : Nat) (st : Stream) (pc cause info : Nat) (d : Bool) :
    reg (recordTrap s c st pc cause info d) .SEQ_TRAP_INFO 0 c = BitVec.ofNat 64 info := reg_setReg_self _ _ _ _ _

theorem fget_pc_recordTrap (s : State) (c : Nat) (st : Stream) (pc cause info : Nat) (d : Bool) :
    fget (recordTrap s c st pc cause info d) F.SEQ_TRAP_PC.PC 0 c = pc % 2 ^ 48 := by
  unfold recordTrap
  rw [fget_setReg_of_ne]
  · exact fget_fput_self _ _ _ _ _ (by decide) (by decide)
  · simp only [regAddr, regPlace, blockBase, blockStride]; omega

/-- SEQ_TRAP_CAUSE holds the four fields that a trap puts there. -/
theorem reg_cause_recordTrap (s : State) (c : Nat) (st : Stream) (pc cause info : Nat) (d : Bool) :
    reg (recordTrap s c st pc cause info d) .SEQ_TRAP_CAUSE 0 c =
      reg (fput (fput (fput (fput s F.SEQ_TRAP_CAUSE.VALID 1 0 c) F.SEQ_TRAP_CAUSE.DEFERRED (b2n d) 0 c) F.SEQ_TRAP_CAUSE.STREAM
        (if st = .B then 1 else 0) 0 c) F.SEQ_TRAP_CAUSE.CAUSE cause 0 c) .SEQ_TRAP_CAUSE 0 c := by
  unfold recordTrap
  rw [reg_setReg_of_ne, reg_fput_of_ne]
  all_goals simp only [regAddr, regPlace, blockBase, blockStride]; omega

/-- The fields of SEQ_TRAP_CAUSE after a trap was recorded in them. -/
theorem fget_cause_recordTrap (s : State) (c : Nat) (st : Stream) (pc cause info : Nat) (d : Bool) :
    fget (recordTrap s c st pc cause info d) F.SEQ_TRAP_CAUSE.VALID 0 c = 1 ∧
    fget (recordTrap s c st pc cause info d) F.SEQ_TRAP_CAUSE.DEFERRED 0 c = b2n d ∧
    fget (recordTrap s c st pc cause info d) F.SEQ_TRAP_CAUSE.STREAM 0 c = (if st = .B then 1 else 0) ∧
    fget (recordTrap s c st pc cause info d) F.SEQ_TRAP_CAUSE.CAUSE 0 c = cause % 256 := by
  have put := reg_cause_recordTrap s c st pc cause info d
  refine ⟨(fget_of_reg F.SEQ_TRAP_CAUSE.VALID 0 c put).trans ?_, (fget_of_reg F.SEQ_TRAP_CAUSE.DEFERRED 0 c put).trans ?_,
    (fget_of_reg F.SEQ_TRAP_CAUSE.STREAM 0 c put).trans ?_, (fget_of_reg F.SEQ_TRAP_CAUSE.CAUSE 0 c put).trans ?_⟩
  · rw [fget_fput_other _ _ _ _ _ _ (by decide), fget_fput_other _ _ _ _ _ _ (by decide), fget_fput_other _ _ _ _ _ _ (by decide)]
    exact fget_fput_self _ _ _ _ _ (by decide) (by decide)
  · rw [fget_fput_other _ _ _ _ _ _ (by decide), fget_fput_other _ _ _ _ _ _ (by decide)]
    exact (fget_fput_self _ _ _ _ _ (by decide) (by decide)).trans (by cases d <;> rfl)
  · rw [fget_fput_other _ _ _ _ _ _ (by decide)]
    exact (fget_fput_self _ _ _ _ _ (by decide) (by decide)).trans (by cases st <;> rfl)
  · exact fget_fput_self _ _ _ _ _ (by decide) (by decide)

/-- The trap registers hold the first trap of a run (R184). -/
theorem takeTrap_recorded (s : State) {c : Nat} (hc : c < 32) (st : Stream) {pc cause : Nat} (info : Nat) (hpc : pc < 2 ^ 48)
    (hcause : cause < 256) (hv : fbit s F.SEQ_TRAP_CAUSE.VALID 0 c = false) :
    TrapRecorded (takeTrap s c st pc cause info false) c st pc cause info := by
  have kept := reg_takeTrap s c hc st pc cause info false hv
  obtain ⟨valid, deferred, strm, code⟩ := fget_cause_recordTrap s c st pc cause info false
  have cause_kept := kept .SEQ_TRAP_CAUSE (.inl rfl)
  exact ⟨(fget_of_reg F.SEQ_TRAP_CAUSE.VALID 0 c cause_kept).trans valid, (fget_of_reg F.SEQ_TRAP_CAUSE.DEFERRED 0 c cause_kept).trans deferred,
    (fget_of_reg F.SEQ_TRAP_CAUSE.STREAM 0 c cause_kept).trans strm,
    (fget_of_reg F.SEQ_TRAP_CAUSE.CAUSE 0 c cause_kept).trans (code.trans (Nat.mod_eq_of_lt hcause)),
    (fget_of_reg F.SEQ_TRAP_PC.PC 0 c (kept .SEQ_TRAP_PC (.inr (.inl rfl)))).trans
      ((fget_pc_recordTrap _ _ _ _ _ _ _).trans (Nat.mod_eq_of_lt hpc)),
    (kept .SEQ_TRAP_INFO (.inr (.inr rfl))).trans (reg_info_recordTrap _ _ _ _ _ _ _)⟩

/-! ### The first trap of a run -/

theorem takeTrap_stops (s : State) {c : Nat} (hc : c < 32) (st : Stream) (pc cause info : Nat) (d : Bool)
    (hv : fbit s F.SEQ_TRAP_CAUSE.VALID 0 c = false) : TrapStops s (takeTrap s c st pc cause info d) c st := by
  obtain ⟨inflight, tiles, streams⟩ := clu_takeTrap_self s c st pc cause info d hv
  obtain ⟨own, other⟩ := stream_trapStreams s c st
  exact ⟨(streams st).trans own, (streams _).trans other, inflight, tiles, tokPending_takeTrap s c hc st pc cause info d hv⟩

/-- The first trap of a run is recorded, stops the cluster and leaves everything outside it (R184, R185). -/
theorem takeTrap_trapTaken (s : State) {c : Nat} (hc : c < 32) (st : Stream) {pc cause : Nat} (info : Nat) (hpc : pc < 2 ^ 48)
    (hcause : cause < 256) (hvalid : fget s F.SEQ_TRAP_CAUSE.VALID 0 c = 0) :
    TrapTaken s (takeTrap s c st pc cause info false) c st pc cause info := by
  have hv : fbit s F.SEQ_TRAP_CAUSE.VALID 0 c = false := by simp [fbit, hvalid]
  have only := takeTrap_only s c st pc cause info false
  refine ⟨takeTrap_recorded s hc st info hpc hcause hv, state_takeTrap s c hc st pc cause info false hv,
    takeTrap_stops s hc st pc cause info false hv, only.sameStores, fun x hx => clu_takeTrap_of_ne s st pc cause info false hx,
    fun p => ?_, takeTrap_notice s hc st pc cause info false hv⟩
  unfold part; rw [only.parts]

theorem precise_trapTaken (s : State) (i : Issue) {cause : Nat} (info : Nat) (hcause : cause < 256)
    (hvalid : fget s F.SEQ_TRAP_CAUSE.VALID 0 i.cl = 0) :
    TrapTaken s (precise s i cause info) i.cl i.st (pcNow s i) cause info :=
  takeTrap_trapTaken s i.cl.isLt i.st info (pcOf_lt _ _ _) hcause hvalid

/-- An instruction with a reserved field set is ILLEGAL, with its word as the information (R195). -/
theorem illegal_trapTaken {s u : State} {i : Issue} (h : Executes s u i) (opc : Nat) {legal : Bool} (body : State → State)
    (hl : legal = false) (hvalid : fget u F.SEQ_TRAP_CAUSE.VALID 0 i.cl = 0) :
    ∃ t, issue opc legal body i s = .next t ∧ TrapTaken u t i.cl i.st (pcNow u i) 0x01 (instrWord opc i) :=
  ⟨_, issue_illegal h opc body hl, precise_trapTaken u i _ (by decide) hvalid⟩

end Sys2Proof.Machine
end

section
/-! SUPPORT. The results of R202 over the integers: what the model's operations on words, conditions and logic codes give. -/

namespace Sys2Proof.Machine

open Sys2Proof Sys2Proof.Statements

/-! ### Results over the integers, narrowed to 64 bits (R202) -/

/-- The value of sext(x), over the integers (R202). -/
theorem sext32_eq_ofInt (x : BitVec 32) : sext32 x = BitVec.ofInt 64 x.toInt := by rw [sext32, BitVec.signExtend]

theorem sext32_toInt (x : BitVec 32) : (sext32 x).toInt = x.toInt := BitVec.toInt_signExtend_of_le (by decide)

theorem add_eq_ofInt (a b : Word) : a + b = BitVec.ofInt 64 (a.toInt + b.toInt) := by
  rw [BitVec.ofInt_add, BitVec.ofInt_toInt, BitVec.ofInt_toInt]

theorem sub_eq_ofInt (a b : Word) : a - b = BitVec.ofInt 64 (a.toInt - b.toInt) := by
  apply BitVec.eq_of_toInt_eq
  rw [BitVec.toInt_sub, BitVec.toInt_ofInt]

theorem add_eq_ofNat (a b : Word) : a + b = BitVec.ofNat 64 (a.toNat + b.toNat) := by
  rw [BitVec.ofNat_add, BitVec.ofNat_toNat, BitVec.ofNat_toNat, BitVec.setWidth_eq, BitVec.setWidth_eq]

theorem mul_eq_ofNat (a b : Word) : a * b = BitVec.ofNat 64 (a.toNat * b.toNat) := by
  rw [BitVec.ofNat_mul, BitVec.ofNat_toNat, BitVec.ofNat_toNat, BitVec.setWidth_eq, BitVec.setWidth_eq]

theorem and_eq_ofNat (a b : Word) : a &&& b = BitVec.ofNat 64 (a.toNat &&& b.toNat) := by
  rw [← BitVec.toNat_and, BitVec.ofNat_toNat, BitVec.setWidth_eq]

theorem or_eq_ofNat (a b : Word) : a ||| b = BitVec.ofNat 64 (a.toNat ||| b.toNat) := by
  rw [← BitVec.toNat_or, BitVec.ofNat_toNat, BitVec.setWidth_eq]

theorem xor_eq_ofNat (a b : Word) : a ^^^ b = BitVec.ofNat 64 (a.toNat ^^^ b.toNat) := by
  rw [← BitVec.toNat_xor, BitVec.ofNat_toNat, BitVec.setWidth_eq]

theorem shiftLeft_eq_ofNat (a : Word) (n : Nat) : a <<< n = BitVec.ofNat 64 (a.toNat * 2 ^ n) := by
  apply BitVec.eq_of_toNat_eq
  rw [BitVec.toNat_shiftLeft, Nat.shiftLeft_eq, BitVec.toNat_ofNat]

theorem shiftRight_eq_ofNat (a : Word) (n : Nat) : a >>> n = BitVec.ofNat 64 (a.toNat / 2 ^ n) := by
  rw [← Nat.shiftRight_eq_div_pow, ← BitVec.toNat_ushiftRight, BitVec.ofNat_toNat, BitVec.setWidth_eq]

theorem sshiftRight_eq_ofInt (a : Word) (n : Nat) : a.sshiftRight n = BitVec.ofInt 64 (a.toInt / 2 ^ n) := by
  rw [← BitVec.ofInt_toInt (x := a.sshiftRight n), BitVec.toInt_sshiftRight, Int.shiftRight_eq_div_pow]
  push_cast
  rfl

/-- A choice by < is one by ≤ when the two results agree on equal keys. -/
theorem ite_lt_eq_ite_le {α β : Type} [LinearOrder β] {a b : β} {x y : α} (h : a = b → x = y) :
    (if a < b then x else y) = if a ≤ b then x else y := by
  rcases lt_trichotomy a b with hlt | heq | hgt
  · rw [if_pos hlt, if_pos hlt.le]
  · rw [h heq, ite_self, ite_self]
  · rw [if_neg hgt.not_gt, if_neg hgt.not_ge]

theorem sMin_eq (a b : Word) : sMin a b = if a.toInt ≤ b.toInt then a else b := by
  simp only [sMin, BitVec.slt_iff_toInt_lt]
  exact ite_lt_eq_ite_le fun h => BitVec.eq_of_toInt_eq h

theorem sMax_eq (a b : Word) : sMax a b = if a.toInt ≤ b.toInt then b else a := by
  simp only [sMax, BitVec.slt_iff_toInt_lt]
  exact ite_lt_eq_ite_le fun h => (BitVec.eq_of_toInt_eq h).symm

theorem uMin_eq (a b : Word) : uMin a b = if a.toNat ≤ b.toNat then a else b := by
  simp only [uMin, BitVec.ult_iff_lt, BitVec.lt_def]
  exact ite_lt_eq_ite_le fun h => BitVec.eq_of_toNat_eq h

theorem uMax_eq (a b : Word) : uMax a b = if a.toNat ≤ b.toNat then b else a := by
  simp only [uMax, BitVec.ult_iff_lt, BitVec.lt_def]
  exact ite_lt_eq_ite_le fun h => (BitVec.eq_of_toNat_eq h).symm

/-- lih: the immediate stands above the low 32 bits that stay. -/
theorem lih_eq_ofNat (n : BitVec 32) (a : Word) :
    n.zeroExtend 64 <<< 32 ||| (a &&& 0xFFFFFFFF) = BitVec.ofNat 64 (n.toNat * 2 ^ 32 + a.toNat % 2 ^ 32) := by
  have low : (a &&& 0xFFFFFFFF).toNat = a.toNat % 2 ^ 32 := by
    rw [BitVec.toNat_and]; exact Nat.and_two_pow_sub_one_eq_mod a.toNat 32
  have high : (n.zeroExtend 64 <<< 32).toNat = n.toNat <<< 32 := by
    have hn := n.isLt
    rw [BitVec.toNat_shiftLeft, Nat.shiftLeft_eq, Nat.shiftLeft_eq, BitVec.zeroExtend, BitVec.toNat_setWidth]
    omega
  rw [or_eq_ofNat, low, high, ← Nat.shiftLeft_add_eq_or_of_lt (Nat.mod_lt _ (by decide)), Nat.shiftLeft_eq]

/-! ### Conditions and logic codes (R202) -/

theorem not_slt_eq (a b : Word) : (!a.slt b) = decide (b.toInt ≤ a.toInt) := by
  rw [BitVec.slt_eq_decide, ← decide_not, decide_eq_decide, not_lt]

theorem not_ult_eq (a b : Word) : (!a.ult b) = decide (b.toNat ≤ a.toNat) := by
  rw [BitVec.ult_eq_decide, ← decide_not, decide_eq_decide, not_lt]

/-- The codes 0 to 5 of cmp and cmpi decide the conditions of the table. -/
theorem condOf_eq {cc : Nat} (h : cc ≤ 5) (a b : Word) : (condOf cc a b).getD false = condition cc a b := by
  match cc, h with
  | 0, _ => rfl
  | 1, _ => exact decide_not.symm
  | 2, _ => exact BitVec.slt_eq_decide
  | 3, _ => exact not_slt_eq a b
  | 4, _ => rfl
  | 5, _ => exact not_ult_eq a b

/-- The codes 0 to 3 of pop are the logic functions of the table. -/
theorem popOf_eq {cc : Nat} (h : cc ≤ 3) (a b : Bool) : (popOf cc a b).getD false = logic cc a b := by
  match cc, h with
  | 0, _ => rfl
  | 1, _ => rfl
  | 2, _ => cases a <;> cases b <;> rfl
  | 3, _ => rfl

/-- IMM bits 31:6 are zero exactly when the shift amount is below 64. -/
theorem shiftImmOk_iff (i : Issue) : shiftImmOk i = true ↔ (fIMM i).toNat < 64 := by
  have imm : (fIMM i).toNat = i.f.toNat % 2 ^ 32 := by simp [fIMM, fieldOf, natBits]
  have high : fieldOf i 31 6 = i.f.toNat / 64 % 2 ^ 26 := rfl
  rw [shiftImmOk, decide_eq_true_eq, imm, high]
  omega

end Sys2Proof.Machine
end

section
/-! SUPPORT. Branches (R205): where they go and what they leave; and the settlement of O9. -/

namespace Sys2Proof.Machine

open Sys2Proof Sys2Proof.Statements

/-- pc + 8 × sext(OFF) over the integers, narrowed to 64 bits. -/
theorem branchTarget_eq (s : State) (i : Issue) :
    branchTarget s i = BitVec.ofInt 64 ((pcNow s i : Int) + 8 * (fOFF i).toInt) := by
  rw [branchTarget, sext32_eq_ofInt, BitVec.ofInt_add, BitVec.ofInt_mul, BitVec.ofInt_natCast]
  rfl

/-- A stream's registers change by f and it goes to a target. -/
theorem branchTo_taken (target : Word) (f : StreamState → StreamState) (s : State) (i : Issue) (h48 : target.toNat < 2 ^ 48)
    (hcode : inCodeRegion s i.cl target.toNat = true) :
    branchTo target f s i = setPc (modStr s i.cl i.st f) i.cl i.st target.toNat := by
  rw [branchTo, if_pos (by rw [hcode, Bool.and_true]; exact decide_eq_true h48)]

theorem branchTo_outside (target : Word) (f : StreamState → StreamState) (s : State) (i : Issue)
    (h : 2 ^ 48 ≤ target.toNat ∨ inCodeRegion s i.cl target.toNat = false) :
    branchTo target f s i = precise s i 0x04 target.toNat := by
  rw [branchTo, if_neg]
  intro hin
  obtain ⟨h48, hcode⟩ := (Bool.and_eq_true _ _).mp hin
  rcases h with h | h
  · exact absurd (of_decide_eq_true h48) (Nat.not_lt.2 h)
  · simp [h] at hcode

/-- A taken branch leaves all but the stream's registers and its program counter, which stands at the target. -/
theorem branchTo_frame (target : Word) (f : StreamState → StreamState) (s : State) (i : Issue) (h48 : target.toNat < 2 ^ 48)
    (hcode : inCodeRegion s i.cl target.toNat = true) :
    pcNow (branchTo target f s i) i = target.toNat ∧ ButRegsClusters s (branchTo target f s i) ∧
    SameRegs [pcAddr i.cl i.st] s (branchTo target f s i) ∧ SameClusters i.cl s (branchTo target f s i) ∧
    SameOtherStream s (branchTo target f s i) i.cl i.st ∧ strOf (branchTo target f s i) i = f (strOf s i) := by
  rw [branchTo_taken _ _ _ _ h48 hcode]
  refine ⟨(pcOf_setPc_self _ _ _ _).trans (Nat.mod_eq_of_lt h48), ((ButRegsClusters.refl s).modStr _ _ _).setPc _ _ _,
    (SameRegs.of_regs rfl).setPc _ _ _ (by simp), fun d hd => clu_modStr_of_ne _ _ _ hd, ?_, ?_⟩
  · exact modStr_sameOtherStream s i.cl i.st f
  · exact stream_modStr_self s i.cl i.st f

/-- A taken branch that writes no register leaves every cluster. -/
theorem clu_branchTo_id (target : Word) (s : State) (i : Issue) (h48 : target.toNat < 2 ^ 48)
    (hcode : inCodeRegion s i.cl target.toNat = true) (c : Nat) : clu (branchTo target id s i) c = clu s c := by
  rw [branchTo_taken _ _ _ _ h48 hcode, clu_setPc]
  by_cases hc : c = i.cl
  · rw [hc, clu_modStr_self]; exact setStr_str _ _
  · exact clu_modStr_of_ne _ _ _ hc

/-- b and bi: an instruction that is a branch without a link goes to its target and changes nothing else. -/
theorem branch_goes {s u : State} {i : Issue} (h : Executes s u i) (opc : Nat) {legal : Bool} {target : State → Word} {n : Nat}
    (hl : legal = true) (hn : (target u).toNat = n) (h48 : n < 2 ^ 48) (hcode : inCodeRegion u i.cl n = true) :
    ∃ t, issue opc legal (fun t => branchTo (target t) id t i) i s = .next t ∧ pcNow t i = n ∧
      t = { u with regs := t.regs, clusters := t.clusters } ∧ SameRegs [pcAddr i.cl i.st] u t ∧ ∀ c, clu t c = clu u c := by
  subst hn
  obtain ⟨pc, rest, regs, -, -, -⟩ := branchTo_frame (target u) id u i h48 hcode
  exact ⟨_, issue_legal h opc _ hl, pc, rest, regs, clu_branchTo_id _ u i h48 hcode⟩

/-- bl goes to its target and links the next word in s[RD]. -/
theorem branch_links {s u : State} {i : Issue} (h : Executes s u i) (opc : Nat) {legal : Bool} {target : State → Word} {n : Nat}
    (hl : legal = true) (hn : (target u).toNat = n) (h48 : n < 2 ^ 48) (hcode : inCodeRegion u i.cl n = true) :
    ∃ t, issue opc legal (fun t => branchTo (target t) (fun x => setSreg x (fRD i) (BitVec.ofNat 64 (pcNow t i + 8))) t i) i s = .next t ∧
      pcNow t i = n ∧ t = { u with regs := t.regs, clusters := t.clusters } ∧ SameRegs [pcAddr i.cl i.st] u t ∧
      SameClusters i.cl u t ∧ SameOtherStream u t i.cl i.st ∧
      ∀ m, sreg (strOf t i) m = if m = fRD i ∧ m ≠ 0 then BitVec.ofNat 64 (pcNow u i + 8) else sreg (strOf u i) m := by
  subst hn
  obtain ⟨pc, rest, regs, clusters, other, own⟩ :=
    branchTo_frame (target u) (fun x => setSreg x (fRD i) (BitVec.ofNat 64 (pcNow u i + 8))) u i h48 hcode
  refine ⟨_, issue_legal h opc _ hl, pc, rest, regs, clusters, other, fun m => ?_⟩
  rw [own, sreg_setSreg_read]

/-- A branch to a target outside the code region is an ADDR_FAULT at the branch. -/
theorem branch_faults {s u : State} {i : Issue} (h : Executes s u i) (opc : Nat) {legal : Bool} {target : State → Word}
    (f : State → StreamState → StreamState) {n : Nat} (hl : legal = true) (hn : (target u).toNat = n)
    (hout : 2 ^ 48 ≤ n ∨ inCodeRegion u i.cl n = false) (hvalid : fget u F.SEQ_TRAP_CAUSE.VALID 0 i.cl = 0) :
    ∃ t, issue opc legal (fun t => branchTo (target t) (f t) t i) i s = .next t ∧ TrapTaken u t i.cl i.st (pcNow u i) 0x04 n := by
  subst hn
  refine ⟨_, issue_legal h opc _ hl, ?_⟩
  rw [branchTo_outside _ _ _ _ hout]
  exact precise_trapTaken u i _ (by decide) hvalid

end Sys2Proof.Machine

namespace Sys2Proof.Proofs

open Sys2Proof Sys2Proof.Machine Sys2Proof.Statements

/-- Settles O9: each branch goes to its target or faults there, by the rules of branchTo (R205). -/
theorem branchesGoToTheirTarget : Obligations.BranchesGoToTheirTarget := by
  intro i s u h
  have hrel := congrArg BitVec.toNat (branchTarget_eq u i)
  refine ⟨fun hz => ?_, fun hz hA hz' => ?_, fun hS hz => ?_,
    fun hvalid => ⟨fun hout => ⟨fun hz => ?_, fun hS hz => ?_⟩, fun hout hz hA hz' => ?_⟩⟩
  · exact branch_goes h 0x50 (by simp [hz]) hrel
  · exact branch_goes h 0x52 (target := fun t => areg (strOf t i) (fRA i)) (by simp [hz, hA, hz']) rfl
  · exact branch_links h 0x51 (by simp [hS, hz]) hrel
  · exact branch_faults h 0x50 (fun _ => id) (by simp [hz]) hrel hout hvalid
  · exact branch_faults h 0x51 (fun t x => setSreg x (fRD i) (BitVec.ofNat 64 (pcNow t i + 8))) (by simp [hS, hz]) hrel hout hvalid
  · exact branch_faults h 0x52 (target := fun t => areg (strOf t i) (fRA i)) (fun _ => id) (by simp [hz, hA, hz']) rfl hout hvalid

end Sys2Proof.Proofs
end

section
/-! SUPPORT. mbx.put (R207, R422): what a post leaves, what a block leaves, and the settlement of O14. -/

namespace Sys2Proof.Machine

open Sys2Proof Sys2Proof.Statements

/-! ### Mailboxes and the registers of the sequencers -/

theorem pcOf_mbxPost (s : State) {n : Nat} (hn : n < 64) (w : Word) (k m c : Nat) (st : Stream) :
    pcOf (mbxPost s n w k m) c st = pcOf s c st :=
  fget_of_reg _ 0 c (reg_mbxPost_seq s hn w k m _ 0 c (pcAddr_ge c st))

theorem blockFld_addr_ge (c : Nat) (st : Stream) : 0x7F0001000000 ≤ regAddr (blockFld st).reg 0 c := by
  cases st <;> simp only [blockFld, regAddr, regPlace, blockBase, blockStride] <;> omega

theorem pcOf_fput_blockFld (s : State) (c : Nat) (st st' : Stream) (v : Nat) :
    pcOf (fput s (blockFld st') v 0 c) c st = pcOf s c st := by
  refine fget_fput_of_ne _ _ _ _ _ _ _ _ ?_
  cases st <;> cases st' <;> simp only [pcFld, blockFld, regAddr, regPlace, blockBase, blockStride] <;> omega

/-- A write of a register of a sequencer leaves every mailbox full or empty, with the notice it held. -/
theorem mbx_fput_seq (s : State) {n : Nat} (hn : n < 64) (f : Fld) (v i j : Nat) (hf : 0x7F0001000000 ≤ regAddr f.reg i j) :
    mbxFull (fput s f v i j) n = mbxFull s n ∧ reg (fput s f v i j) .MBX_DATA n = reg s .MBX_DATA n :=
  ⟨mbxFull_of_reg (reg_fput_of_ne _ _ _ _ _ _ _ _ (ne_mailbox n hn hf .MBX_STAT rfl).symm),
    reg_fput_of_ne _ _ _ _ _ _ _ _ (ne_mailbox n hn hf .MBX_DATA rfl).symm⟩

/-! ### Posting -/

/-- A put that posts: the mailbox holds the notice, the stream goes on, and nothing else changes. -/
theorem advance_mbxPost (u : State) (i : Issue) {n : Nat} (hn : n < 64) (w : Word) (k m : Nat) :
    mbxFull (advance (mbxPost u n w k m) i) n = true ∧ reg (advance (mbxPost u n w k m) i) .MBX_DATA n = w ∧
    pcNow (advance (mbxPost u n w k m) i) i = (pcNow u i + 8) % 2 ^ 48 ∧ ButRegs u (advance (mbxPost u n w k m) i) := by
  obtain ⟨full, data⟩ := mbx_fput_seq (mbxPost u n w k m) hn (pcFld i.st) (pcNow (mbxPost u n w k m) i + 8) 0 i.cl (pcAddr_ge _ _)
  refine ⟨full.trans (mbxPost_full _ _ _ _ _), data.trans (reg_data_mbxPost _ _ _ _ _), ?_, (mbxPost_only u n w k m).setPc _ _ _⟩
  exact (pcOf_setPc_self _ _ _ _).trans (by rw [pcNow, pcNow, pcOf_mbxPost u hn])

/-! ### Blocking and going on -/

/-- Blocking touches the block of the stream and SEQ_STAT, nothing else. -/
theorem blockStream_blocks (u : State) (i : Issue) (b : Block) : Blocks u (blockStream u i.cl i.st b) i b := by
  have hfld : regAddr (blockFld i.st).reg 0 i.cl = regAddr .SEQ_STAT 0 i.cl := by cases i.st <;> rfl
  unfold blockStream
  dsimp only
  refine ⟨((ButRegsClusters.refl u).modStr _ _ _).fput _ _ _ _, (SameRegs.of_regs rfl).fput _ _ _ _ (by simp [hfld]),
    fun d hd => ?_, ?_, ?_, pcOf_fput_blockFld _ _ _ _ _⟩
  · rw [clu_fput, clu_modStr_of_ne _ _ _ hd]
  · rw [SameOtherStream, stream_fput, modStr_sameOtherStream u i.cl i.st]
  · rw [strOf, stream_fput, stream_modStr_self]

/-- A stream whose block ended goes on at its next instruction; the rest of the machine stays (R173, R207). -/
theorem unblock_unblocked (s : State) (c : Nat) (st : Stream) : Unblocked s (unblock s c st) c st := by
  unfold unblock
  dsimp only
  refine ⟨?_, ?_, ?_, fun d hd => ?_, ButWork.sameStores (.of_regs ?_)⟩
  · rw [stream_setPc, stream_fput, stream_modStr_self]
  · rw [pcOf_setPc_self, pcOf_fput_blockFld, pcOf_modStr]
  · rw [SameOtherStream, stream_setPc, stream_fput, modStr_sameOtherStream s c st]
  · rw [clu_setPc, clu_fput, clu_modStr_of_ne _ _ _ hd]
  · exact (((ButRegsClusters.refl s).modStr _ _ _).fput _ _ _ _).setPc _ _ _

theorem mbx_unblock (s : State) {n : Nat} (hn : n < 64) (c : Nat) (st : Stream) :
    mbxFull (unblock s c st) n = mbxFull s n ∧ reg (unblock s c st) .MBX_DATA n = reg s .MBX_DATA n := by
  unfold unblock
  dsimp only [setPc]
  obtain ⟨full, data⟩ := mbx_fput_seq (modStr s c st fun x => { x with block := none }) hn (blockFld st) 0 0 c (blockFld_addr_ge c st)
  rw [(mbx_fput_seq _ hn (pcFld st) _ 0 c (pcAddr_ge c st)).1, (mbx_fput_seq _ hn (pcFld st) _ 0 c (pcAddr_ge c st)).2, full, data]
  exact ⟨rfl, rfl⟩

/-- An update of registers alone before the stream goes on is not seen by what going on leaves. -/
theorem unblocked_of_butRegs {s u t : State} {c : Nat} {st : Stream} (h : Unblocked u t c st) (only : ButRegs s u)
    (hpc : pcOf u c st = pcOf s c st) : Unblocked s t c st := by
  obtain ⟨block, pc, other, clusters, stores⟩ := h
  refine ⟨block, pc.trans (by rw [hpc]), other.trans ?_, fun d hd => (clusters d hd).trans (only.clu d), fun a ha => ?_⟩
  · unfold stream; rw [only.clu]
  · obtain ⟨byte, syn, line⟩ := stores a ha
    obtain ⟨byte', syn', line'⟩ := (ButWork.of_regs only.more).sameStores a ha
    exact ⟨byte.trans byte', syn.trans syn', line.trans line'⟩

/-! ### mbx.put, case by case -/

theorem partOf_lt {s : State} {c p : Nat} (h : partOf s c = some p) : p < 8 := by
  unfold partOf at h
  exact List.mem_range.1 (List.mem_of_find?_eq_some h)

theorem putBody_own_free {u : State} {i : Issue} (hself : fSELF i = 1) (hfree : privateFree u i.cl = true) :
    putBody i u = advance (mbxPost u i.cl (sreg (strOf u i) (fieldOf i 51 46)) 0 i.cl) i := by simp [putBody, hself, hfree]

theorem putBody_own_full {u : State} {i : Issue} (hself : fSELF i = 1) (hfull : privateFree u i.cl = false) :
    putBody i u = blockStream u i.cl i.st (.put (sreg (strOf u i) (fieldOf i 51 46))) := by simp [putBody, hself, hfull]

section OpenMailbox
variable {u : State} {i : Issue} {p : Nat}

theorem putBody_open_free (hself : fSELF i = 0) (hpart : partOf u i.cl = some p) (hmb : fMB i = 56 + p)
    (hfull : mbxFull u (56 + p) = false) (hclosed : mbxClosed u (56 + p) = false) :
    putBody i u = advance (mbxPost u (56 + p) (sreg (strOf u i) (fieldOf i 51 46)) 0 i.cl) i := by
  simp [putBody, hself, hpart, hmb, hfull, hclosed, Nat.add_comm p 56]

theorem putBody_open_refuses (hself : fSELF i = 0) (hpart : partOf u i.cl = some p) (hmb : fMB i = 56 + p)
    (h : mbxFull u (56 + p) = true ∨ mbxClosed u (56 + p) = true) : putBody i u = precise u i 0x0B (56 + p) := by
  simp [putBody, hself, hpart, hmb, h, Nat.add_comm p 56]

theorem putBody_other (hself : fSELF i = 0) (hpart : partOf u i.cl = some p) (hmb : fMB i ≠ 56 + p) :
    putBody i u = precise u i 0x04 (regAddr .MBX_PUT (fMB i) 0) := by
  simp [putBody, hself, hpart, hmb, Nat.add_comm p 56, putAddr]

end OpenMailbox

/-- A blocked put whose mailbox is free posts and goes on, unless stream F also waits to put (R207, R422). -/
theorem execPutUnblock_posts {cl : ClusterIx} {st : Stream} {s : State} {w : Word} (hfrozen : isFrozen s = false)
    (hstopped : isStopped s = false) (hrun : (stream s cl st).running = true) (hblock : (stream s cl st).block = some (.put w))
    (hfree : privateFree s cl = true) (hfirst : st = .B → ∀ v, (stream s cl .F).block ≠ some (.put v)) :
    execPutUnblock cl st s = .next (unblock (mbxPost s cl w 0 cl) cl st) := by
  have hb : blockOf s cl st = some (.put w) := by simp [blockOf, hfrozen, hstopped, hrun, hblock]
  cases st with
  | F => simp [execPutUnblock, hb, hfree]
  | B =>
    unfold execPutUnblock
    rw [hb]
    dsimp only
    split
    next v _ hv => exact absurd hv (hfirst rfl v)
    next => simp [hfree]

end Sys2Proof.Machine

namespace Sys2Proof.Proofs

open Sys2Proof Sys2Proof.Machine Sys2Proof.Statements

/-- Settles O14: each branch of mbx.put by its own equation, and the blocked put by what posting and going on leave. -/
theorem mailboxPuts : Obligations.MailboxPuts := by
  refine ⟨fun i s u h hRS hz => ?_, fun cl st s w hfrozen hstopped hrun hblock hfree hfirst => ?_⟩
  · have hcl : i.cl.val < 64 := by omega
    have executes (hto : fSELF i = 0 ∨ fMB i = 0) : exec (.mbxPut i) s = .next (putBody i u) :=
      issue_legal h 0x65 _ (by simp [hRS, hz, hto])
    refine ⟨fun hself hmb hfree => ?_, fun hself hmb hvalid => ?_, fun hself hmb hfull => ?_, fun p hpart hself hmb hfull hclosed => ?_,
      fun p hpart hself hmb hno hvalid => ?_, fun p hpart hself hmb hvalid => ?_⟩
    · obtain ⟨full, data, pc, only⟩ := advance_mbxPost u i hcl (sreg (strOf u i) (fieldOf i 51 46)) 0 i.cl
      rw [← putBody_own_free hself hfree] at full data pc only
      exact ⟨_, executes (.inr hmb), full, data, pc, only⟩
    · exact illegal_trapTaken h 0x65 _ (by simp [hself, hmb]) hvalid
    · rw [executes (.inr hmb), putBody_own_full hself hfull]
      exact ⟨_, rfl, blockStream_blocks u i _⟩
    · have hn : 56 + p < 64 := by have := partOf_lt hpart; omega
      obtain ⟨full, data, pc, only⟩ := advance_mbxPost u i hn (sreg (strOf u i) (fieldOf i 51 46)) 0 i.cl
      rw [← putBody_open_free hself hpart hmb hfull hclosed] at full data pc only
      exact ⟨_, executes (.inl hself), full, data, pc, only⟩
    · rw [executes (.inl hself), putBody_open_refuses hself hpart hmb hno]
      exact ⟨_, rfl, precise_trapTaken u i _ (by decide) hvalid⟩
    · rw [executes (.inl hself), putBody_other hself hpart hmb]
      exact ⟨_, rfl, precise_trapTaken u i _ (by decide) hvalid⟩
  · have hcl : cl.val < 64 := by omega
    obtain ⟨full, data⟩ := mbx_unblock (mbxPost s cl w 0 cl) hcl cl st
    exact ⟨_, execPutUnblock_posts hfrozen hstopped hrun hblock hfree hfirst,
      unblocked_of_butRegs (unblock_unblocked _ _ _) (mbxPost_only _ _ _ _ _) (pcOf_mbxPost s hcl w 0 cl cl st),
      full.trans (mbxPost_full _ _ _ _ _), data.trans (reg_data_mbxPost _ _ _ _ _)⟩

end Sys2Proof.Proofs
end

section
/-! SUPPORT. Instructions that write one register and go on (R202), by the register they write; and the settlement of O2. -/

namespace Sys2Proof.Machine

open Sys2Proof Sys2Proof.Statements

/-! ### Writing a register and going on -/

/-- y differs from x in scalar, address and predicate registers only. -/
def RegistersOnly (x y : StreamState) : Prop := y = { x with sreg := y.sreg, areg := y.areg, preg := y.preg }

theorem registersOnly_setSreg (x : StreamState) (n : Nat) (v : Word) : RegistersOnly x (setSreg x n v) := by
  unfold setSreg; split <;> rfl
theorem registersOnly_setAreg (x : StreamState) (n : Nat) (v : Word) : RegistersOnly x (setAreg x n v) := by rfl
theorem registersOnly_setPreg (x : StreamState) (n : Nat) (v : Bool) : RegistersOnly x (setPreg x n v) := by
  unfold setPreg; split <;> rfl

theorem strOf_retire (f : StreamState → StreamState) (u : State) (i : Issue) : strOf (retire f u i) i = f (strOf u i) := by
  rw [strOf, retire, advance, stream_setPc, stream_modStr_self, strOf]

/-- An instruction that changes registers of its stream goes on at the next word and leaves everything else. -/
theorem retire_streamOnly (f : StreamState → StreamState) (u : State) (i : Issue) (hf : RegistersOnly (strOf u i) (f (strOf u i))) :
    StreamOnly u (retire f u i) i := by
  refine ⟨((ButRegsClusters.refl u).modStr _ _ _).setPc _ _ _, (SameRegs.of_regs rfl).setPc _ _ _ (by simp), ?_, fun d hd => ?_, ?_, ?_⟩
  · exact pcOf_setPc_self _ _ _ _
  · exact clu_modStr_of_ne u i.st f hd
  · rw [strOf_retire, retire, advance, clu_setPc, clu_modStr_self]; rfl
  · rw [strOf_retire]; exact hf

section Retire
variable {u : State} {i : Issue} {f : StreamState → StreamState}

theorem retire_writesScalar {v : Word} (hf : f (strOf u i) = setSreg (strOf u i) (fRD i) v) : WritesScalar u (retire f u i) i v := by
  refine ⟨retire_streamOnly f u i (hf ▸ registersOnly_setSreg _ _ _), fun n => ?_, fun n => ?_, fun n => ?_⟩ <;> rw [strOf_retire, hf]
  · exact sreg_setSreg_read _ _ _ _
  · exact areg_setSreg _ _ _ _
  · exact preg_setSreg _ _ _ _

theorem retire_writesPredicate {v : Bool} (hf : f (strOf u i) = setPreg (strOf u i) (fRD i) v) :
    WritesPredicate u (retire f u i) i v := by
  refine ⟨retire_streamOnly f u i (hf ▸ registersOnly_setPreg _ _ _), fun n => ?_, fun n => ?_, fun n => ?_⟩ <;> rw [strOf_retire, hf]
  · exact preg_setPreg_read _ _ _ _
  · exact sreg_setPreg _ _ _ _
  · exact areg_setPreg _ _ _ _

theorem retire_writesAddress {v : Word} (hf : f (strOf u i) = setAreg (strOf u i) (fRD i) v) : WritesAddress u (retire f u i) i v := by
  refine ⟨retire_streamOnly f u i (hf ▸ registersOnly_setAreg _ _ _), fun n => ?_, fun n => ?_, fun n => ?_⟩ <;> rw [strOf_retire, hf]
  · exact areg_setAreg _ _ _ _
  · exact sreg_setAreg _ _ _ _
  · exact preg_setAreg _ _ _ _

end Retire

/-! ### Issued instructions that write one register -/

section Issued
variable {s u : State} {i : Issue} (h : Executes s u i) (opc : Nat) {legal : Bool} (hl : legal = true)
include h hl

theorem issue_writesScalar {g : StreamState → Word} {v : Word} (hv : g (strOf u i) = v) :
    ∃ t, issue opc legal (fun t => retire (fun x => setSreg x (fRD i) (g x)) t i) i s = .next t ∧ WritesScalar u t i v :=
  ⟨_, issue_legal h opc _ hl, retire_writesScalar (congrArg _ hv)⟩

theorem issue_writesPredicate {g : StreamState → Bool} {v : Bool} (hv : g (strOf u i) = v) :
    ∃ t, issue opc legal (fun t => retire (fun x => setPreg x (fRD i) (g x)) t i) i s = .next t ∧ WritesPredicate u t i v :=
  ⟨_, issue_legal h opc _ hl, retire_writesPredicate (congrArg _ hv)⟩

theorem issue_writesAddress {g : StreamState → Word} {v : Word} (hv : g (strOf u i) = v) :
    ∃ t, issue opc legal (fun t => retire (fun x => setAreg x (fRD i) (g x)) t i) i s = .next t ∧ WritesAddress u t i v :=
  ⟨_, issue_legal h opc _ hl, retire_writesAddress (congrArg _ hv)⟩

end Issued

/-! ### The tables of R202 and the model -/

/-- Every row of the table of format R is scalarR of a function that gives the row's value. -/
theorem scalarTable_models : ∀ e ∈ scalarTable, ∃ opc g, (∀ i s, exec (e.1 i) s = scalarR opc g i s) ∧ ∀ a b, g a b = e.2 a b := by
  intro e he
  simp only [scalarTable, List.mem_cons, List.not_mem_nil, or_false] at he
  obtain rfl | rfl | rfl | rfl | rfl | rfl | rfl | rfl | rfl | rfl | rfl | rfl | rfl := he
  · exact ⟨_, _, exec_add, add_eq_ofInt⟩
  · exact ⟨_, _, exec_sub, sub_eq_ofInt⟩
  · exact ⟨_, _, exec_mul, mul_eq_ofNat⟩
  · exact ⟨_, _, exec_and, and_eq_ofNat⟩
  · exact ⟨_, _, exec_or, or_eq_ofNat⟩
  · exact ⟨_, _, exec_xor, xor_eq_ofNat⟩
  · exact ⟨_, _, exec_shl, fun a b => shiftLeft_eq_ofNat a (shiftAmt b)⟩
  · exact ⟨_, _, exec_shr, fun a b => shiftRight_eq_ofNat a (shiftAmt b)⟩
  · exact ⟨_, _, exec_sra, fun a b => sshiftRight_eq_ofInt a (shiftAmt b)⟩
  · exact ⟨_, _, exec_min, sMin_eq⟩
  · exact ⟨_, _, exec_max, sMax_eq⟩
  · exact ⟨_, _, exec_minu, uMin_eq⟩
  · exact ⟨_, _, exec_maxu, uMax_eq⟩

/-- Every row of the table of format I is scalarI of a function that gives the row's value; the rows with reserved immediate bits are legal
for an amount below 64. -/
theorem immediateTable_models : ∀ e ∈ immediateTable, ∃ opc, ∃ immOk : Issue → Bool, ∃ g,
    (∀ i s, exec (e.1 i) s = scalarI opc (immOk i) g i s) ∧
    (∀ i, (e.2.1 = true → (fIMM i).toNat < 64) → immOk i = true) ∧ ∀ a n, g a n = e.2.2 a n := by
  intro e he
  simp only [immediateTable, List.mem_cons, List.not_mem_nil, or_false] at he
  obtain rfl | rfl | rfl | rfl | rfl | rfl | rfl := he
  · exact ⟨_, fun _ => true, _, exec_addi, fun _ _ => rfl, fun a n => by rw [add_eq_ofInt, sext32_toInt]⟩
  · exact ⟨_, fun _ => true, _, exec_andi, fun _ _ => rfl, fun a n => by rw [sext32_eq_ofInt]⟩
  · exact ⟨_, fun _ => true, _, exec_ori, fun _ _ => rfl, fun a n => by rw [sext32_eq_ofInt]⟩
  · exact ⟨_, fun _ => true, _, exec_xori, fun _ _ => rfl, fun a n => by rw [sext32_eq_ofInt]⟩
  · exact ⟨_, shiftImmOk, _, exec_shli, fun i hi => (shiftImmOk_iff i).2 (hi rfl), fun a n => shiftLeft_eq_ofNat a n.toNat⟩
  · exact ⟨_, shiftImmOk, _, exec_shri, fun i hi => (shiftImmOk_iff i).2 (hi rfl), fun a n => shiftRight_eq_ofNat a n.toNat⟩
  · exact ⟨_, shiftImmOk, _, exec_srai, fun i hi => (shiftImmOk_iff i).2 (hi rfl), fun a n => sshiftRight_eq_ofInt a n.toNat⟩

/-- A shift by an immediate of 64 or more sets a reserved bit (R202). -/
theorem shiftImmOk_eq_false {i : Issue} (h : 64 ≤ (fIMM i).toNat) : shiftImmOk i = false :=
  Bool.eq_false_iff.2 fun ok => absurd ((shiftImmOk_iff i).1 ok) (Nat.not_lt.2 h)

/-! ### The rows one by one -/

section Rows
variable {s u : State} {i : Issue} (h : Executes s u i)
include h

theorem scalarR_writes {e : (Issue → Instr) × (Word → Word → Word)} (he : e ∈ scalarTable) (hRD : fRD i ≤ 31) (hRA : fRA i ≤ 31)
    (hRB : fRB i ≤ 31) (hz : fieldOf i 33 0 = 0) :
    ∃ t, exec (e.1 i) s = .next t ∧ WritesScalar u t i (e.2 (sreg (strOf u i) (fRA i)) (sreg (strOf u i) (fRB i))) := by
  obtain ⟨opc, g, hexec, hg⟩ := scalarTable_models e he
  rw [hexec]
  exact issue_writesScalar h opc (by simp [hRD, hRA, hRB, hz]) (hg _ _)

theorem scalarI_writes {e : (Issue → Instr) × Bool × (Word → BitVec 32 → Word)} (he : e ∈ immediateTable) (hRD : fRD i ≤ 31)
    (hRA : fRA i ≤ 31) (hz : fieldOf i 39 32 = 0) (himm : e.2.1 = true → (fIMM i).toNat < 64) :
    ∃ t, exec (e.1 i) s = .next t ∧ WritesScalar u t i (e.2.2 (sreg (strOf u i) (fRA i)) (fIMM i)) := by
  obtain ⟨opc, immOk, g, hexec, hok, hg⟩ := immediateTable_models e he
  rw [hexec]
  exact issue_writesScalar h opc (by simp [hRD, hRA, hz, hok i himm]) (hg _ _)

/-- li and lih. -/
theorem loadImmediates_write (hRD : fRD i ≤ 31) (hz : fieldOf i 45 32 = 0) :
    (∃ t, exec (.li i) s = .next t ∧ WritesScalar u t i (BitVec.ofInt 64 (fIMM i).toInt)) ∧
    ∃ t, exec (.lih i) s = .next t ∧
      WritesScalar u t i (BitVec.ofNat 64 ((fIMM i).toNat * 2 ^ 32 + (sreg (strOf u i) (fRD i)).toNat % 2 ^ 32)) :=
  have hl : (isS (fRD i) && zeroBits i 45 32) = true := by simp [hRD, hz]
  ⟨issue_writesScalar h 0x27 hl (g := fun _ => sext32 (fIMM i)) (sext32_eq_ofInt _),
    issue_writesScalar h 0x28 hl (g := fun x => (fIMM i).zeroExtend 64 <<< 32 ||| (sreg x (fRD i) &&& 0xFFFFFFFF)) (lih_eq_ofNat _ _)⟩

theorem cmp_writes (hRD : fRD i ≤ 7) (hRA : fRA i ≤ 31) (hRB : fRB i ≤ 31) (hCC : fCCR i ≤ 5) (hz : fieldOf i 29 0 = 0) :
    ∃ t, exec (.cmp i) s = .next t ∧
      WritesPredicate u t i (condition (fCCR i) (sreg (strOf u i) (fRA i)) (sreg (strOf u i) (fRB i))) :=
  issue_writesPredicate h 0x30 (by simp [hRD, hRA, hRB, hCC, hz])
    (g := fun x => (condOf (fCCR i) (sreg x (fRA i)) (sreg x (fRB i))).getD false) (condOf_eq hCC _ _)

theorem cmpi_writes (hRD : fRD i ≤ 7) (hRA : fRA i ≤ 31) (hCC : fCCI i ≤ 5) (hz : fieldOf i 35 32 = 0) :
    ∃ t, exec (.cmpi i) s = .next t ∧
      WritesPredicate u t i (condition (fCCI i) (sreg (strOf u i) (fRA i)) (BitVec.ofInt 64 (fIMM i).toInt)) :=
  issue_writesPredicate h 0x31 (by simp [hRD, hRA, hCC, hz])
    (g := fun x => (condOf (fCCI i) (sreg x (fRA i)) (sext32 (fIMM i))).getD false) (by rw [condOf_eq hCC, sext32_eq_ofInt])

theorem pop_writes (hRD : fRD i ≤ 7) (hRA : fRA i ≤ 7) (hRB : fRB i ≤ 7) (hCC : fCCR i ≤ 3) (hz : fieldOf i 29 0 = 0) :
    ∃ t, exec (.pop i) s = .next t ∧
      WritesPredicate u t i (logic (fCCR i) (preg (strOf u i) (fRA i)) (preg (strOf u i) (fRB i))) :=
  issue_writesPredicate h 0x32 (by simp [hRD, hRA, hRB, hCC, hz])
    (g := fun x => (popOf (fCCR i) (preg x (fRA i)) (preg x (fRB i))).getD false) (popOf_eq hCC _ _)

theorem movA_writes (hRD : fRD i ≤ 15) (hRA : fRA i ≤ 31) (hz : fieldOf i 39 0 = 0) :
    ∃ t, exec (.movA i) s = .next t ∧ WritesAddress u t i (sreg (strOf u i) (fRA i)) :=
  issue_writesAddress h 0x33 (by simp [hRD, hRA, hz]) (g := fun x => sreg x (fRA i)) rfl

theorem movS_writes (hRD : fRD i ≤ 31) (hRA : fRA i ≤ 15) (hz : fieldOf i 39 0 = 0) :
    ∃ t, exec (.movS i) s = .next t ∧ WritesScalar u t i (areg (strOf u i) (fRA i)) :=
  issue_writesScalar h 0x34 (by simp [hRD, hRA, hz]) (g := fun x => areg x (fRA i)) rfl

theorem adda_writes (hRD : fRD i ≤ 15) (hRA : fRA i ≤ 15) (hRB : fRB i ≤ 31) (hz : fieldOf i 33 0 = 0) :
    ∃ t, exec (.adda i) s = .next t ∧
      WritesAddress u t i (BitVec.ofNat 64 ((areg (strOf u i) (fRA i)).toNat + (sreg (strOf u i) (fRB i)).toNat)) :=
  issue_writesAddress h 0x35 (by simp [hRD, hRA, hRB, hz]) (g := fun x => areg x (fRA i) + sreg x (fRB i)) (add_eq_ofNat _ _)

theorem addai_writes (hRD : fRD i ≤ 15) (hRA : fRA i ≤ 15) (hz : fieldOf i 39 32 = 0) :
    ∃ t, exec (.addai i) s = .next t ∧
      WritesAddress u t i (BitVec.ofInt 64 ((areg (strOf u i) (fRA i)).toInt + (fIMM i).toInt)) :=
  issue_writesAddress h 0x36 (by simp [hRD, hRA, hz]) (g := fun x => areg x (fRA i) + sext32 (fIMM i))
    (by rw [add_eq_ofInt, sext32_toInt])

/-- The condition codes 6 to 15 of cmp and cmpi and the logic codes 4 to 15 of pop are reserved. -/
theorem reservedCodes_trap (hvalid : fget u F.SEQ_TRAP_CAUSE.VALID 0 i.cl = 0) :
    (6 ≤ fCCR i → ∃ t, exec (.cmp i) s = .next t ∧ TrapTaken u t i.cl i.st (pcNow u i) 0x01 (instrWord 0x30 i)) ∧
    (6 ≤ fCCI i → ∃ t, exec (.cmpi i) s = .next t ∧ TrapTaken u t i.cl i.st (pcNow u i) 0x01 (instrWord 0x31 i)) ∧
    (4 ≤ fCCR i → ∃ t, exec (.pop i) s = .next t ∧ TrapTaken u t i.cl i.st (pcNow u i) 0x01 (instrWord 0x32 i)) := by
  refine ⟨fun hCC => ?_, fun hCC => ?_, fun hCC => ?_⟩
  · exact illegal_trapTaken h 0x30 _ (by simp [Nat.not_le.2 hCC]) hvalid
  · exact illegal_trapTaken h 0x31 _ (by simp [Nat.not_le.2 hCC]) hvalid
  · exact illegal_trapTaken h 0x32 _ (by simp [Nat.not_le.2 hCC]) hvalid

/-- A shift by an immediate of 64 or more is ILLEGAL. -/
theorem shiftImmediates_trap (hvalid : fget u F.SEQ_TRAP_CAUSE.VALID 0 i.cl = 0) (himm : 64 ≤ (fIMM i).toNat) :
    (∃ t, exec (.shli i) s = .next t ∧ TrapTaken u t i.cl i.st (pcNow u i) 0x01 (instrWord 0x24 i)) ∧
    (∃ t, exec (.shri i) s = .next t ∧ TrapTaken u t i.cl i.st (pcNow u i) 0x01 (instrWord 0x25 i)) ∧
    (∃ t, exec (.srai i) s = .next t ∧ TrapTaken u t i.cl i.st (pcNow u i) 0x01 (instrWord 0x26 i)) := by
  have reserved := shiftImmOk_eq_false himm
  refine ⟨?_, ?_, ?_⟩
  · exact illegal_trapTaken h 0x24 _ (by simp [reserved]) hvalid
  · exact illegal_trapTaken h 0x25 _ (by simp [reserved]) hvalid
  · exact illegal_trapTaken h 0x26 _ (by simp [reserved]) hvalid

end Rows

end Sys2Proof.Machine

namespace Sys2Proof.Proofs

open Sys2Proof Sys2Proof.Machine Sys2Proof.Statements

/-- Settles O2: every instruction of R202 by the register it writes, and its reserved codes by the check before the body. -/
theorem scalarInstructionsCompute : Obligations.ScalarInstructionsCompute := by
  refine ⟨fun e he i s u h => scalarR_writes h he, fun e he i s u h => scalarI_writes h he, fun i s u h => loadImmediates_write h,
    fun i s u h hRD => ⟨cmp_writes h hRD, cmpi_writes h hRD, pop_writes h hRD⟩,
    fun i s u h => ⟨movA_writes h, movS_writes h, adda_writes h, addai_writes h⟩, fun i s u h hvalid =>
    ⟨shiftImmediates_trap h hvalid, reservedCodes_trap h hvalid⟩⟩

end Sys2Proof.Proofs
end
